-- ==== Sys2Proof/Word.lean ====
section
/-! DEFINITION. The word types of the SMMU: the bytes, register words and queue entries the spec speaks of. -/
namespace Sys2Proof

/-- One byte of memory. -/
abbrev Byte := BitVec 8
/-- A 32-bit register or a 32-bit word of a queue entry (10_state.md R102). -/
abbrev W32 := BitVec 32
/-- A 64-bit register, an input address, a translation table descriptor. -/
abbrev W64 := BitVec 64
/-- A Command queue entry: 16 bytes, read as one little-endian number (30_encoding.md R1050). -/
abbrev CmdWord := BitVec 128
/-- An Event queue record: 32 bytes, read as one little-endian number (30_encoding.md R1051). -/
abbrev EvWord := BitVec 256
/-- A Stream Table Entry or a Context Descriptor: 64 bytes (21_structures_ste.md, 22_structures_cd.md). -/
abbrev StructWord := BitVec 512

end Sys2Proof
end

