-- ==== Sys2Proof/Machine/Bits.lean ====
section
/-! DEFINITION. Bit-field helpers: reading, writing and placing fields of a word, and the little-endian byte order. -/
namespace Sys2Proof.Machine

/-- Bit `i` of `x` as a Bool. -/
def bit {w : Nat} (x : BitVec w) (i : Nat) : Bool := x.getLsbD i

/-- The `n` bits of `x` from bit `lo` upwards. -/
def fld {w : Nat} (x : BitVec w) (lo n : Nat) : BitVec n := x.extractLsb' lo n

/-- `v` placed at bit `lo` of a `w`-bit word, every other bit zero. -/
def place {n : Nat} (w : Nat) (v : BitVec n) (lo : Nat) : BitVec w := (v.setWidth w) <<< lo

/-- A single bit placed at bit `lo` of a `w`-bit word. -/
def placeBit (w : Nat) (b : Bool) (lo : Nat) : BitVec w := if b then 1#w <<< lo else 0#w

/-- `x` with the `n` bits from bit `lo` replaced by `v`. -/
def setFld {w n : Nat} (x : BitVec w) (lo : Nat) (v : BitVec n) : BitVec w :=
  (x &&& ~~~(place w (BitVec.allOnes n) lo)) ||| place w v lo

/-- `x` with bit `i` replaced by `b`. -/
def setBit {w : Nat} (x : BitVec w) (i : Nat) (b : Bool) : BitVec w := setFld x i (BitVec.ofBool b)

/-- A word with ones in bits `lo` to `lo + n - 1`. -/
def maskOf (w lo n : Nat) : BitVec w := place w (BitVec.allOnes n) lo

/-- The bits of `old` outside `mask` and the bits of `new` inside it. -/
def mergeMask {w : Nat} (mask old new : BitVec w) : BitVec w := (old &&& ~~~mask) ||| (new &&& mask)

/-- `x` with the field at bit `lo` at the encoding `d` where it holds a reserved one (`ok` says which are not): an identification
register never gives a reserved encoding (00_scope.md R31). -/
def unreserve {w n : Nat} (x : BitVec w) (lo : Nat) (ok : BitVec n → Bool) (d : BitVec n) : BitVec w :=
  if ok (fld x lo n) then x else setFld x lo d

/-- Whether bits `lo` and above of `x` are all zero. -/
def zeroFrom {w : Nat} (x : BitVec w) (lo : Nat) : Bool := x.toNat < 2 ^ lo

/-- `x` with every bit from bit `lo` upwards cleared. -/
def truncTo {w : Nat} (x : BitVec w) (lo : Nat) : BitVec w := BitVec.ofNat w (x.toNat % 2 ^ lo)

/-- `x` with its low `n` bits cleared. -/
def alignDown {w : Nat} (x : BitVec w) (n : Nat) : BitVec w := (x >>> n) <<< n

/-- The little-endian number of a list of bytes, the first byte least significant (30_encoding.md R1050). -/
def leNat : List Byte → Nat
  | [] => 0
  | b :: bs => b.toNat + 256 * leNat bs

/-- The `n` bytes of a number in little-endian order. -/
def leBytes : Nat → Nat → List Byte
  | 0, _ => []
  | n + 1, v => BitVec.ofNat 8 v :: leBytes n (v / 256)

/-- The bytes of a word reversed, for a big-endian descriptor (22_structures_cd.md CD.ENDI, 21 STE.S2ENDI). -/
def byteSwap64 (x : W64) : W64 := BitVec.ofNat 64 (leNat (leBytes 8 x.toNat).reverse)

/-- The largest `k ≤ n` such that the low `k` bits of `x` are all one. -/
def trailingOnes {w : Nat} (x : BitVec w) : Nat → Nat
  | 0 => 0
  | n + 1 => if (List.range (n + 1)).all (fun i => bit x i) then n + 1 else trailingOnes x n

/-- A word of the CoreSight identification space (51_pmcg.md R1452, 52_ras.md R1557): the component identification with its
class, and of the peripheral identification `raw` the bits that the layout has; `pidr4` are those of PIDR4. -/
def coreSightId (cls : BitVec 4) (pidr4 : W32) (raw : List (Nat × W32)) (off : Nat) : W32 :=
  let v := (raw.lookup off).getD 0
  if off = 0xFF0 then 0x0D#32
  else if off = 0xFF4 then place 32 cls 4
  else if off = 0xFF8 then 0x05#32
  else if off = 0xFFC then 0xB1#32
  else if off = 0xFE0 ∨ off = 0xFE4 ∨ off = 0xFEC then v &&& 0xFF#32
  else if off = 0xFE8 then v &&& 0xF7#32 ||| 0x08#32
  else if off = 0xFD0 then v &&& pidr4
  else 0

/-- The index of the lowest set bit of `x` at or above `lo`, searching `n` bits. -/
def lowestSet {w : Nat} (x : BitVec w) (lo : Nat) : Nat → Option Nat
  | 0 => none
  | n + 1 => if bit x lo then some lo else lowestSet x (lo + 1) n

end Sys2Proof.Machine
end

