-- ==== Sys2Proof/Syntax.lean ====
section
/-! DEFINITION. The commands of the Command queues: one constructor per row of the opcode table. -/
namespace Sys2Proof

/-- A command of a Command queue (30_encoding.md R1054). A field that a rule names is an argument; `res` holds the bits
the rule lists as RES0, in their places, so that no bit of the 16 bytes is dropped and R1055's check can be made when the
command runs. `reserved` and `impdef` keep the whole entry. -/
inductive Instr where
  /-- CMD_PREFETCH_CONFIG, opcode 0x01 (R1105). -/
  | prefetchConfig (ssec : Bool) (ssv : Bool) (ssid : BitVec 20) (sid : BitVec 32) (res : CmdWord)
  /-- CMD_PREFETCH_ADDR, opcode 0x02 (R1106). -/
  | prefetchAddr (ssec : Bool) (ssv : Bool) (ssid : BitVec 20) (sid : BitVec 32) (size : BitVec 5) (stride : BitVec 5) (addr : BitVec 52) (res : CmdWord)
  /-- CMD_CFGI_STE, opcode 0x03 (R1114). -/
  | cfgiSte (ssec : Bool) (sid : BitVec 32) (leaf : Bool) (res : CmdWord)
  /-- CMD_CFGI_STE_RANGE, opcode 0x04 (R1115). -/
  | cfgiSteRange (ssec : Bool) (sid : BitVec 32) (range : BitVec 5) (res : CmdWord)
  /-- CMD_CFGI_ALL, opcode 0x04 with Range == 31 (R1118). -/
  | cfgiAll (ssec : Bool) (sid : BitVec 32) (res : CmdWord)
  /-- CMD_CFGI_CD, opcode 0x05 (R1116). -/
  | cfgiCd (ssec : Bool) (ssid : BitVec 20) (sid : BitVec 32) (leaf : Bool) (res : CmdWord)
  /-- CMD_CFGI_CD_ALL, opcode 0x06 (R1117). -/
  | cfgiCdAll (ssec : Bool) (sid : BitVec 32) (res : CmdWord)
  /-- CMD_TLBI_NH_ALL, opcode 0x10 (R1160). -/
  | tlbiNhAll (vmid : BitVec 16) (res : CmdWord)
  /-- CMD_TLBI_NH_ASID, opcode 0x11 (R1161). -/
  | tlbiNhAsid (vmid : BitVec 16) (asid : BitVec 16) (res : CmdWord)
  /-- CMD_TLBI_NH_VA, opcode 0x12 (R1163). -/
  | tlbiNhVa (vmid : BitVec 16) (asid : BitVec 16) (leaf : Bool) (addr : BitVec 52) (res : CmdWord)
  /-- CMD_TLBI_NH_VAA, opcode 0x13 (R1162). -/
  | tlbiNhVaa (vmid : BitVec 16) (leaf : Bool) (addr : BitVec 52) (res : CmdWord)
  /-- CMD_TLBI_EL3_ALL, opcode 0x18 (R1164). -/
  | tlbiEl3All (res : CmdWord)
  /-- CMD_TLBI_EL3_VA, opcode 0x1A (R1165). -/
  | tlbiEl3Va (leaf : Bool) (addr : BitVec 52) (res : CmdWord)
  /-- CMD_TLBI_EL2_ALL, opcode 0x20 (R1166). -/
  | tlbiEl2All (res : CmdWord)
  /-- CMD_TLBI_EL2_ASID, opcode 0x21 (R1169). -/
  | tlbiEl2Asid (asid : BitVec 16) (res : CmdWord)
  /-- CMD_TLBI_EL2_VA, opcode 0x22 (R1167). -/
  | tlbiEl2Va (asid : BitVec 16) (leaf : Bool) (addr : BitVec 52) (res : CmdWord)
  /-- CMD_TLBI_EL2_VAA, opcode 0x23 (R1168). -/
  | tlbiEl2Vaa (leaf : Bool) (addr : BitVec 52) (res : CmdWord)
  /-- CMD_TLBI_S12_VMALL, opcode 0x28 (R1171). -/
  | tlbiS12Vmall (vmid : BitVec 16) (res : CmdWord)
  /-- CMD_TLBI_S2_IPA, opcode 0x2A (R1170). -/
  | tlbiS2Ipa (vmid : BitVec 16) (leaf : Bool) (addr : BitVec 40) (res : CmdWord)
  /-- CMD_TLBI_NSNH_ALL, opcode 0x30 (R1172). -/
  | tlbiNsnhAll (res : CmdWord)
  /-- CMD_ATC_INV, opcode 0x40 (R1203). -/
  | atcInv (glob : Bool) (ssv : Bool) (ssid : BitVec 20) (sid : BitVec 32) (size : BitVec 6) (addr : BitVec 52) (res : CmdWord)
  /-- CMD_PRI_RESP, opcode 0x41 (R1204). -/
  | priResp (ssv : Bool) (ssid : BitVec 20) (sid : BitVec 32) (group : BitVec 9) (resp : BitVec 2) (res : CmdWord)
  /-- CMD_RESUME, opcode 0x44 (R1230). -/
  | resume (ssec : Bool) (ac : Bool) (ab : Bool) (sid : BitVec 32) (stag : BitVec 16) (res : CmdWord)
  /-- CMD_STALL_TERM, opcode 0x45 (R1233). -/
  | stallTerm (ssec : Bool) (sid : BitVec 32) (res : CmdWord)
  /-- CMD_SYNC, opcode 0x46 (R1240). -/
  | sync (cs : BitVec 2) (msh : BitVec 2) (msiAttr : BitVec 4) (msiData : BitVec 32) (msiAddr : BitVec 50) (res : CmdWord)
  /-- A Reserved opcode (R1057). -/
  | reserved (w : CmdWord)
  /-- An IMPLEMENTATION DEFINED opcode, 0x80 to 0x8F (R1058). -/
  | impdef (w : CmdWord)
  deriving DecidableEq, Repr, Inhabited

end Sys2Proof
end

