-- ==== Sys2Proof/Machine/Res0.lean ====
section
/-! DEFINITION. The RES0 bits of every command and the classes of opcodes (30_encoding.md R1055 to R1058). -/
namespace Sys2Proof.Machine

/-- The bits the command's rule lists as RES0 in every architecture version (40 to 43). -/
def res0Mask : Instr → CmdWord
  | .prefetchConfig _ _ _ _ _ => maskOf 128 8 2 ||| maskOf 128 64 64
  | .prefetchAddr _ _ _ _ _ _ _ _ => maskOf 128 8 2 ||| maskOf 128 74 2
  | .cfgiSte _ _ _ _ => maskOf 128 8 2 ||| maskOf 128 11 21 ||| maskOf 128 65 63
  | .cfgiSteRange _ _ _ _ => maskOf 128 8 2 ||| maskOf 128 11 21 ||| maskOf 128 69 59
  | .cfgiAll _ _ _ => maskOf 128 8 2 ||| maskOf 128 11 21 ||| maskOf 128 69 59
  | .cfgiCd _ _ _ _ _ => maskOf 128 8 2 ||| maskOf 128 11 1 ||| maskOf 128 65 63
  | .cfgiCdAll _ _ _ => maskOf 128 8 2 ||| maskOf 128 11 21 ||| maskOf 128 64 64
  | .tlbiNhAll _ _ => maskOf 128 8 24 ||| maskOf 128 48 16 ||| maskOf 128 64 64
  | .tlbiNhAsid _ _ _ => maskOf 128 8 24 ||| maskOf 128 64 64
  | .tlbiNhVa _ _ _ _ _ => maskOf 128 8 24 ||| maskOf 128 65 11
  | .tlbiNhVaa _ _ _ _ => maskOf 128 8 24 ||| maskOf 128 48 16 ||| maskOf 128 65 11
  | .tlbiEl3All _ => maskOf 128 8 120
  | .tlbiEl3Va _ _ _ => maskOf 128 8 56 ||| maskOf 128 65 11
  | .tlbiEl2All _ => maskOf 128 8 120
  | .tlbiEl2Asid _ _ => maskOf 128 8 40 ||| maskOf 128 64 64
  | .tlbiEl2Va _ _ _ _ => maskOf 128 8 40 ||| maskOf 128 65 11
  | .tlbiEl2Vaa _ _ _ => maskOf 128 8 56 ||| maskOf 128 65 11
  | .tlbiS12Vmall _ _ => maskOf 128 8 24 ||| maskOf 128 48 16 ||| maskOf 128 64 64
  | .tlbiS2Ipa _ _ _ _ => maskOf 128 8 24 ||| maskOf 128 48 16 ||| maskOf 128 65 11 ||| maskOf 128 116 12
  | .tlbiNsnhAll _ => maskOf 128 8 120
  | .atcInv _ _ _ _ _ _ _ => maskOf 128 8 1 ||| maskOf 128 10 1 ||| maskOf 128 70 6
  | .priResp _ _ _ _ _ _ => maskOf 128 8 3 ||| maskOf 128 73 3 ||| maskOf 128 78 50
  | .resume _ _ _ _ _ _ => maskOf 128 8 2 ||| maskOf 128 11 1 ||| maskOf 128 14 18 ||| maskOf 128 80 48
  | .stallTerm _ _ _ => maskOf 128 8 2 ||| maskOf 128 11 21 ||| maskOf 128 64 64
  | .sync _ _ _ _ _ _ => maskOf 128 8 4 ||| maskOf 128 14 8 ||| maskOf 128 28 4 ||| maskOf 128 64 2 ||| maskOf 128 116 12
  | .reserved _ => 0
  | .impdef _ => 0

/-- The RES0 bits a command carries. -/
def residue : Instr → CmdWord
  | .prefetchConfig _ _ _ _ res => res
  | .prefetchAddr _ _ _ _ _ _ _ res => res
  | .cfgiSte _ _ _ res => res
  | .cfgiSteRange _ _ _ res => res
  | .cfgiAll _ _ res => res
  | .cfgiCd _ _ _ _ res => res
  | .cfgiCdAll _ _ res => res
  | .tlbiNhAll _ res => res
  | .tlbiNhAsid _ _ res => res
  | .tlbiNhVa _ _ _ _ res => res
  | .tlbiNhVaa _ _ _ res => res
  | .tlbiEl3All res => res
  | .tlbiEl3Va _ _ res => res
  | .tlbiEl2All res => res
  | .tlbiEl2Asid _ res => res
  | .tlbiEl2Va _ _ _ res => res
  | .tlbiEl2Vaa _ _ res => res
  | .tlbiS12Vmall _ res => res
  | .tlbiS2Ipa _ _ _ res => res
  | .tlbiNsnhAll res => res
  | .atcInv _ _ _ _ _ _ res => res
  | .priResp _ _ _ _ _ res => res
  | .resume _ _ _ _ _ res => res
  | .stallTerm _ _ res => res
  | .sync _ _ _ _ _ res => res
  | .reserved _ => 0
  | .impdef _ => 0

/-- The opcodes of the architected commands (R1054). -/
def architectedOpcodes : List Nat :=
  [0x01, 0x02, 0x03, 0x04, 0x05, 0x06, 0x10, 0x11, 0x12, 0x13, 0x18, 0x1A, 0x20, 0x21, 0x22, 0x23, 0x28, 0x2A, 0x30, 0x40, 0x41, 0x44, 0x45, 0x46]

/-- An IMPLEMENTATION DEFINED opcode (R1058). -/
def isImpdefOpcode (op : BitVec 8) : Bool := decide (0x80 ≤ op.toNat) && decide (op.toNat ≤ 0x8F)

/-- A Reserved opcode (R1057): every one the table of R1054 gives to nothing else. -/
def isReservedOpcode (op : BitVec 8) : Bool := !architectedOpcodes.contains op.toNat && !isImpdefOpcode op

end Sys2Proof.Machine
end

