-- ==== Sys2Proof/WellFormed.lean ====
section
/-! DEFINITION. Well-formed commands: the terms of Instr that stand for 16 bytes. -/
namespace Sys2Proof

/-- The residue lies in the command's RES0 bits; a range of 31 is CMD_CFGI_ALL (40 R1118); an unarchitected opcode is of
the class its constructor names (30 R1057, R1058). -/
def Instr.wf (i : Instr) : Bool :=
  (Machine.residue i &&& ~~~(Machine.res0Mask i) == 0) &&
  match i with
  | .cfgiSteRange _ _ range _ => range != 31
  | .reserved w => Machine.isReservedOpcode (Machine.fld w 0 8)
  | .impdef w => Machine.isImpdefOpcode (Machine.fld w 0 8)
  | .prefetchConfig _ _ _ _ _ => true
  | .prefetchAddr _ _ _ _ _ _ _ _ => true
  | .cfgiSte _ _ _ _ => true
  | .cfgiAll _ _ _ => true
  | .cfgiCd _ _ _ _ _ => true
  | .cfgiCdAll _ _ _ => true
  | .tlbiNhAll _ _ => true
  | .tlbiNhAsid _ _ _ => true
  | .tlbiNhVa _ _ _ _ _ => true
  | .tlbiNhVaa _ _ _ _ => true
  | .tlbiEl3All _ => true
  | .tlbiEl3Va _ _ _ => true
  | .tlbiEl2All _ => true
  | .tlbiEl2Asid _ _ => true
  | .tlbiEl2Va _ _ _ _ => true
  | .tlbiEl2Vaa _ _ _ => true
  | .tlbiS12Vmall _ _ => true
  | .tlbiS2Ipa _ _ _ _ => true
  | .tlbiNsnhAll _ => true
  | .atcInv _ _ _ _ _ _ _ => true
  | .priResp _ _ _ _ _ _ => true
  | .resume _ _ _ _ _ _ => true
  | .stallTerm _ _ _ => true
  | .sync _ _ _ _ _ _ => true

/-- The instructions that have an encoding. -/
abbrev WellFormed (i : Instr) : Prop := i.wf = true

end Sys2Proof
end

