-- ==== Sys2Proof/Decode.lean ====
section
/-! DEFINITION. Decoding a Command queue entry and encoding a command (30_encoding.md R1050, R1054, R1059, 40 to 43). -/
namespace Sys2Proof
open Machine (fld bit place placeBit leNat leBytes isImpdefOpcode)

/-- Why bytes are no command. -/
inductive DecodeError where
  /-- Fewer than the 16 bytes of a Command queue entry (R1050). -/
  | truncated
  deriving DecidableEq, Repr

/-- The command of a 128-bit entry; every entry has one (R1054, R1057, R1058). -/
def decode (w : CmdWord) : Instr :=
  match (fld w 0 8).toNat with
  | 0x01 =>
    .prefetchConfig (bit w 10) (bit w 11) (fld w 12 20) (fld w 32 32) (w &&& Machine.res0Mask (.prefetchConfig false false 0 0 0))
  | 0x02 =>
    .prefetchAddr (bit w 10) (bit w 11) (fld w 12 20) (fld w 32 32) (fld w 64 5) (fld w 69 5) (fld w 76 52) (w &&& Machine.res0Mask (.prefetchAddr false false 0 0 0 0 0 0))
  | 0x03 =>
    .cfgiSte (bit w 10) (fld w 32 32) (bit w 64) (w &&& Machine.res0Mask (.cfgiSte false 0 false 0))
  | 0x04 =>
    if fld w 64 5 = 31 then .cfgiAll (bit w 10) (fld w 32 32) (w &&& Machine.res0Mask (.cfgiAll false 0 0))
    else .cfgiSteRange (bit w 10) (fld w 32 32) (fld w 64 5) (w &&& Machine.res0Mask (.cfgiSteRange false 0 0 0))
  | 0x05 =>
    .cfgiCd (bit w 10) (fld w 12 20) (fld w 32 32) (bit w 64) (w &&& Machine.res0Mask (.cfgiCd false 0 0 false 0))
  | 0x06 => .cfgiCdAll (bit w 10) (fld w 32 32) (w &&& Machine.res0Mask (.cfgiCdAll false 0 0))
  | 0x10 => .tlbiNhAll (fld w 32 16) (w &&& Machine.res0Mask (.tlbiNhAll 0 0))
  | 0x11 => .tlbiNhAsid (fld w 32 16) (fld w 48 16) (w &&& Machine.res0Mask (.tlbiNhAsid 0 0 0))
  | 0x12 =>
    .tlbiNhVa (fld w 32 16) (fld w 48 16) (bit w 64) (fld w 76 52) (w &&& Machine.res0Mask (.tlbiNhVa 0 0 false 0 0))
  | 0x13 =>
    .tlbiNhVaa (fld w 32 16) (bit w 64) (fld w 76 52) (w &&& Machine.res0Mask (.tlbiNhVaa 0 false 0 0))
  | 0x18 => .tlbiEl3All (w &&& Machine.res0Mask (.tlbiEl3All  0))
  | 0x1A => .tlbiEl3Va (bit w 64) (fld w 76 52) (w &&& Machine.res0Mask (.tlbiEl3Va false 0 0))
  | 0x20 => .tlbiEl2All (w &&& Machine.res0Mask (.tlbiEl2All  0))
  | 0x21 => .tlbiEl2Asid (fld w 48 16) (w &&& Machine.res0Mask (.tlbiEl2Asid 0 0))
  | 0x22 =>
    .tlbiEl2Va (fld w 48 16) (bit w 64) (fld w 76 52) (w &&& Machine.res0Mask (.tlbiEl2Va 0 false 0 0))
  | 0x23 => .tlbiEl2Vaa (bit w 64) (fld w 76 52) (w &&& Machine.res0Mask (.tlbiEl2Vaa false 0 0))
  | 0x28 => .tlbiS12Vmall (fld w 32 16) (w &&& Machine.res0Mask (.tlbiS12Vmall 0 0))
  | 0x2A =>
    .tlbiS2Ipa (fld w 32 16) (bit w 64) (fld w 76 40) (w &&& Machine.res0Mask (.tlbiS2Ipa 0 false 0 0))
  | 0x30 => .tlbiNsnhAll (w &&& Machine.res0Mask (.tlbiNsnhAll  0))
  | 0x40 =>
    .atcInv (bit w 9) (bit w 11) (fld w 12 20) (fld w 32 32) (fld w 64 6) (fld w 76 52) (w &&& Machine.res0Mask (.atcInv false false 0 0 0 0 0))
  | 0x41 =>
    .priResp (bit w 11) (fld w 12 20) (fld w 32 32) (fld w 64 9) (fld w 76 2) (w &&& Machine.res0Mask (.priResp false 0 0 0 0 0))
  | 0x44 =>
    .resume (bit w 10) (bit w 12) (bit w 13) (fld w 32 32) (fld w 64 16) (w &&& Machine.res0Mask (.resume false false false 0 0 0))
  | 0x45 => .stallTerm (bit w 10) (fld w 32 32) (w &&& Machine.res0Mask (.stallTerm false 0 0))
  | 0x46 =>
    .sync (fld w 12 2) (fld w 22 2) (fld w 24 4) (fld w 32 32) (fld w 66 50) (w &&& Machine.res0Mask (.sync 0 0 0 0 0 0))
  | _ => if isImpdefOpcode (fld w 0 8) then .impdef w else .reserved w

/-- The 128-bit entry of a command. -/
def encode : Instr → CmdWord
  | .prefetchConfig ssec ssv ssid sid res =>
    place 128 0x01#8 0 ||| placeBit 128 ssec 10 ||| placeBit 128 ssv 11 ||| place 128 ssid 12 ||| place 128 sid 32
      ||| res
  | .prefetchAddr ssec ssv ssid sid size stride addr res =>
    place 128 0x02#8 0 ||| placeBit 128 ssec 10 ||| placeBit 128 ssv 11 ||| place 128 ssid 12 ||| place 128 sid 32
      ||| place 128 size 64 ||| place 128 stride 69 ||| place 128 addr 76 ||| res
  | .cfgiSte ssec sid leaf res =>
    place 128 0x03#8 0 ||| placeBit 128 ssec 10 ||| place 128 sid 32 ||| placeBit 128 leaf 64 ||| res
  | .cfgiSteRange ssec sid range res =>
    place 128 0x04#8 0 ||| placeBit 128 ssec 10 ||| place 128 sid 32 ||| place 128 range 64 ||| res
  | .cfgiAll ssec sid res =>
    place 128 0x04#8 0 ||| place 128 31#5 64 ||| placeBit 128 ssec 10 ||| place 128 sid 32 ||| res
  | .cfgiCd ssec ssid sid leaf res =>
    place 128 0x05#8 0 ||| placeBit 128 ssec 10 ||| place 128 ssid 12 ||| place 128 sid 32 ||| placeBit 128 leaf 64
      ||| res
  | .cfgiCdAll ssec sid res =>
    place 128 0x06#8 0 ||| placeBit 128 ssec 10 ||| place 128 sid 32 ||| res
  | .tlbiNhAll vmid res =>
    place 128 0x10#8 0 ||| place 128 vmid 32 ||| res
  | .tlbiNhAsid vmid asid res =>
    place 128 0x11#8 0 ||| place 128 vmid 32 ||| place 128 asid 48 ||| res
  | .tlbiNhVa vmid asid leaf addr res =>
    place 128 0x12#8 0 ||| place 128 vmid 32 ||| place 128 asid 48 ||| placeBit 128 leaf 64 ||| place 128 addr 76
      ||| res
  | .tlbiNhVaa vmid leaf addr res =>
    place 128 0x13#8 0 ||| place 128 vmid 32 ||| placeBit 128 leaf 64 ||| place 128 addr 76 ||| res
  | .tlbiEl3All res =>
    place 128 0x18#8 0 ||| res
  | .tlbiEl3Va leaf addr res =>
    place 128 0x1A#8 0 ||| placeBit 128 leaf 64 ||| place 128 addr 76 ||| res
  | .tlbiEl2All res =>
    place 128 0x20#8 0 ||| res
  | .tlbiEl2Asid asid res =>
    place 128 0x21#8 0 ||| place 128 asid 48 ||| res
  | .tlbiEl2Va asid leaf addr res =>
    place 128 0x22#8 0 ||| place 128 asid 48 ||| placeBit 128 leaf 64 ||| place 128 addr 76 ||| res
  | .tlbiEl2Vaa leaf addr res =>
    place 128 0x23#8 0 ||| placeBit 128 leaf 64 ||| place 128 addr 76 ||| res
  | .tlbiS12Vmall vmid res =>
    place 128 0x28#8 0 ||| place 128 vmid 32 ||| res
  | .tlbiS2Ipa vmid leaf addr res =>
    place 128 0x2A#8 0 ||| place 128 vmid 32 ||| placeBit 128 leaf 64 ||| place 128 addr 76 ||| res
  | .tlbiNsnhAll res =>
    place 128 0x30#8 0 ||| res
  | .atcInv glob ssv ssid sid size addr res =>
    place 128 0x40#8 0 ||| placeBit 128 glob 9 ||| placeBit 128 ssv 11 ||| place 128 ssid 12 ||| place 128 sid 32
      ||| place 128 size 64 ||| place 128 addr 76 ||| res
  | .priResp ssv ssid sid group resp res =>
    place 128 0x41#8 0 ||| placeBit 128 ssv 11 ||| place 128 ssid 12 ||| place 128 sid 32 ||| place 128 group 64
      ||| place 128 resp 76 ||| res
  | .resume ssec ac ab sid stag res =>
    place 128 0x44#8 0 ||| placeBit 128 ssec 10 ||| placeBit 128 ac 12 ||| placeBit 128 ab 13 ||| place 128 sid 32
      ||| place 128 stag 64 ||| res
  | .stallTerm ssec sid res =>
    place 128 0x45#8 0 ||| placeBit 128 ssec 10 ||| place 128 sid 32 ||| res
  | .sync cs msh msiAttr msiData msiAddr res =>
    place 128 0x46#8 0 ||| place 128 cs 12 ||| place 128 msh 22 ||| place 128 msiAttr 24 ||| place 128 msiData 32
      ||| place 128 msiAddr 66 ||| res
  | .reserved w => w
  | .impdef w => w

/-- The command at the head of a list of bytes, and the bytes after it (R1050). -/
def decodeBytes (bs : List Byte) : Except DecodeError (Instr × List Byte) :=
  if bs.length < 16 then .error .truncated else .ok (decode (BitVec.ofNat 128 (leNat (bs.take 16))), bs.drop 16)

/-- The bytes of a command. -/
def encodeBytes (i : Instr) : List Byte := leBytes 16 (encode i).toNat

/-- The host's question: the instruction whose bits are `w`, the bits above the table's `nbits` being 0. -/
def decodeTableWord (nbits w : Nat) : Option Instr :=
  match decodeBytes (leBytes 16 (w % 2 ^ nbits)) with
  | .ok (i, _) => some i
  | .error _ => none

end Sys2Proof
end

