-- ==== Sys2Proof/Types.lean ====
section
/-! DEFINITION. The plain data types of the machine: Security states, attributes, transactions, messages, cached
entries and the register records that State is built from. -/
namespace Sys2Proof.Machine

/-- The two Security states of streams, queues and programming interfaces (00_scope.md R11). -/
inductive Sec where
  | ns
  | s
  deriving DecidableEq, Repr, Inhabited

/-- Read or write (24_attributes.md R951). -/
inductive RW where
  | read
  | write
  deriving DecidableEq, Repr, Inhabited

/-- Cacheability of one level of a Normal memory type (R951). -/
inductive Cache where
  | nc
  | wt
  | wb
  deriving DecidableEq, Repr, Inhabited

/-- The Device memory types (R951). -/
inductive Dev where
  | gre
  | nGRE
  | nGnRE
  | nGnRnE
  deriving DecidableEq, Repr, Inhabited

/-- A memory type (R951). -/
inductive MemType where
  | normal (inner outer : Cache)
  | device (d : Dev)
  deriving DecidableEq, Repr, Inhabited

/-- Shareability (R951). -/
inductive Sh where
  | nsh
  | ish
  | osh
  deriving DecidableEq, Repr, Inhabited

/-- Allocation and transient hints of one cache level (R951): true is allocate, respectively transient. -/
structure Hints where
  ra : Bool
  wa : Bool
  tr : Bool
  deriving DecidableEq, Repr, Inhabited

/-- The attributes of an access (R951); `hi` inner hints, `ho` outer hints, `ns` true is Non-secure. -/
structure Attrs where
  mt : MemType
  sh : Sh
  hi : Hints
  ho : Hints
  inst : Bool
  priv : Bool
  ns : Bool
  deriving DecidableEq, Repr, Inhabited

/-- The attributes the upstream interconnect supplies; an absent one takes its default (R955). -/
structure InAttrs where
  mt : Option MemType
  sh : Option Sh
  hi : Option Hints
  ho : Option Hints
  inst : Option Bool
  priv : Option Bool
  ns : Option Bool
  deriving DecidableEq, Repr, Inhabited

/-- Address-based cache maintenance operations of a client (R1032). -/
inductive CmoKind where
  | clean
  | invalidate
  | cleanInvalidate
  | cleanToPersistence
  deriving DecidableEq, Repr, Inhabited

/-- The class of a client transaction (R1000, R1031, R1032, R1035, R1036). -/
inductive Cls where
  | plain
  | rci
  | dr
  | wDcp
  | nwDcp
  | cmo (k : CmoKind)
  | cmoOther
  | atomic
  | exclusive
  | dvm
  | barrier
  deriving DecidableEq, Repr, Inhabited

/-- One client transaction as it arrives (00_scope.md R11, 23_translation.md R830): `sec` is SEC_SID, `size` its size in
bytes, `data` what a write carries, `uut` says that the system marks it as of a kind it cannot express, `spec` that it is
speculative, `translated` that it is an ATS Translated transaction; `coded` is the attribute that such a one brings in an encoding
outside the spec, where it brings one (26_ats.md R919). -/
structure Txn where
  id : Nat
  sec : Sec
  sid : BitVec 32
  ssv : Bool
  ssid : BitVec 20
  addr : W64
  size : Nat
  data : List Byte
  rw : RW
  attrs : InAttrs
  cls : Cls
  spec : Bool
  translated : Bool
  pcie : Bool
  noSnoop : Bool
  uut : Bool
  coded : Option Attrs := none
  deriving DecidableEq, Repr, Inhabited

/-- The StreamWorld of a stream or a cached translation (21_structures_ste.md R582, 27_tlb.md R920). -/
inductive World where
  | nsEL1
  | el2
  | el2E2H
  | secure
  | el3
  deriving DecidableEq, Repr, Inhabited

/-- What an access was for when a stage 2 fault met it (30_encoding.md R1081). -/
inductive FClass where
  | cd
  | tt
  | inn
  deriving DecidableEq, Repr, Inhabited

/-- The kinds of fault and configuration error (61_event_records.md R1800). -/
inductive FKind where
  | uut
  | badStreamId
  | steFetch
  | badSte
  | badAtsTreq
  | streamDisabled
  | translForbidden
  | badSubstreamId
  | cdFetch
  | badCd
  | walkEabt
  | translation
  | addrSize
  | access
  | permission
  | tlbConflict
  | cfgConflict
  deriving DecidableEq, Repr, Inhabited

/-- A fault found while a transaction is processed: its kind, the stage (`s2`), the class, the addresses it reports, the
TTRnW bit of F_PERMISSION, whether an atomic had write but not read permission (23 R855), the SubstreamID an L1CD error
reports, whether its outcome is fixed as an abort (60 R1672), whether the whole fetch address is reported because it lies
outside the physical address space (20_memory.md R470), and whether it is of an AArch32 translation table (61 R1820). -/
structure Flt where
  kind : FKind
  s2 : Bool
  cls : FClass
  ipa : W64
  fetchAddr : W64
  ttRead : Bool
  noRead : Bool
  ssid : Option (BitVec 20)
  fixedAbort : Bool
  whole : Bool
  aa32 : Bool
  deriving DecidableEq, Repr, Inhabited

/-- Which descriptor a walk reads: used for the abort predicate and the access trace (20_memory.md R495). -/
inductive AccKind where
  | ste
  | cd
  | tt
  | cmdq
  | eventq
  | priq
  | msi
  | httu
  deriving DecidableEq, Repr, Inhabited

/-- The ATOS register groups (50_atos.md R1300). -/
inductive AtosGroup where
  | gatos
  | sGatos
  | vatos
  deriving DecidableEq, Repr, Inhabited

/-- A range of addresses of one physical address space on which accesses of the listed kinds abort (20_memory.md R495). -/
structure AbortRange where
  ns : Bool
  base : Nat
  size : Nat
  kinds : List AccKind
  deriving DecidableEq, Repr, Inhabited

/-- A range of addresses of a physical address space. -/
structure PaRange where
  ns : Bool
  base : Nat
  size : Nat
  deriving DecidableEq, Repr, Inhabited

/-- A range of storage inside the SMMU (10_state.md R160, 20_memory.md R491 to R494): its addresses, in entries of `stride`
bytes; `mask` are the bits of an entry that are stored, entry byte 0 first; `swReadOnly` that the writes of other agents are
ignored (R492). -/
structure InternalRange where
  ns : Bool
  base : Nat
  size : Nat
  stride : Nat
  mask : List Byte
  swReadOnly : Bool
  deriving DecidableEq, Repr, Inhabited

/-- A write to memory by another agent (20_memory.md R452). -/
structure MemWr where
  ns : Bool
  pa : Nat
  bytes : List Byte
  deriving DecidableEq, Repr, Inhabited

/-- The Shareability domain that an output transaction has on the interconnect (24_attributes.md R1005): Device and Normal
Non-cacheable types are of the system domain. -/
inductive OutSh where
  | nsh
  | ish
  | osh
  | sys
  deriving DecidableEq, Repr, Inhabited

/-- Output transactions that the interconnect cannot express (R1005): of a class, a memory type and a domain; `none` is
any. -/
structure OutBar where
  cls : Cls
  mt : Option MemType
  sh : Option OutSh
  deriving DecidableEq, Repr, Inhabited

/-- The choices of the attributes of an ATS Translated transaction (26_ats.md R919, 93 U134): the input attribute, a fixed
type and Shareability, or those that the path of an Untranslated transaction would give it, which the Translation Completion
carries. -/
inductive AtsAttrs where
  | input
  | fixed (mt : MemType) (sh : Sh)
  | untranslated
  deriving DecidableEq, Repr, Inhabited

/-- A range of StreamIDs of one Security state. -/
structure SidRange where
  sec : Sec
  lo : Nat
  hi : Nat
  deriving DecidableEq, Repr, Inhabited

/-- One of the conditions under which a client transaction is of a kind that the SMMU does not support (P_UUT, 93 U82): its
class, direction, streams, input memory type, size from some number of bytes on, the log2 of an address boundary that it
crosses, and whether it is an ATS Translated one; an absent condition is no condition. -/
structure UutRule where
  cls : Option Cls
  rw : Option RW
  streams : Option SidRange
  mt : Option MemType
  minSize : Option Nat
  crosses : Option Nat
  translated : Option Bool
  deriving DecidableEq, Repr, Inhabited

/-- What an access to a register location outside the rules does (10_state.md R104, R109, R110). -/
inductive BadAccess where
  | razwi
  | observed
  | onePart
  | abort
  deriving DecidableEq, Repr, Inhabited

/-- What an undefined location of Page 1 does (10_state.md R104). -/
inductive Page1Undef where
  | razwi
  | res0
  | aliasPage0
  deriving DecidableEq, Repr, Inhabited

/-- SMMUv3.0's choices for an out-of-range CD pointer (20_memory.md R470). -/
inductive OorCdPtr where
  | fetchFault
  | badStruct
  | truncate
  deriving DecidableEq, Repr, Inhabited

/-- The choices for an out-of-range CD IPA (20_memory.md R470). -/
inductive OorCdIpa where
  | badStruct
  | s2FaultFull
  | truncate
  deriving DecidableEq, Repr, Inhabited

/-- The permitted implementations of Far Atomics (24_attributes.md R1036). -/
inductive FarAtomics where
  | forward
  | uut
  | local
  deriving DecidableEq, Repr, Inhabited

/-- The RAS error types, lowest priority first (52_ras.md R1525); `none` only as a record's previous type. -/
inductive RasType where
  | none
  | ce
  | de
  | ueo
  | uer
  | ueu
  | uc
  deriving DecidableEq, Repr, Inhabited

/-- A detected RAS error (52_ras.md R1511). -/
structure RasErr where
  typ : RasType
  rw : RW
  pn : Bool
  ierr : BitVec 8
  serr : BitVec 8
  addr : Option W64
  misc : Option (W64 × W64)
  sameLoc : Bool
  deriving DecidableEq, Repr, Inhabited

/-- The group, the record and the descriptor with which a cause is recorded: what P_RAS_CLASSIFY returns (52_ras.md R1511). -/
structure RasDest where
  group : Nat
  record : Nat
  err : RasErr
  deriving DecidableEq, Repr, Inhabited

/-- One case of P_RAS_CLASSIFY (52_ras.md R1511): aborted accesses of some kinds, in some range of addresses if one is given. -/
structure RasRule where
  kinds : List AccKind
  range : Option PaRange
  dest : RasDest
  deriving DecidableEq, Repr, Inhabited

/-- One RAS error record (52_ras.md R1510): `first` is the index of its node's first record. -/
structure RasRec where
  first : Nat
  fr : W64
  ctlr : W64
  status : W64
  addr : W64
  misc0 : W64
  misc1 : W64
  deriving DecidableEq, Repr, Inhabited

/-- One group of RAS error records (52_ras.md R1510): `base` is the address of its page. -/
structure RasGroup where
  base : Nat
  secureOnly : Bool
  devarch : Bool
  idRegs : List (Nat × W32)
  recs : List RasRec
  deriving DecidableEq, Repr, Inhabited

/-- One Performance Monitor Counter Group (51_pmcg.md): its constants, among them the addresses of its two pages (R1400), then
its registers; `irqCtrlEff` is the value of IRQ_CTRL in effect (R1450). -/
structure Pmcg where
  page0 : Nat
  page1 : Nat
  cfgr : W32
  ceid0 : W64
  ceid1 : W64
  aidr : W32
  secure : Bool
  wired : Bool
  abtDetect : Bool
  evtypeWidth : Nat
  smrWidth : Nat
  serves : List SidRange
  idRegs : List (Nat × W32)
  evcntr : List W64
  evtyper : List W32
  svr : List W64
  smr : List W32
  cnten : W64
  inten : W64
  ovs : W64
  scr : W32
  cr : W32
  irqCtrl : W32
  irqCtrlEff : W32
  irqCtrlAck : W32
  irqCfg0 : W64
  irqCfg1 : W32
  irqCfg2 : W32
  irqStatus : W32
  deriving DecidableEq, Repr, Inhabited

/-- The registers of one MSI source, SMMU_x_IRQ_CFG{0,1,2} (11_registers_ns.md R250 to R253). -/
structure IrqCfg where
  cfg0 : W64
  cfg1 : W32
  cfg2 : W32
  deriving DecidableEq, Repr, Inhabited

/-- The registers of one ATOS group (13_registers_queues.md R305 to R309). -/
structure AtosRegs where
  ctrl : W32
  sid : W64
  addr : W64
  par : W64
  deriving DecidableEq, Repr, Inhabited

/-- An ATOS operation in progress: the values captured when RUN was written (50_atos.md R1305); `spoiled` says that a
register of the group was written since (13_registers_queues.md R306), so that the result is UNKNOWN. -/
structure AtosOp where
  sid : W64
  addr : W64
  sel : W32
  spoiled : Bool
  deriving DecidableEq, Repr, Inhabited

/-- The registers that both programming interfaces have (11 to 13): the Non-secure SMMU_x and the Secure SMMU_S_x.
`cr0Eff`, `cr2Eff`, `gbpaEff` and `irqCtrlEff` are the values in effect (R212, R231, R234, R240); `cr1` is in effect and `cr1Read`
what software reads, which differ where a preset field was written (11 R226); `cmdqCons` holds the internal
consume index and `cmdqSeen` the one that software sees, which may lag it (13 R288). -/
structure Iface where
  cr0 : W32
  cr0Eff : W32
  cr0Ack : W32
  cr1 : W32
  cr1Read : W32
  cr2 : W32
  cr2Eff : W32
  gbpa : W32
  gbpaEff : W32
  irqCtrl : W32
  irqCtrlEff : W32
  irqCtrlAck : W32
  gerror : W32
  gerrorn : W32
  gerrorCfg : IrqCfg
  strtabBase : W64
  strtabCfg : W32
  cmdqBase : W64
  cmdqProd : W32
  cmdqCons : W32
  cmdqSeen : W32
  eventqBase : W64
  eventqProd : W32
  eventqCons : W32
  eventqCfg : IrqCfg
  atos : AtosRegs
  deriving DecidableEq, Repr, Inhabited

/-- The read-only identification registers (11 R200 to R209, 12 R350 to R354, R400). -/
structure IdRegs where
  idr0 : W32
  idr1 : W32
  idr2 : W32
  idr3 : W32
  idr4 : W32
  idr5 : W32
  iidr : W32
  aidr : W32
  sidr0 : W32
  sidr1 : W32
  sidr3 : W32
  sidr4 : W32
  idBlock : List (Nat × W32)
  deriving DecidableEq, Repr, Inhabited

/-- The configuration structures (21_structures_ste.md, 22_structures_cd.md). -/
inductive CfgKind where
  | l1std
  | ste
  | l1cd
  | cd
  deriving DecidableEq, Repr, Inhabited

/-- The register fields that configuration caches may hold (10_state.md R150): CR1.TABLE_*, CR2.E2H, S_CR0.NSSTALLD, S_CR0.SIF
and CR0.ATSCHK. -/
structure CfgRegs where
  table : BitVec 6
  e2h : Bool
  nsstalld : Bool
  sif : Bool
  atschk : Bool
  deriving DecidableEq, Repr, Inhabited

/-- An entry of CfgCache (10_state.md R150): the structure read, the stream through which it was fetched, the range
`lo` to `hi` of StreamIDs (STE, L1STD) or SubstreamIDs (CD, L1CD) that it serves, and the register fields at the fetch. -/
structure CfgEnt where
  kind : CfgKind
  sec : Sec
  sid : BitVec 32
  lo : Nat
  hi : Nat
  data : StructWord
  regs : CfgRegs
  deriving DecidableEq, Repr, Inhabited

/-- The final descriptor of one stage as a TLB entry keeps it (28_vmsa_walk.md R2024): the descriptor (its Access flag
taken as set), the hierarchical permissions accumulated on the way, the output NS, the base of the output range, its log2
size, the level, and whether the descriptor was read from Non-secure memory (27_tlb.md R924). -/
structure Leaf where
  desc : W64
  apt : BitVec 2
  xnt : Bool
  pxnt : Bool
  ns : Bool
  out : Nat
  log2 : Nat
  size : Nat
  level : Nat
  tblNs : Bool
  deriving DecidableEq, Repr, Inhabited

/-- An entry of TLB (10_state.md R151, 27_tlb.md R920). An entry with a stage 1 leaf is indexed by VA, one without by IPA;
`base` and `log2` are the input range. `last` says that it came from a last-level descriptor; one that did not is a
walk-cache entry, whose leaf is a table descriptor with the address of the next table as its output. `ste` and `cd` are the
structures through which it was made, whose fields it may keep (21_structures_ste.md R628, 22_structures_cd.md R758); `sif`
and `vmw` are S_CR0.SIF and CR0.VMW when it was made (10 R150, 12 R358). -/
structure TlbEnt where
  last : Bool
  ste : StructWord
  cd : StructWord
  world : World
  vmid : Option (BitVec 16)
  asid : Option (BitVec 16)
  glob : Bool
  aset : Bool
  base : W64
  log2 : Nat
  s1 : Option Leaf
  s2 : Option Leaf
  sif : Bool
  vmw : BitVec 3
  deriving DecidableEq, Repr, Inhabited

/-- A configuration that a counter group had while a transaction was in flight, by which the events of that transaction may still be
matched (51_pmcg.md R1405): of `was` what decides whether an event is counted. -/
structure PastPmcg where
  txn : Txn
  group : Nat
  was : Pmcg
  deriving DecidableEq, Repr, Inhabited

/-- What the walk in progress went through (the model's own state): the configuration and the translations it used, which an
invalidation that completes meanwhile waits for (20_memory.md R480, R485); a conflict that gives way to the other events of
the transaction (P_CONFLICT_PRIORITY, 93 U83); the number of accesses after which an ATOS operation is cut off by a RAS error
(50_atos.md R1345); what the counters ask of it (51_pmcg.md R1409): whether a walk of its address began, whether an entry of the
TLB was used, whether an STE or a CD was read, whether a structure of the configuration cache was used; the earlier configurations of
counter groups by which its events may be matched (R1405). -/
structure Trail where
  cfg : List CfgEnt
  tlb : List TlbEnt
  conflict : Option Flt
  budget : Option Nat
  walked : Bool
  tlbUsed : Bool
  fetched : Bool
  cfgUsed : Bool
  past : List PastPmcg
  deriving DecidableEq, Repr, Inhabited

/-- The predicate of a TLB invalidation (41_cmd_tlbi.md, 27_tlb.md R925): the worlds, whether VA-indexed and IPA-indexed
entries are in scope, VMID, ASID with whether global entries match too, address, last level only; `skipAset` leaves out
entries with ASET == 1 (R923). -/
structure TlbPred where
  worlds : List World
  va : Bool
  ipa : Bool
  vmid : Option (BitVec 16)
  asid : Option (BitVec 16 × Bool)
  addr : Option W64
  leaf : Bool
  skipAset : Bool
  deriving DecidableEq, Repr, Inhabited

/-- What an accepted invalidation must remove (40_cmd_prefetch_cfgi.md, 41_cmd_tlbi.md); the synchronisation of broadcast
maintenance with its number, which removes nothing (20_memory.md R481); the completion of an ATS invalidation of a stream,
which waits for its Translated transactions (42_cmd_ats_pri.md R1203). -/
inductive InvScope where
  | ste (sec : Sec) (lo hi : Nat) (l1 : Bool)
  | cd (sec : Sec) (sid : BitVec 32) (idx : Option Nat) (l1 : Bool)
  | tlb (p : TlbPred)
  | dvmSync (id : Nat)
  | atc (sid : BitVec 32)
  deriving DecidableEq, Repr, Inhabited

/-- What settles whether the maintenance for an update of a Stream table is done (43_cmd_fault_sync.md R1233): another agent wrote
bytes of memory, the table was placed anew, a Command queue asked for an invalidation of STEs, it completed a CMD_SYNC, every
cache was invalidated. -/
inductive SteEvent where
  | wrote (ns : Bool) (pa n : Nat)
  | moved (sec : Sec)
  | inval (origin sec : Sec) (lo hi : Nat) (l1 : Bool)
  | synced (origin : Sec)
  | cleared
  deriving DecidableEq, Repr, Inhabited

/-- A use of a STAG that software has not acknowledged (60_exceptions.md R1681): its stream, and the number of the stall. -/
structure StagUse where
  sec : Sec
  sid : BitVec 32
  tag : BitVec 16
  serial : Nat
  deriving DecidableEq, Repr, Inhabited

/-- What a resume or termination command asked for a stalled transaction (43_cmd_fault_sync.md R1230). -/
inductive StallAct where
  | retry
  | abort
  | razwi
  deriving DecidableEq, Repr, Inhabited

/-- An element of Stalled (10_state.md R152): the transaction, its STAG, or for a duplicate whose record was suppressed no
tag and the tag of the recorded one (60_exceptions.md R1682); whether its record is in the Event queue; whether the record
was built from configuration that a completed CMD_SYNC invalidated (43 R1244); and the action commanded. `serial` is its own
number (State.draw when it stalled, which no later stall shares): a STAG may be used again while an old record of it waits. -/
structure Stall where
  txn : Txn
  stag : Option (BitVec 16)
  parent : Option (BitVec 16)
  recorded : Bool
  stale : Bool
  act : Option StallAct
  serial : Nat
  deriving DecidableEq, Repr, Inhabited

/-- What a translated transaction leaves with (23_translation.md R830 `forward`): Security state and StreamID, output class,
direction, address, attributes, and the read of an ATS Translated transaction as the counters see it. -/
structure Fwd where
  sec : Sec
  sid : BitVec 32
  cls : Cls
  rw : RW
  pa : Nat
  attrs : Attrs
  ats : Bool
  deriving DecidableEq, Repr, Inhabited

/-- How far an accepted transaction is (10_state.md R154): accepted; held, because it would stall and the stall capacity is
used up (60_exceptions.md R1686); translated, with what it leaves with and the configuration and translations it used;
passed downstream and not yet answered. -/
inductive Stage where
  | accepted
  | held
  | ready (f : Fwd) (cfg : List CfgEnt) (tlb : List TlbEnt)
  | issued (f : Fwd) (cfg : List CfgEnt) (tlb : List TlbEnt)
  deriving DecidableEq, Repr, Inhabited

/-- An element of InFlight (10_state.md R154). -/
structure Flight where
  txn : Txn
  stage : Stage
  deriving DecidableEq, Repr, Inhabited

/-- An element of PendingInval (10_state.md R153): its Command queue, or `none` for a broadcast operation; `subset` holds
a draw when the invalidation may remove any subset (93 U42); `wait` is absent until the entries in scope are removed, then
the transactions that were on their way with one of them, which its completion waits for (20_memory.md R480, R485). -/
structure Inval where
  origin : Option Sec
  scope : InvScope
  subset : Option Nat
  wait : Option (List Flight)
  deriving DecidableEq, Repr, Inhabited

/-- What the memory system answers to a forwarded transaction (00_scope.md R12): it is performed in memory; some other agent
performs it and returns data; an external abort. -/
inductive MemResp where
  | ok
  | data (bs : List Byte)
  | abort
  deriving DecidableEq, Repr, Inhabited

/-- The kinds of work that the SMMU goes on with by itself, each in its turn (92_eei_decisions.md D36, D83; log entry 6): the
transactions in flight, interrupts, PRI messages, stalled transactions, ATOS operations, the Command queues, pending event
records, consume indexes, invalidations, Updates of registers. -/
inductive Chore where
  | flight
  | irq
  | pri
  | stall
  | atos
  | cmdqNs
  | cmdqS
  | eventNs
  | eventS
  | cons
  | inval
  | update
  deriving DecidableEq, Repr, Inhabited

/-- An element of PendingEvents (10_state.md R156): the record, the STAG of a stall record, whether the stream permits
merging (STE.MEV); of a stall record the number of its stall. -/
structure PendEv where
  ev : EvWord
  stag : Option (BitVec 16)
  mev : Bool
  serial : Nat := 0
  deriving DecidableEq, Repr, Inhabited

/-- An ATS Invalidate Request without completion (10_state.md R155, 42_cmd_ats_pri.md R1203). -/
structure AtcReq where
  sid : BitVec 32
  pasid : Option (BitVec 20)
  glob : Bool
  addr : W64
  size : BitVec 6
  deriving DecidableEq, Repr, Inhabited

/-- A prefetch requested by CMD_PREFETCH_CONFIG (`addr` absent) or CMD_PREFETCH_ADDR with its Address, Size and Stride
(40_cmd_prefetch_cfgi.md R1105, R1106). -/
structure Prefetch where
  sec : Sec
  sid : BitVec 32
  ssid : Option (BitVec 20)
  addr : Option (W64 × Nat × Nat)
  deriving DecidableEq, Repr, Inhabited

/-- An ATS Translation Request (26_ats.md R905). -/
structure AtsReq where
  id : Nat
  sec : Sec
  sid : BitVec 32
  ssv : Bool
  ssid : BitVec 20
  addr : W64
  nw : Bool
  exe : Bool
  priv : Bool
  span : BitVec 4
  deriving DecidableEq, Repr, Inhabited

/-- The answer to an ATS Translation Request (26_ats.md R905, R918); `coded` is the attribute of the page where the implementation
encodes attributes into ATS (R919). -/
inductive AtsResp where
  | ur
  | ca
  | success (addr : W64) (log2 : Nat) (r w exe priv u n global : Bool) (coded : Option Attrs)
  deriving DecidableEq, Repr, Inhabited

/-- A broadcast TLB maintenance message (27_tlb.md R925), by the operation of equal scope. -/
inductive BcastOp where
  | vmalle1
  | aside1
  | vaae1
  | vae1
  | alle3
  | vae3
  | alle2
  | vae2
  | vae1E2h
  | vaae1E2h
  | aside1E2h
  | ipas2e1
  | vmalls12e1
  | alle1
  deriving DecidableEq, Repr, Inhabited

/-- A broadcast TLB maintenance message with its operands. -/
structure Bcast where
  op : BcastOp
  sec : Sec
  vmid : BitVec 16
  asid : BitVec 16
  addr : W64
  leaf : Bool
  deriving DecidableEq, Repr, Inhabited

/-- The interrupt sources (60_exceptions.md R1722, 51_pmcg.md, 52_ras.md R1545). -/
inductive IrqSrc where
  | eventq (sec : Sec)
  | priq
  | cmdSync (sec : Sec)
  | gerror (sec : Sec)
  | pmcg (n : Nat)
  | rasFhi (group node : Nat)
  | rasEri (group node : Nat)
  deriving DecidableEq, Repr, Inhabited

/-- An interrupt on its way (10_state.md R158): a wired edge, or an MSI with the values of its registers at the occurrence. -/
inductive Irq where
  | wired (src : IrqSrc)
  | msi (src : IrqSrc) (ns : Bool) (addr : W64) (data : W32) (attrs : Attrs)
  deriving DecidableEq, Repr, Inhabited

/-- The registers, by name; one that both interfaces have is named once (10_state.md R102 to R104). -/
inductive Reg where
  | idr (n : Nat)
  | sidr (n : Nat)
  | idReg (off : Nat)
  | cr0
  | cr0ack
  | cr1
  | cr2
  | statusr
  | gbpa
  | agbpa
  | sInit
  | irqCtrl
  | irqCtrlAck
  | gerror
  | gerrorn
  | gerrorCfg0
  | gerrorCfg1
  | gerrorCfg2
  | strtabBase
  | strtabCfg
  | cmdqBase
  | cmdqProd
  | cmdqCons
  | eventqBase
  | eventqProd
  | eventqCons
  | eventqCfg0
  | eventqCfg1
  | eventqCfg2
  | priqBase
  | priqProd
  | priqCons
  | priqCfg0
  | priqCfg1
  | priqCfg2
  | atosCtrl (g : AtosGroup)
  | atosSid (g : AtosGroup)
  | atosAddr (g : AtosGroup)
  | atosPar (g : AtosGroup)
  | vatosSel
  deriving DecidableEq, Repr, Inhabited

/-- A register whose reads are UNKNOWN since a write that its guard forbids (11_registers_ns.md R251, 13 R281): of the SMMU, or
the word at an offset of a counter group's page; a PAR whose operation was disturbed (13 R306). -/
inductive UnkReg where
  | smmu (sec : Sec) (r : Reg)
  | pmcg (n off : Nat)
  | par (g : AtosGroup)
  deriving DecidableEq, Repr, Inhabited

end Sys2Proof.Machine
end

