-- ==== Sys2Proof/Config.lean ====
section
/-! DEFINITION. What an implementation fixes: the named parameters of 93_implementation_defined.md as one record of plain
data, and the free values of the spec's UNKNOWN and "any value" cases as a constant without a body. -/
namespace Sys2Proof

/-- The free values: draw number `n`, as wide as any use needs. It has no body, so no proof can know a value of it
(00_scope.md R31, 93_implementation_defined.md "any value"; log entry 4). -/
opaque Config.freeValue : Nat → BitVec 512

namespace Machine

/-- The parameters of 93_implementation_defined.md Part 2. Each field names its parameter; a predicate is held as data. -/
structure Impl where
  /-- `aborts` (U107): the ranges on which the SMMU's own accesses abort. -/
  abortRanges : List AbortRange
  /-- `is_pcie_space` (U104). -/
  pcieSpace : List PaRange
  /-- CONSTR_UNPRED_CHECK_PTR_SIZE_FAIL, P_S1CTXPTR_OOR_ILLEGAL (U218). -/
  s1CtxPtrOorIllegal : Bool
  /-- CONSTR_UNPRED_EATS_S2S (U215). -/
  eatsS2sIllegal : Bool
  /-- CONSTR_UNPRED_S2T0SZ_OOR_ILLEGAL (U216). -/
  s2t0szOorIllegal : Bool
  /-- CONSTR_UNPRED_TXSZ_OOR_ILLEGAL (U217). -/
  txszOorIllegal : Bool
  /-- P_ATC_TIMEOUT_ERR (92 D22). -/
  atcTimeoutErr : Bool
  /-- P_ATOS_BYPASS_SIZE (U180): log2 of the size. -/
  atosBypassLog2 : Nat
  /-- P_ATOS_BYPASS_ATTR (U180): ATTR, SH and NS of a bypass result. -/
  atosBypassAttr : BitVec 8
  atosBypassSh : BitVec 2
  atosBypassNs : Bool
  /-- P_ATOS_HTTUI_AF_FAULT (U181). -/
  atosHttuiAfFault : Bool
  /-- P_ATOS_S2_ADDRSIZE_REASON (U182). -/
  atosS2AddrSizeReason : BitVec 2
  /-- P_ATS_ATTRS (U134). -/
  atsAttrs : AtsAttrs
  /-- Whether a Translation Request without any permission is answered with Priv == 0: 26_ats.md R911 prints it so in its last
  row, R905 answers the requested privilege (log entry 40). -/
  atsDeniedPrivZero : Bool
  /-- P_ATS_IDENTITY_SIZE (U132): log2 of the size. -/
  atsIdentityLog2 : Nat
  /-- P_ATS_NW_GRANT_W (U131). -/
  atsNwGrantW : Bool
  /-- P_ATS_TRANSLATED_OOR (U133): true is truncate, false abort. -/
  atsTranslatedTruncate : Bool
  /-- P_CFGCACHE_POLICY and P_TLB_POLICY (U224): false is `none`. `cfgCacheInvalid` lets a structure that is invalid or
  ILLEGAL be cached and `cfgAnyTime` lets structures be fetched ahead of any request of their stream: 20_memory.md R477
  permits both, 10_state.md R150 neither, so both are off by default (log entry 41); `walkCache` lets intermediate descriptors be cached and `contig`
  lets an entry cover a contiguous group (10_state.md R151, 28_vmsa_walk.md R2013). -/
  cfgCacheOn : Bool
  tlbOn : Bool
  cfgCacheInvalid : Bool
  cfgAnyTime : Bool
  walkCache : Bool
  contig : Bool
  /-- The number of commands after which CMDQ_CONS.RD shows what was consumed (13 R288). -/
  consBatch : Nat
  /-- P_CMD_RES0_CHECK (U73). -/
  cmdRes0Check : Bool
  /-- P_CONFLICT_PRIORITY (U83): whether F_UUT, F_TLB_CONFLICT, F_CFG_CONFLICT gives way to every other event of the
  transaction; a conflict that does lets one of the conflicting entries be used meanwhile. -/
  uutLast : Bool
  tlbConflictLast : Bool
  cfgConflictLast : Bool
  /-- P_CR2_PTM_RESET, P_S_CR2_PTM_RESET (U220). -/
  cr2PtmReset : Bool
  sCr2PtmReset : Bool
  /-- P_RCI_DOWNGRADE, P_DR_DOWNGRADE_TO (U154, U155): true downgrades to the plain read. -/
  rciDowngrade : Bool
  drToPlain : Bool
  /-- What the structure cache and the TLB hold after a reset (70 R1902): implementation specific. -/
  resetCfg : List CfgEnt
  resetTlb : List TlbEnt
  /-- P_EARLY_RETRY (U93). -/
  earlyRetry : Bool
  /-- P_EL2_E2H_SHARED_TAG (U141). -/
  el2E2hSharedTag : Bool
  /-- P_EVENTQ_ABORT_SYNC, P_PRIQ_ABORT_SYNC (U90). -/
  eventqAbortSync : Bool
  priqAbortSync : Bool
  /-- P_EVENT_REASON (U80). -/
  eventReason : BitVec 32
  /-- P_FAR_ATOMICS (U158). -/
  farAtomics : FarAtomics
  /-- P_GBPA_RESET, P_S_GBPA_RESET (U67). -/
  gbpaReset : W32
  sGbpaReset : W32
  /-- P_ID8_UPPER_IGNORED (U140). -/
  id8UpperIgnored : Bool
  /-- P_ILLEGAL_ACCESS, P_PAIR64_ACCESS (U72). -/
  illegalAccess : BadAccess
  pair64Access : BadAccess
  /-- P_REG64_ATOMIC (U72): when false a 64-bit write of a 64-bit register is two stimuli. -/
  reg64Atomic : Bool
  /-- P_IMPDEF_CMDS (U75). -/
  impdefCmds : List (BitVec 8)
  /-- P_IMPDEF_EVENTS (U85): the events 0xE0 to 0xEF that are provided. -/
  impdefEvents : List (BitVec 4)
  /-- P_INPUT_CLASSES (U153) is what the agenda offers; P_UUT (U82) as data: a transaction that meets one of the rules is
  unsupported, as is one that its `uut` field marks, whatever the predicate. -/
  uutRules : List UutRule
  /-- P_EMBEDDED_STE, P_PRESET_MASK (U219, U106): the storage inside the SMMU and the bits it keeps. -/
  internal : List InternalRange
  /-- Whether an unpredictable MAIR attribute is Device-nGnRnE (24_attributes.md R961, 92 D66); else it is as 22_structures_cd.md
  R740 says (log entry 10). -/
  mairReservedNGnRnE : Bool
  /-- P_MERGE_EVENTS (U81). -/
  mergeEvents : Bool
  /-- P_MSI_DEVICEID (U96). -/
  msiDeviceId : W32
  /-- P_NO_SNOOP (U152). -/
  noSnoop : Bool
  /-- P_NWDCP_PERM_MODE (U156): true is Combined. -/
  nwDcpCombined : Bool
  /-- P_OOR_CD_PTR, P_OOR_CD_IPA, P_OOR_STE_PTR (U103). -/
  oorCdPtr : OorCdPtr
  oorCdIpa : OorCdIpa
  oorStePtrTruncate : Bool
  /-- P_OUT_VALID (U157) as data: classes that can be output, and what of them cannot. -/
  outClasses : List Cls
  outBars : List OutBar
  /-- P_PAGE0_SHADOW (true: alias), P_PAGE1_UNDEF (U71). -/
  page0ShadowAlias : Bool
  page1Undef : Page1Undef
  /-- P_PCIE_ATTR_OVR (U130). -/
  pcieAttrOvr : Bool
  /-- The Shareability of PCIe traffic on input (26 R913): Inner, else Outer (log entry 45, DESIGN CHOICE). -/
  pcieInner : Bool
  /-- The base address of register Page 0, which relative presets count from (20_memory.md R492). -/
  page0Base : W64
  /-- P_PE_INTEROP (U160). -/
  peInterop : Bool
  /-- P_PMCG_COUNT_WHEN_DISABLED (U191), P_PMCG_MATCHALL_BOTH (U193), P_PMCG_OVSSET_SIDE_EFFECTS (U197). -/
  pmcgCountDisabledSid : Bool
  pmcgCountDisabledAll : Bool
  pmcgMatchAllBoth : Bool
  pmcgOvsSetEffects : Bool
  /-- P_PMCG_MSI_COHERENT (U195): an MSI of a counter group that is not coherent leaves Non-cacheable (log entry 42). -/
  pmcgMsiCoherent : Bool
  /-- P_PRI_OVF_STE_CHECK (U97). -/
  priOvfSteCheck : Bool
  /-- P_RAS_CLASSIFY (U202): the first rule that fits an aborted access gives its destination, else the one for its side;
  entry to Service Failure Mode has its own (52_ras.md R1507, R1511). -/
  rasRules : List RasRule
  rasNs : RasDest
  rasSecure : RasDest
  rasSfm : RasDest
  /-- P_RAS_* (U203 to U207). -/
  rasErOnDe : Bool
  rasPersistDetect : Bool
  rasIrqLevel : Bool
  rasMvClearOnW : Bool
  rasOfClearOnW : Bool
  rasOfOnCk : Bool
  rasOfOnK : Bool
  /-- P_STALL_CAPACITY (U225). -/
  stallCapacity : Nat
  /-- P_STALL_DEMOTE (U91). -/
  stallDemote : List SidRange
  /-- Whether the span of STE.CONT is honoured by the configuration cache (U50). -/
  steCont : Bool
  /-- P_STRUCT_ATOMIC_BYTES (U105): 8, 16, 32 or 64. -/
  structAtomic : Nat
  /-- P_STRUCT_RES0_CHECK (U214). -/
  structRes0Check : Bool
  /-- P_SUPPRESS_DUP_STALL (U92). -/
  suppressDupStall : Bool
  /-- P_SYS_ATS, P_SYS_PRI (92 D21). -/
  sysAts : Bool
  sysPri : Bool
  /-- P_S_INIT_NS_ACCESS (U222). -/
  sInitNsAccess : Bool
  /-- P_TABLES_PRESET_VALUES, P_QUEUES_PRESET_VALUES (U221): STRTAB_BASE, STRTAB_BASE_CFG, CR1 tables; CMDQ, EVENTQ, PRIQ
  base, CR1 queues; then those of the Secure interface, which has no PRI queue. -/
  tablesPreset : W64 × W32 × W32
  queuesPreset : W64 × W64 × W64 × W32
  sTablesPreset : W64 × W32 × W32
  sQueuesPreset : W64 × W64 × W32
  /-- P_V30_STRIDE_ILL (U226). -/
  v30StrideIll : Bool
  /-- P_WIRED_IRQ (U95), P_WRITE_ABORTS_REPORTED (U94). -/
  wiredIrq : Bool
  writeAbortsReported : Bool
  deriving DecidableEq, Repr, Inhabited

/-- The defaults of 93_implementation_defined.md (log entry 3): no aborts, no optional behaviour, nothing implementation
defined present. No statement rests on them. -/
def Impl.default : Impl where
  abortRanges := []
  pcieSpace := []
  s1CtxPtrOorIllegal := true
  eatsS2sIllegal := false
  s2t0szOorIllegal := true
  txszOorIllegal := true
  atcTimeoutErr := true
  atosBypassLog2 := 12
  atosBypassAttr := 0
  atosBypassSh := 0
  atosBypassNs := true
  atosHttuiAfFault := false
  atosS2AddrSizeReason := 0
  atsAttrs := .input
  atsDeniedPrivZero := false
  atsIdentityLog2 := 12
  atsNwGrantW := true
  atsTranslatedTruncate := false
  cfgCacheOn := true
  tlbOn := true
  cfgCacheInvalid := false
  cfgAnyTime := false
  walkCache := false
  contig := false
  consBatch := 1
  cmdRes0Check := false
  uutLast := false
  tlbConflictLast := false
  cfgConflictLast := false
  cr2PtmReset := true
  sCr2PtmReset := true
  rciDowngrade := false
  drToPlain := true
  resetCfg := []
  resetTlb := []
  earlyRetry := false
  el2E2hSharedTag := false
  eventqAbortSync := true
  priqAbortSync := true
  eventReason := 0
  farAtomics := .forward
  gbpaReset := 0
  sGbpaReset := 0
  id8UpperIgnored := true
  illegalAccess := .razwi
  pair64Access := .razwi
  reg64Atomic := true
  impdefCmds := []
  impdefEvents := []
  uutRules := []
  internal := []
  mairReservedNGnRnE := false
  mergeEvents := false
  msiDeviceId := 0
  noSnoop := false
  nwDcpCombined := true
  oorCdPtr := .fetchFault
  oorCdIpa := .badStruct
  oorStePtrTruncate := false
  outClasses := [.plain, .rci, .dr, .wDcp, .nwDcp, .cmo .clean, .cmo .invalidate, .cmo .cleanInvalidate,
    .cmo .cleanToPersistence, .atomic, .exclusive]
  outBars := []
  page0ShadowAlias := true
  page1Undef := .razwi
  pcieAttrOvr := false
  pcieInner := true
  page0Base := 0
  peInterop := false
  pmcgCountDisabledSid := false
  pmcgCountDisabledAll := false
  pmcgMatchAllBoth := true
  pmcgOvsSetEffects := false
  pmcgMsiCoherent := true
  priOvfSteCheck := false
  rasRules := [⟨[.eventq, .priq, .msi, .httu], none, ⟨0, 0, ⟨.uer, .write, false, 0, 18, some 0, none, false⟩⟩⟩]
  rasNs := ⟨0, 0, ⟨.uer, .read, false, 0, 18, some 0, none, false⟩⟩
  rasSecure := ⟨0, 0, ⟨.uer, .read, false, 0, 18, some 0, none, false⟩⟩
  rasSfm := ⟨0, 0, ⟨.uc, .read, false, 0, 4, none, none, false⟩⟩
  rasErOnDe := false
  rasPersistDetect := false
  rasIrqLevel := false
  rasMvClearOnW := false
  rasOfClearOnW := false
  rasOfOnCk := false
  rasOfOnK := false
  stallCapacity := 64
  stallDemote := []
  steCont := false
  structAtomic := 8
  structRes0Check := false
  suppressDupStall := false
  sysAts := true
  sysPri := true
  sInitNsAccess := false
  tablesPreset := (0, 0, 0)
  queuesPreset := (0, 0, 0, 0)
  sTablesPreset := (0, 0, 0)
  sQueuesPreset := (0, 0, 0)
  v30StrideIll := false
  wiredIrq := true
  writeAbortsReported := true

end Machine
end Sys2Proof
end

