-- ==== Sys2Proof/Machine/Attr.lean ====
section
/-! DEFINITION. Attribute transformation (24_attributes.md): defaults, replace, combine, consistency, encodings of memory
types, and the output class of hinted transactions and cache maintenance operations. -/
namespace Sys2Proof.Machine

/-- The hints of a level that carries none inside the flow: the identity of the hint combine (R951, R957). -/
def Hints.weak : Hints := ⟨true, true, false⟩
/-- The hints a level without hints is output with (R959). -/
def Hints.off : Hints := ⟨false, false, false⟩

def Cache.cacheable : Cache → Bool
  | .nc => false
  | .wt => true
  | .wb => true

/-- A Normal type with at least one cacheable level (R951). -/
def MemType.isCached : MemType → Bool
  | .normal i o => i.cacheable || o.cacheable
  | .device _ => false

def MemType.isDevice : MemType → Bool
  | .normal _ _ => false
  | .device _ => true

/-- Strength order of Cacheability, weakest first (R958). -/
def Cache.rank : Cache → Nat
  | .wb => 0
  | .wt => 1
  | .nc => 2

/-- Strength order of the Device types, weakest first (R958). -/
def Dev.rank : Dev → Nat
  | .gre => 0
  | .nGRE => 1
  | .nGnRE => 2
  | .nGnRnE => 3

/-- Strength order of Shareability, weakest first (R958). -/
def Sh.rank : Sh → Nat
  | .nsh => 0
  | .ish => 1
  | .osh => 2

/-- The model's internal normal form (R957): Device and Normal iNC-oNC are Outer Shareable, a level without hints
holds `Hints.weak`. -/
def Attrs.normalise (a : Attrs) : Attrs :=
  match a.mt with
  | .device _ => { a with sh := .osh, hi := .weak, ho := .weak }
  | .normal .nc .nc => { a with sh := .osh, hi := .weak, ho := .weak }
  | .normal i o =>
    { a with hi := if i.cacheable then a.hi else .weak, ho := if o.cacheable then a.ho else .weak }

/-- Default input attributes for what the interconnect does not supply (R955). -/
def addDefaults (u : InAttrs) : Attrs :=
  Attrs.normalise
    { mt := u.mt.getD (.normal .wb .wb), sh := u.sh.getD .nsh, hi := u.hi.getD .weak, ho := u.ho.getD .weak,
      inst := u.inst.getD false, priv := u.priv.getD false, ns := u.ns.getD true }

/-- The two-bit Cacheability of MemAttr (R960). -/
def cacheOf2 (b : BitVec 2) : Cache := if b = 1 then .nc else if b = 2 then .wt else .wb

/-- Decoding MemAttr[3:0] of an STE, GBPA or stage 2 descriptor; reserved encodings are Device-nGnRnE (R960). -/
def memattrDecode (m : BitVec 4) : MemType :=
  let hi := fld m 2 2
  let lo := fld m 0 2
  if hi = 0 then
    (if lo = 0 then .device .nGnRnE else if lo = 1 then .device .nGnRE else if lo = 2 then .device .nGRE
     else .device .gre)
  else if lo = 0 then .device .nGnRnE
  else .normal (cacheOf2 lo) (cacheOf2 hi)

/-- One nibble of a MAIR byte as Cacheability and hints; `none` for 0b0000 (R961). -/
def mairNibble (n : BitVec 4) : Option (Cache × Hints) :=
  let h : Bool → Hints := fun tr => ⟨bit n 1, bit n 0, tr⟩
  let t := fld n 2 2
  let rw := fld n 0 2
  if t = 0 then (if rw = 0 then none else some (.wt, h true))
  else if t = 1 then (if rw = 0 then some (.nc, .weak) else some (.wb, h true))
  else if t = 2 then some (.wt, h false)
  else some (.wb, h false)

/-- Decoding one MAIR byte (R961), the encodings VMSAv8-64 calls UNPREDICTABLE as 22_structures_cd.md R740 fixes them:
with Attr[7:4] zero the Device type of Attr[3:2]; with Attr[7:4] not zero and Attr[3:0] zero the inner type
Write-Through Transient with RW == 0b11; or, with `strict`, all of them as Device-nGnRnE (R961; log entry 10). -/
def mairDecode (strict : Bool) (b : BitVec 8) : MemType × Hints × Hints :=
  let lo := fld b 0 4
  match mairNibble (fld b 4 4), mairNibble lo with
  | some (o, ho), some (i, hi) => (.normal i o, hi, ho)
  | some (o, ho), none => if strict then (.device .nGnRnE, .weak, .weak) else (.normal .wt o, ⟨true, true, true⟩, ho)
  | none, _ =>
    let t := if strict && fld lo 0 2 != 0 then 0 else fld lo 2 2
    (.device (if t = 0 then .nGnRnE else if t = 1 then .nGnRE else if t = 2 then .nGRE else .gre), .weak, .weak)

/-- Encoding one level of a Normal type as a MAIR nibble (R961 in the other direction). A cacheable level whose hints
have neither allocation has no transient form in the encoding that is not another type, so it is non-transient (R959). -/
def mairNibbleOf (c : Cache) (h : Hints) : BitVec 4 :=
  let rw : BitVec 4 := placeBit 4 h.ra 1 ||| placeBit 4 h.wa 0
  let tr := h.tr && (h.ra || h.wa)
  match c with
  | .nc => 0b0100#4
  | .wt => (if tr then 0b0000#4 else 0b1000#4) ||| rw
  | .wb => (if tr then 0b0100#4 else 0b1100#4) ||| rw

/-- A memory type and hints as a MAIR byte, for ATOS_PAR.ATTR (50_atos.md R1341). -/
def mairEncode (mt : MemType) (hi ho : Hints) : BitVec 8 :=
  match mt with
  | .device .nGnRnE => 0x00#8
  | .device .nGnRE => 0x04#8
  | .device .nGRE => 0x08#8
  | .device .gre => 0x0C#8
  | .normal i o => place 8 (mairNibbleOf o ho) 4 ||| place 8 (mairNibbleOf i hi) 0

/-- The two-bit Shareability field: 0b00 Non-shareable, 0b10 Outer, 0b11 Inner Shareable. The reserved 0b01 behaves as 0b00 in a structure
or a register (21 R571, R604, 11 R225); in a block or page descriptor, where the spec says no more than that it is reserved (28 R2006),
this is the model's choice (log entry 45, DESIGN CHOICE). -/
def shDecode (b : BitVec 2) : Sh := if b = 2 then .osh else if b = 3 then .ish else .nsh

/-- Shareability as the field of ATOS_PAR.SH (R1341). -/
def shEncode : Sh → BitVec 2
  | .nsh => 0
  | .osh => 2
  | .ish => 3

/-- Combine of one cache level: the stronger of two (R958). -/
def combineCache (x y : Cache) : Cache := if x.rank < y.rank then y else x

/-- Combine of two memory types (R958). -/
def combineMt : MemType → MemType → MemType
  | .device x, .device y => .device (if x.rank < y.rank then y else x)
  | .device x, .normal _ _ => .device x
  | .normal _ _, .device y => .device y
  | .normal i o, .normal i' o' => .normal (combineCache i i') (combineCache o o')

/-- Combine of two Shareabilities (R958). -/
def combineSh (x y : Sh) : Sh := if x.rank < y.rank then y else x

/-- Combine of two hints (R958). -/
def combineHints (p q : Hints) : Hints := ⟨p.ra && q.ra, p.wa && q.wa, p.tr || q.tr⟩

/-- Combine of attributes; the permission attributes are those of the first (R958). -/
def combineAttrs (a b : Attrs) : Attrs :=
  Attrs.normalise { a with mt := combineMt a.mt b.mt, sh := combineSh a.sh b.sh, hi := combineHints a.hi b.hi,
                           ho := combineHints a.ho b.ho }

/-- The hints a cache level is output with (R959). -/
def outHints (c : Cache) (h : Hints) : Hints :=
  if !c.cacheable then .off else if !h.ra && !h.wa then { h with tr := false } else h

/-- Consistency of the attributes that leave the SMMU (R959). -/
def ensureConsistent (a : Attrs) : Attrs :=
  match a.mt with
  | .device _ => { a with sh := .osh, hi := .off, ho := .off }
  | .normal .nc .nc => { a with sh := .osh, hi := .off, ho := .off }
  | .normal i o => { a with hi := outHints i a.hi, ho := outHints o a.ho }

/-- The override fields that an STE and GBPA share (R957). -/
structure Overrides where
  mtcfg : Bool
  memattr : BitVec 4
  shcfg : BitVec 2
  alloccfg : BitVec 4
  instcfg : BitVec 2
  privcfg : BitVec 2
  nscfg : BitVec 2
  deriving DecidableEq, Repr, Inhabited

/-- INSTCFG applied to an instruction/data marking: 0b10 Data, 0b11 Instruction, else unchanged (R957). -/
def applyInstcfg (f : BitVec 2) (inst : Bool) : Bool := if f = 2 then false else if f = 3 then true else inst

/-- PRIVCFG applied to a privilege: 0b10 Unprivileged, 0b11 Privileged, else unchanged (R957). -/
def applyPrivcfg (f : BitVec 2) (priv : Bool) : Bool := if f = 2 then false else if f = 3 then true else priv

/-- Replace (R957). `types` and `perms` are the effective ATTR_TYPES_OVR and ATTR_PERMS_OVR. -/
def replaceAttrs (c : Overrides) (types perms : Bool) (sec : Sec) (rw : RW) (a : Attrs) : Attrs :=
  let a := if types && c.mtcfg then Attrs.normalise { a with mt := memattrDecode c.memattr } else a
  let a := if types && c.shcfg ≠ 1 && a.mt.isCached then { a with sh := shDecode c.shcfg } else a
  let a :=
    if types && bit c.alloccfg 3 && a.mt.isCached then
      let h : Hints := ⟨bit c.alloccfg 2, bit c.alloccfg 1, bit c.alloccfg 0⟩
      match a.mt with
      | .normal i o =>
        { a with hi := if i.cacheable then h else a.hi, ho := if o.cacheable then h else a.ho }
      | .device _ => a
    else a
  let a := if perms && rw == .read then { a with inst := applyInstcfg c.instcfg a.inst } else a
  let a := if perms then { a with priv := applyPrivcfg c.privcfg a.priv } else a
  if perms && sec == .s then
    { a with ns := if c.nscfg = 2 then false else if c.nscfg = 3 then true else a.ns }
  else a

/-- Stage 1 attributes replace the running ones; hints combine (R975). -/
def s1AttrsReplace (i : Attrs) (mt : MemType) (sh : Sh) (hi ho : Hints) (ns : Bool) : Attrs :=
  Attrs.normalise { i with mt := mt, sh := sh, hi := combineHints i.hi hi, ho := combineHints i.ho ho, ns := ns }

/-- The stage 2 descriptor's attributes as an operand of combine: weakest hints (R980). -/
def s2Attrs (memattr : BitVec 4) (sh : BitVec 2) : Attrs :=
  Attrs.normalise { mt := memattrDecode memattr, sh := shDecode sh, hi := .weak, ho := .weak, inst := false,
                    priv := false, ns := true }

/-- Normal iNC-oNC, made consistent: No_snoop (R990) and interoperation with the PE (R1045). -/
def toNonCacheable (a : Attrs) : Attrs := ensureConsistent { a with mt := .normal .nc .nc }

/-- The last transformations of an output attribute (R990, R1045). -/
def finishAttrs (p : Impl) (noSnoop : Bool) (a : Attrs) : Attrs :=
  let a := if p.noSnoop && noSnoop && !a.mt.isDevice then toNonCacheable a else a
  if p.peInterop && !a.mt.isDevice && a.mt ≠ .normal .wb .wb then toNonCacheable a else a

/-- What leaves the SMMU for a transaction of a class: an output class, nothing but success (NoOp), or a termination. -/
inductive OutCls where
  | fwd (c : Cls)
  | noOp
  | terminate
  deriving DecidableEq, Repr, Inhabited

/-- The domain of an output transaction on the interconnect (R1005, R1035). -/
def Attrs.outSh (a : Attrs) : OutSh :=
  if a.mt.isDevice || !a.mt.isCached then .sys
  else match a.sh with
    | .nsh => .nsh
    | .ish => .ish
    | .osh => .osh

/-- Whether the output interconnect can carry a class with these attributes (R1005). -/
def outValid (p : Impl) (c : Cls) (a : Attrs) : Bool :=
  p.outClasses.contains c &&
    !p.outBars.any fun b => b.cls == c && b.mt.all (· == a.mt) && b.sh.all (· == a.outSh)

/-- The downgrade of a hinted class (R1002); an atomic that the SMMU performs itself goes out as an access with a local
monitor (R1036). -/
def downgrade (p : Impl) : Cls → OutCls
  | .atomic => if p.farAtomics = .local then .fwd .exclusive else .fwd .atomic
  | .rci => if p.rciDowngrade then .fwd .plain else .fwd .rci
  | .dr => if p.drToPlain then .fwd .plain else .fwd .rci
  | .wDcp => .fwd .plain
  | .nwDcp => .noOp
  | c => .fwd c

/-- The downgrade forced because the class cannot be output with the final attributes (R1005): an RCI then becomes the
ordinary read, an Exclusive loses its marking (R1035), a CMO is terminated (R1032). -/
def downgradeForced (p : Impl) (a : Attrs) : Cls → OutCls
  | .rci => .fwd .plain
  | .dr => if p.drToPlain || !outValid p .rci a then .fwd .plain else .fwd .rci
  | .wDcp => .fwd .plain
  | .nwDcp => .noOp
  | .exclusive => .fwd .plain
  | .cmo _ => .terminate
  | c => .fwd c

/-- The output class of a transaction (R1001, R1003, R1005, R1032, R1033). `translated`: at least one stage was applied;
`permW`, `permAny`: the final permissions the class asks about; `dre`, `dcp` the STE controls. -/
def outClass (p : Impl) (v31 translated : Bool) (dre dcp permW permAny : Bool) (a : Attrs) (c : Cls) : OutCls :=
  let c0 : OutCls :=
    match c with
    | .cmo k =>
      if !v31 then .terminate
      else if !translated then .fwd (.cmo k)
      else if k == .invalidate && !(dre && permW) then .fwd (.cmo .cleanInvalidate)
      else .fwd (.cmo k)
    | c =>
      if !v31 || c == .atomic then downgrade p c
      else if !translated then .fwd c
      else match c with
        | .dr => if dre && permW then .fwd .dr else downgrade p .dr
        | .wDcp => if dcp then .fwd .wDcp else .fwd .plain
        | .nwDcp => if dcp && permAny then .fwd .nwDcp else .noOp
        | c => .fwd c
  match c0 with
  | .fwd c => if outValid p c a then .fwd c else downgradeForced p a c
  | o => o

end Sys2Proof.Machine
end

