-- ==== Sys2Proof/Machine/EventRec.lean ====
section
/-! DEFINITION. Event records and PRI queue entries: one function per layout (61_event_records.md, 30_encoding.md R1080 to
R1090). A field the spec calls UNKNOWN in a record takes the bits of `unk`, a free value. -/
namespace Sys2Proof.Machine

/-- The event number of a fault kind (61 R1800). -/
def FKind.num : FKind → BitVec 8
  | .uut => 0x01
  | .badStreamId => 0x02
  | .steFetch => 0x03
  | .badSte => 0x04
  | .badAtsTreq => 0x05
  | .streamDisabled => 0x06
  | .translForbidden => 0x07
  | .badSubstreamId => 0x08
  | .cdFetch => 0x09
  | .badCd => 0x0A
  | .walkEabt => 0x0B
  | .translation => 0x10
  | .addrSize => 0x11
  | .access => 0x12
  | .permission => 0x13
  | .tlbConflict => 0x20
  | .cfgConflict => 0x21

/-- The four Translation-related faults (60 R1671). -/
def FKind.isTrf : FKind → Bool
  | .translation => true
  | .addrSize => true
  | .access => true
  | .permission => true
  | _ => false

/-- The CLASS encoding (30 R1081). -/
def FClass.code : FClass → BitVec 2
  | .cd => 0
  | .tt => 1
  | .inn => 2

/-- What a record says of the transaction: its identity, its address, and RnW, InD, PnU as the record's rule has them. -/
structure EvCtx where
  sid : BitVec 32
  ssv : Bool
  ssid : BitVec 20
  addr : W64
  rnw : Bool
  ind : Bool
  pnu : Bool
  deriving DecidableEq, Repr, Inhabited

/-- Word +0 and +4 with the event number and StreamID only (R1815, R1816). -/
def evBase (num : BitVec 8) (sid : BitVec 32) : EvWord := place 256 num 0 ||| place 256 sid 32

/-- Word +0 and +4 with SSV and SubstreamID (R1080); the SubstreamID of a record without one is UNKNOWN. -/
def evBaseSub (num : BitVec 8) (unk : BitVec 512) (c : EvCtx) : EvWord :=
  evBase num c.sid ||| placeBit 256 c.ssv 11 ||| place 256 (if c.ssv then c.ssid else fld unk 64 20) 12

/-- PnU, InD and RnW in word +12 (R1081). -/
def evFlags (c : EvCtx) : EvWord :=
  placeBit 256 c.pnu 97 ||| placeBit 256 (c.ind && c.rnw) 98 ||| placeBit 256 c.rnw 99

/-- InputAddr (R1082). -/
def evInput (a : W64) : EvWord := place 256 a 128

/-- FetchAddr[51:3] (R1083); bits [51:48] are RES0 in SMMUv3.0. -/
def evFetch (v30 : Bool) (a : W64) : EvWord :=
  let a := if v30 then truncTo a 48 else truncTo a 52
  place 256 (alignDown a 3) 192

/-- IPA[51:12] (R1084). -/
def evIpa (v30 : Bool) (a : W64) : EvWord :=
  let a := if v30 then truncTo a 48 else truncTo a 52
  place 256 (alignDown a 12) 192

/-- The record of a fault. `stag` is the tag of a stall record (R1085); `reason` is P_EVENT_REASON; UNKNOWN are
the FetchAddr bits above the OAS of F_STE_FETCH (R1812), in SMMUv3.0 of F_CD_FETCH (R1818), and up to bit 47 those of an AArch32 table
where the OAS is below 40 (R1820), but an F_CD_FETCH for an address out of range reports the whole address (20_memory.md R470; log entry 45,
DEDUCED: the more particular rule); the SubstreamID without SSV (R1080), the IPA of stage 1 (R1084) and TTRnW but for
the access to a stage 1 descriptor (R1824). -/
def evRecord (v30 : Bool) (oas : Nat) (reason : BitVec 32) (unk : BitVec 512) (c : EvCtx) (f : Flt)
    (stag : Option (BitVec 16)) : EvWord :=
  let n := f.kind.num
  let reason16 := place 256 (reason.setWidth 16) 64
  let fetchUnk := mergeMask (maskOf 64 0 oas) (fld unk 0 64) f.fetchAddr
  let cdAddr := if v30 && !f.whole then fetchUnk else f.fetchAddr
  let walkAddr := if f.aa32 && decide (oas < 40) then mergeMask (maskOf 64 oas (48 - oas)) f.fetchAddr (fld unk 0 64) else f.fetchAddr
  let stallW : EvWord := match stag with
    | some t => placeBit 256 true 95 ||| place 256 t 64
    | none => 0
  let s2cls := placeBit 256 f.s2 103 ||| place 256 f.cls.code 104
  let ipa := evIpa v30 (if f.s2 then f.ipa else fld unk 128 64)
  let trf := evBaseSub n unk c ||| stallW ||| s2cls ||| evFlags c ||| evInput c.addr ||| ipa
  match f.kind with
  | .uut => evBaseSub n unk c ||| reason16 ||| evFlags c ||| evInput c.addr
  | .badStreamId => evBaseSub n unk c
  | .steFetch => evBaseSub n unk c ||| reason16 ||| evFetch v30 fetchUnk
  | .badSte => evBaseSub n unk c
  | .badAtsTreq => evBaseSub n unk c
  | .streamDisabled => evBase n c.sid
  | .translForbidden => evBase n c.sid ||| placeBit 256 c.rnw 99 ||| evInput c.addr
  | .badSubstreamId => evBase n c.sid ||| place 256 (f.ssid.getD c.ssid) 12
  | .cdFetch => evBaseSub n unk c ||| reason16 ||| evFetch v30 cdAddr
  | .badCd => evBaseSub n unk c
  | .walkEabt => evBaseSub n unk c ||| reason16 ||| s2cls ||| evFlags c ||| evInput c.addr ||| evFetch v30 walkAddr
  | .translation => trf
  | .addrSize => trf
  | .access => trf
  | .permission => trf ||| placeBit 256 (if f.cls = .tt then f.ttRead else bit unk 200) 108
  | .tlbConflict =>
    evBaseSub n unk c ||| place 256 reason 64 ||| placeBit 256 f.s2 103 ||| evFlags c ||| evInput c.addr ||| ipa
  | .cfgConflict => evBaseSub n unk c ||| place 256 reason 64

/-- F_BAD_ATS_TREQ (R1814): the requested permissions before overrides and the number of STUs. -/
def evBadAtsTreq (unk : BitVec 512) (c : EvCtx) (r w x p : Bool) (span : BitVec 4) : EvWord :=
  evBaseSub FKind.badAtsTreq.num unk c ||| placeBit 256 r 95 ||| placeBit 256 w 94 ||| placeBit 256 x 93 |||
    placeBit 256 p 92 ||| place 256 span 64 ||| evInput (alignDown c.addr 12)

/-- E_PAGE_REQUEST (R1827); `flags` are pR, pW, pX, uR, uW, uX, most significant first. -/
def evPageRequest (unk : BitVec 512) (sid : BitVec 32) (ssv : Bool) (ssid : BitVec 20) (addr : W64) (span : BitVec 8)
    (flags : BitVec 6) : EvWord :=
  evBase 0x24 sid ||| placeBit 256 ssv 11 ||| place 256 (if ssv then ssid else fld unk 64 20) 12 ||| place 256 span 108 |||
    place 256 (fld flags 3 3) 101 ||| place 256 (fld flags 0 3) 97 ||| evInput (alignDown addr 12)

/-- A record of a stalled transaction: a Translation-related fault with Stall set (R1805, R1085). -/
def isStallRec (r : EvWord) : Bool := fld r 4 4 = 1#4 && bit r 95 && (fld r 0 4).toNat < 4

/-- The identity of two records for merging: `InputAddr[11:0]` is ignored where the record's rule says so (R1805). -/
def evMergeKey (r : EvWord) : EvWord :=
  let n := (fld r 0 8).toNat
  if n = 0x07 ∨ n = 0x0B ∨ (0x10 ≤ n ∧ n ≤ 0x13) ∨ n = 0x20 then r &&& ~~~(maskOf 256 128 12) else r

/-- Whether a record's kind may be merged whatever STE.MEV is (R1805). -/
def evAlwaysMerge (r : EvWord) : Bool := (fld r 0 8).toNat ≤ 4

/-- A PRI message from the Root Complex: a Page Request or a Stop marker (60 R1751). -/
structure Ppr where
  sec : Sec
  sid : BitVec 32
  pasid : Option (BitVec 20)
  last : Bool
  w : Bool
  r : Bool
  x : Bool
  priv : Bool
  addr : W64
  prgi : BitVec 9
  deriving DecidableEq, Repr, Inhabited

/-- A Stop PASID marker: L, W, R = 0b100 with SSV, which needs substreams (30 R1090, 60 R1760). -/
def Ppr.isStop (ssids : Bool) (m : Ppr) : Bool := ssids && m.pasid.isSome && m.last && !m.w && !m.r

/-- The PRI queue entry of a message (30 R1090); the SubstreamID of one without SSV is UNKNOWN. -/
def Ppr.encode (ssids : Bool) (unk : BitVec 20) (m : Ppr) : BitVec 128 :=
  let ssv := ssids && m.pasid.isSome
  place 128 m.sid 0 ||| placeBit 128 ssv 63 ||| placeBit 128 m.last 62 ||| placeBit 128 m.w 61 |||
    placeBit 128 m.r 60 ||| placeBit 128 (ssv && m.x) 59 ||| placeBit 128 (ssv && m.priv) 58 |||
    place 128 (if ssv then m.pasid.getD 0 else unk) 32 ||| place 128 m.prgi 64 ||| place 128 (fld m.addr 12 20) 76 |||
    place 128 (fld m.addr 32 32) 96

end Sys2Proof.Machine
end

