-- ==== Sys2Proof/Machine/Pmcg.lean ====
section
/-! DEFINITION. Performance Monitor Counter Groups (51_pmcg.md): matching, counting, overflow, capture and the register
access functions of one group. -/
namespace Sys2Proof.Machine

/-- CFGR as it reads and counts (R1449): its RES0 bits are 0 (10 R107), and a reserved SIZE, which is never given (00 R31), counts as
64 bits (log entry 2). -/
def Pmcg.cfg (g : Pmcg) : W32 :=
  unreserve (g.cfgr &&& (maskOf 32 20 4 ||| maskOf 32 8 6 ||| maskOf 32 0 6)) 8
    (fun v : BitVec 6 => [31, 35, 39, 43, 47, 63].contains v.toNat) 63
/-- AIDR as it reads and counts (R1451): its RES0 bits are 0, and a reserved version counts as SMMUv3.0 (log entry 2). -/
def Pmcg.version (g : Pmcg) : W32 := unreserve (g.aidr &&& maskOf 32 0 8) 0 (fun v : BitVec 8 => v == 0 || v == 1) 0

/-- The number of counters of a group (R1449). -/
def Pmcg.num (g : Pmcg) : Nat := (fld g.cfg 0 6).toNat + 1
/-- The width of a counter in bits (R1449). -/
def Pmcg.width (g : Pmcg) : Nat := (fld g.cfg 8 6).toNat + 1
def Pmcg.captureImpl (g : Pmcg) : Bool := bit g.cfg 22
def Pmcg.msiImpl (g : Pmcg) : Bool := bit g.cfg 21
def Pmcg.reloc (g : Pmcg) : Bool := bit g.cfg 20
/-- SID_FILTER_TYPE: one filter for the whole group (R1420). -/
def Pmcg.oneFilter (g : Pmcg) : Bool := bit g.cfg 23
/-- The PMCG's own architecture version is SMMUv3.1 (R1451). -/
def Pmcg.v31 (g : Pmcg) : Bool := g.version == 1
/-- The group is hidden from an access: a Non-secure one where Non-secure Register Access is disabled (R1448). -/
def Pmcg.hidden (g : Pmcg) (acc : Sec) : Bool := g.secure && acc == .ns && !bit g.scr 1
/-- The bitmap bits of the implemented counters (R1446). -/
def Pmcg.mask (g : Pmcg) : W64 := BitVec.ofNat 64 (2 ^ g.num - 1)

/-- The index of the filter registers of counter `n` (R1420). -/
def Pmcg.filterIdx (g : Pmcg) (n : Nat) : Nat := if g.oneFilter then 0 else n

/-- The StreamID match of counter `n` (R1422). -/
def Pmcg.sidMatch (g : Pmcg) (n : Nat) (sid : BitVec 32) : Bool :=
  let w := g.smrWidth
  let f := ((g.smr[g.filterIdx n]?).getD 0).toNat % 2 ^ w
  let s := sid.toNat % 2 ^ w
  let span := bit ((g.evtyper[g.filterIdx n]?).getD 0) 29
  if !span then f == s
  else if f == 2 ^ w - 1 then true
  else
    let y := 1 + trailingOnes (BitVec.ofNat 32 f) 31
    decide (w ≤ y) || f / 2 ^ y == s / 2 ^ y

/-- The Security match of counter `n` (R1423, R1462). -/
def Pmcg.secMatch (p : Impl) (g : Pmcg) (n : Nat) (sec : Sec) : Bool :=
  let et := (g.evtyper[g.filterIdx n]?).getD 0
  let w := g.smrWidth
  let allOnes := ((g.smr[g.filterIdx n]?).getD 0).toNat % 2 ^ w == 2 ^ w - 1
  if !g.secure || !bit g.scr 0 then sec == .ns
  else if bit et 29 && allOnes && (g.v31 || p.pmcgMatchAllBoth) then true
  else sec == (if bit et 30 then .s else .ns)

/-- Whether the group serves a StreamID (R1400, R1425). -/
def Pmcg.servesSid (g : Pmcg) (sec : Sec) (sid : BitVec 32) : Bool :=
  g.serves.any fun r => r.sec == sec && decide (r.lo ≤ sid.toNat) && decide (sid.toNat ≤ r.hi)

/-- Whether the group counts event `id`: one of the events that are defined, by its bit of the event bitmap (R1406, R1449). -/
def Pmcg.supports (g : Pmcg) (id : Nat) : Bool := decide (id < 8) && bit g.ceid0 id

/-- Whether the event is filtered by StreamID (R1406): each but the clock cycle. -/
def pmuFiltered (id : Nat) : Bool := id != 0

/-- Whether counter `n` counts the event (R1430). -/
def Pmcg.counts (p : Impl) (g : Pmcg) (n id : Nat) (src : Option (Sec × BitVec 32)) : Bool :=
  bit g.cr 0 && bit g.cnten n && decide (((g.evtyper[n]?).getD 0).toNat % 65536 = id) && g.supports id &&
  (!pmuFiltered id ||
  match src with
  | none => false
  | some (sec, sid) => g.servesSid sec sid && g.sidMatch n sid && g.secMatch p n sec)

/-- Capture: every shadow register takes its counter (R1432). -/
def Pmcg.capture (g : Pmcg) : Pmcg := { g with svr := g.evcntr }

/-- The interrupt enable of the group in effect: the Update that set it is complete, and none that clears it has taken effect
(R1450, 11 R212; log entry 26). -/
def Pmcg.irqOn (g : Pmcg) : Bool := bit g.irqCtrlAck 0 && bit g.irqCtrlEff 0

/-- The effects of an overflow of counter `n` (R1430, R1431): the group, and whether its interrupt is raised. -/
def Pmcg.overflow (g : Pmcg) (n : Nat) : Pmcg × Bool :=
  let g := { g with ovs := setBit g.ovs n true }
  let g := if g.captureImpl && bit ((g.evtyper[n]?).getD 0) 31 then g.capture else g
  (g, bit g.inten n && g.irqOn)

/-- One increment of counter `n` (R1430). -/
def Pmcg.increment (g : Pmcg) (n : Nat) : Pmcg × Bool :=
  let v := ((g.evcntr[n]?).getD 0).toNat + 1
  let g' := { g with evcntr := g.evcntr.set n (BitVec.ofNat 64 (v % 2 ^ g.width)) }
  if v = 2 ^ g.width then g'.overflow n else (g', false)

/-- The event offered to the counters from `n` on, `k` of them (R1430). -/
def Pmcg.eventFrom (p : Impl) (id : Nat) (src : Option (Sec × BitVec 32)) : Nat → Nat → Pmcg → Pmcg × Bool
  | 0, _, g => (g, false)
  | k + 1, n, g =>
    let (g1, q1) := if g.counts p n id src then g.increment n else (g, false)
    let (g2, q2) := Pmcg.eventFrom p id src k (n + 1) g1
    (g2, q1 || q2)

/-- `pmu_event` for one group (R1430). -/
def Pmcg.event (p : Impl) (id : Nat) (src : Option (Sec × BitVec 32)) (g : Pmcg) : Pmcg × Bool :=
  Pmcg.eventFrom p id src g.num 0 g

/-- The group as it stands, with the configuration of `was` in what decides whether an event is counted (R1405, R1430). -/
def Pmcg.asWas (g was : Pmcg) : Pmcg :=
  { g with evtyper := was.evtyper, smr := was.smr, cnten := was.cnten, scr := was.scr, cr := was.cr }

/-- The NS attribute of the group's MSIs (R1463). -/
def Pmcg.msiNs (g : Pmcg) : Bool := !g.secure || bit g.scr 2 || bit g.scr 1

/-- The stride of the counter registers (R1441). -/
def Pmcg.stride (g : Pmcg) : Nat := if g.width ≤ 32 then 4 else 8

/-- Whether a register at this offset lives on Page 1 when counters are relocated (R1441). -/
def pmcgRelocOff (off : Nat) : Bool :=
  decide (off < 0x200) || (decide (0x600 ≤ off) && decide (off < 0x800)) || decide (off / 8 * 8 = 0xC80) ||
    decide (off / 8 * 8 = 0xCC0) || decide (off = 0xD88)

/-- One word of an array of counters with the group's stride (R1441). -/
def Pmcg.arrayWord (g : Pmcg) (xs : List W64) (rel : Nat) : W32 :=
  let v := (xs[rel / g.stride]?).getD 0
  if rel % g.stride = 0 then v.setWidth 32 else (v >>> 32).setWidth 32

def lo32 (v : W64) : W32 := v.setWidth 32
def hi32 (v : W64) : W32 := (v >>> 32).setWidth 32
/-- The word of a 64-bit value at a word offset. -/
def word64 (v : W64) (off : Nat) : W32 := if off % 8 = 0 then lo32 v else hi32 v
/-- A 64-bit value with the word at a word offset replaced. -/
def setWord64 (v : W64) (off : Nat) (w : W32) : W64 := if off % 8 = 0 then setFld v 0 w else setFld v 32 w

/-- The 32-bit value at a word offset of a page of the group (R1441 to R1452), for an access that may reach it. -/
def Pmcg.read32 (g : Pmcg) (page1 : Bool) (off : Nat) (sec : Sec) : W32 :=
  if g.hidden sec then 0
  else if page1 != (g.reloc && pmcgRelocOff off) then 0
  else if off < 0x200 then g.arrayWord g.evcntr off
  else if 0x400 ≤ off ∧ off < 0x500 then (g.evtyper[(off - 0x400) / 4]?).getD 0
  else if 0x600 ≤ off ∧ off < 0x800 then (if g.captureImpl then g.arrayWord g.svr (off - 0x600) else 0)
  else if 0xA00 ≤ off ∧ off < 0xB00 then (g.smr[(off - 0xA00) / 4]?).getD 0
  else
    let o := off / 8 * 8
    if o = 0xC00 ∨ o = 0xC20 then word64 g.cnten off
    else if o = 0xC40 ∨ o = 0xC60 then word64 g.inten off
    else if o = 0xC80 ∨ o = 0xCC0 then word64 g.ovs off
    else if off = 0xDF8 then (if g.secure && sec == .s then g.scr else 0)
    else if off = 0xE00 then g.cfg
    else if off = 0xE04 then g.cr
    else if o = 0xE20 then word64 g.ceid0 off
    else if o = 0xE28 then word64 g.ceid1 off
    else if off = 0xE50 then g.irqCtrl
    else if off = 0xE54 then g.irqCtrlAck
    else if o = 0xE58 then word64 g.irqCfg0 off
    else if off = 0xE60 then g.irqCfg1
    else if off = 0xE64 then g.irqCfg2
    else if off = 0xE68 then (if g.v31 then g.irqStatus else 0)
    else if off = 0xE70 then g.version
    else if off = 0xFBC then 0x47702A56#32
    else if off = 0xFCC then 0x56#32
    else coreSightId 0x9 0x0F#32 g.idRegs off

/-- The implemented bits of an EVTYPER register (R1443). -/
def Pmcg.evtyperMask (g : Pmcg) (n : Nat) : W32 :=
  (if g.captureImpl then maskOf 32 31 1 else 0) |||
  (if g.secure && (!g.oneFilter || n == 0) then maskOf 32 30 1 else 0) |||
  (if !g.oneFilter || n == 0 then maskOf 32 29 1 else 0) ||| maskOf 32 0 (min g.evtypeWidth 16)

/-- A write of a bitmap word through its SET or CLR view (R1446): `w` in place, bits beyond the counters dropped. -/
def Pmcg.bitmapWrite (g : Pmcg) (set : Bool) (x : W64) (off : Nat) (w : W32) : W64 :=
  let v := (if off % 8 = 0 then place 64 w 0 else place 64 w 32) &&& g.mask
  if set then x ||| v else x &&& ~~~v

/-- Overflow side effects of a software write to OVSSET, when the implementation has them (R1446): for the bits that the write
sets. That a 1 written to a bit already set has none is the model's choice (log entry 45, DESIGN CHOICE). -/
def Pmcg.ovsSetEffects (new : W64) : Nat → Nat → Pmcg → Pmcg × Bool
  | 0, _, g => (g, false)
  | k + 1, n, g =>
    let (g1, q1) := if bit new n then g.overflow n else (g, false)
    let (g2, q2) := Pmcg.ovsSetEffects new k (n + 1) g1
    (g2, q1 || q2)

/-- The bits of the MSI address that exist (R1450; log entry 43). -/
def Pmcg.msiAddrMask (g : Pmcg) (oas : Nat) : W64 := maskOf 64 2 (min oas (if g.v31 then 52 else 48) - 2)
/-- The bits that exist of the word of IRQ_CFG0, IRQ_CFG1 or IRQ_CFG2 at an offset (R1450, 10 R107). -/
def Pmcg.msiWordMask (g : Pmcg) (oas off : Nat) : W32 :=
  if off / 8 * 8 = 0xE58 then word64 (g.msiAddrMask oas) off else if off = 0xE64 then maskOf 32 0 6 else maskOf 32 0 32

/-- A write of a 32-bit word to a page of the group (R1441 to R1450): the group, and whether its interrupt is raised. A write of
IRQ_CTRL, which begins an Update, is `State.writePmcgIrq`. `oas` bounds the MSI address; `bad` is the free value for a write of an
MSI register whose guard forbids it, `none` where it is ignored (R1450, 11 R251). -/
def Pmcg.write32 (p : Impl) (oas : Nat) (bad : Option W64) (page1 : Bool) (off : Nat) (sec : Sec) (w : W32)
    (g : Pmcg) : Pmcg × Bool :=
  let o := off / 8 * 8
  let guarded := bit g.irqCtrl 0 || bit g.irqCtrlAck 0
  let addrMask := g.msiAddrMask oas
  if g.hidden sec then (g, false)
  else if page1 != (g.reloc && pmcgRelocOff off) then (g, false)
  else if off < 0x200 then
    let n := off / g.stride
    if n < g.num then
      let v := (g.evcntr[n]?).getD 0
      let v := if off % g.stride = 0 then setFld v 0 w else setFld v 32 w
      ({ g with evcntr := g.evcntr.set n (truncTo v g.width) }, false)
    else (g, false)
  else if 0x400 ≤ off ∧ off < 0x500 then
    let n := (off - 0x400) / 4
    (if n < g.num then { g with evtyper := g.evtyper.set n (w &&& g.evtyperMask n) } else g, false)
  else if 0xA00 ≤ off ∧ off < 0xB00 then
    let n := (off - 0xA00) / 4
    (if n < g.num && (!g.oneFilter || n == 0) then
       { g with smr := g.smr.set n (w &&& maskOf 32 0 (min g.smrWidth 32)) } else g, false)
  else if o = 0xC00 then ({ g with cnten := g.bitmapWrite true g.cnten off w }, false)
  else if o = 0xC20 then ({ g with cnten := g.bitmapWrite false g.cnten off w }, false)
  else if o = 0xC40 then ({ g with inten := g.bitmapWrite true g.inten off w }, false)
  else if o = 0xC60 then ({ g with inten := g.bitmapWrite false g.inten off w }, false)
  else if o = 0xC80 then ({ g with ovs := g.bitmapWrite false g.ovs off w }, false)
  else if o = 0xCC0 then
    let ovs' := g.bitmapWrite true g.ovs off w
    let new := ovs' &&& ~~~g.ovs
    let g' := { g with ovs := ovs' }
    if p.pmcgOvsSetEffects then Pmcg.ovsSetEffects new g.num 0 g' else (g', false)
  else if off = 0xD88 then (if g.captureImpl && bit w 0 then g.capture else g, false)
  else if off = 0xDF8 then
    (if g.secure && sec == .s then
       { g with scr := maskOf 32 31 1 ||| (w &&& (maskOf 32 0 2 ||| if g.msiImpl then maskOf 32 2 1 else 0)) }
     else g, false)
  else if off = 0xE04 then ({ g with cr := w &&& 1 }, false)
  else if !g.msiImpl then (g, false)
  else if o = 0xE58 then
    (if guarded then (match bad with | some v => { g with irqCfg0 := v &&& addrMask } | none => g)
     else { g with irqCfg0 := setWord64 g.irqCfg0 off w &&& addrMask }, false)
  else if off = 0xE60 then
    (if guarded then (match bad with | some v => { g with irqCfg1 := lo32 v } | none => g)
     else { g with irqCfg1 := w }, false)
  else if off = 0xE64 then
    (if guarded then (match bad with | some v => { g with irqCfg2 := lo32 v &&& maskOf 32 0 6 } | none => g)
     else { g with irqCfg2 := w &&& maskOf 32 0 6 }, false)
  else (g, false)

/-- Completion of an Update of IRQEN (R1450): the acknowledge follows; IRQ_ABT is cleared when IRQEN goes 0 to 1. -/
def Pmcg.ackIrq (g : Pmcg) : Pmcg :=
  { g with irqStatus := if bit g.irqCtrl 0 && !bit g.irqCtrlAck 0 then setBit g.irqStatus 0 false else g.irqStatus
           irqCtrlEff := g.irqCtrl
           irqCtrlAck := g.irqCtrl }

/-- A written IRQ_CTRL takes effect before its Update completes (R1450, 11 R212). -/
def Pmcg.effectIrq (g : Pmcg) : Pmcg := { g with irqCtrlEff := g.irqCtrl }

/-- The registers of a group after reset (R1453); the UNKNOWN ones are 0 (log entry 1). -/
def Pmcg.resetRegs (g : Pmcg) : Pmcg :=
  { g with evcntr := List.replicate g.num 0, evtyper := List.replicate g.num 0, svr := List.replicate g.num 0,
           smr := List.replicate g.num 0, cnten := 0, inten := 0, ovs := 0,
           scr := if g.secure then maskOf 32 31 1 ||| maskOf 32 1 1 ||| (if g.msiImpl then maskOf 32 2 1 else 0) else 0,
           cr := 0, irqCtrl := 0, irqCtrlEff := 0, irqCtrlAck := 0, irqCfg0 := 0, irqCfg1 := 0, irqCfg2 := 0, irqStatus := 0 }

end Sys2Proof.Machine
end

