-- ==== Sys2Proof/Machine/Ras.lean ====
section
/-! DEFINITION. The RAS error records (52_ras.md): detection, overwriting, counting, interrupts, and the register
access functions of one group. -/
namespace Sys2Proof.Machine

/-- Priority of the error types (R1525). -/
def RasType.rank : RasType → Nat
  | .none => 0
  | .ce => 1
  | .de => 2
  | .ueo => 3
  | .uer => 4
  | .ueu => 5
  | .uc => 6

/-- An uncorrected error of any of the four kinds. -/
def RasType.isUe (t : RasType) : Bool := 3 ≤ t.rank

/-- The UET code of an uncorrected error type (R1525). -/
def RasType.uet : RasType → BitVec 2
  | .ueo => 0b10
  | .uer => 0b11
  | .ueu => 0b01
  | _ => 0b00

/-- The highest priority recorded error type of an ERRSTATUS value (R1525). -/
def rasPrev (st : W64) : RasType :=
  if !bit st 30 then .none
  else if bit st 29 then
    (if fld st 20 2 = 2#2 then .ueo else if fld st 20 2 = 3#2 then .uer else if fld st 20 2 = 1#2 then .ueu else .uc)
  else if bit st 23 then .de
  else if fld st 24 2 ≠ 0#2 then .ce
  else .none

/-- The action codes of Table 2 (R1527). -/
inductive RasAct where
  | k
  | o
  | w
  | wo
  | ck
  | cwk
  | cw
  deriving DecidableEq, Repr, Inhabited

/-- Table 2 (R1527). -/
def rasAction (prev new : RasType) : RasAct :=
  if new = .ce then (if prev = .none then .cw else if prev = .ce then .cwk else .ck)
  else if new = .de then (if prev.rank ≤ 1 then .w else if prev = .de then .o else .k)
  else if prev.rank ≤ 2 then .w
  else if prev.rank < new.rank then .wo else .o

/-- ERRFR as a node's first record gives it (R1560): no reserved encoding (00 R31; log entry 2 names the ones taken instead), and a
field that another one makes RES0 is 0. -/
def RasRec.feature (r : RasRec) : W64 :=
  let x := unreserve (r.fr &&& ~~~maskOf 64 20 12) 0 (fun v : BitVec 2 => v == 1 || v == 2) 1
  let x := unreserve x 12 (fun v : BitVec 3 => v == 0 || v == 2 || v == 4) 0
  let noCount := (fld x 12 3 : BitVec 3) == 0
  let x := unreserve x 18 (fun v : BitVec 2 => v == 0 || (v == 1 && !noCount)) 0
  let x := unreserve x 16 (fun v : BitVec 2 => v != 1 && (fld x 4 2 : BitVec 2) != 0) 0
  let x := unreserve x 10 (fun v : BitVec 2 => v != 1 && (fld x 6 2 : BitVec 2) != 0) 0
  if noCount then setBit x 15 false else x

/-- ERRFR fields (R1560). -/
def frCEO (fr : W64) : BitVec 2 := fld fr 18 2
def frDUI (fr : W64) : BitVec 2 := fld fr 16 2
def frRP (fr : W64) : Bool := bit fr 15
def frCEC (fr : W64) : BitVec 3 := fld fr 12 3
def frCFI (fr : W64) : BitVec 2 := fld fr 10 2
def frUE (fr : W64) : BitVec 2 := fld fr 8 2
def frFI (fr : W64) : BitVec 2 := fld fr 6 2
def frUI (fr : W64) : BitVec 2 := fld fr 4 2
def frED (fr : W64) : BitVec 2 := fld fr 0 2

/-- A control that is absent (0b00), always on (0b01), one bit (0b10) or a read and a write bit (0b11). -/
def rasCtl (f : BitVec 2) (ctl : W64) (combined rbit wbit : Nat) (rw : RW) : Bool :=
  if f = 0 then false else if f = 1 then true else if f = 2 then bit ctl combined
  else if rw = .read then bit ctl rbit else bit ctl wbit

/-- Error recovery interrupt enabled for Uncorrected errors (R1540). -/
def uiEnabled (fr ctl : W64) (rw : RW) : Bool := rasCtl (frUI fr) ctl 2 2 5 rw
/-- Error recovery interrupt enabled for Deferred errors (R1540); value 0b01 is reserved. -/
def duiEnabled (fr ctl : W64) (rw : RW) : Bool := frDUI fr ≠ 1 && rasCtl (frDUI fr) ctl 10 10 11 rw
/-- Fault handling interrupt enabled (R1541). -/
def fiEnabled (fr ctl : W64) (rw : RW) : Bool := rasCtl (frFI fr) ctl 3 3 6 rw
/-- Fault handling interrupt enabled for corrected error events (R1541). -/
def cfiEnabled (fr ctl : W64) (rw : RW) : Bool :=
  if frCFI fr = 0 then fiEnabled fr ctl rw else frCFI fr ≠ 1 && rasCtl (frCFI fr) ctl 8 8 9 rw
/-- In-band signalling enabled (R1542). -/
def ueEnabled (fr ctl : W64) (rw : RW) : Bool := rasCtl (frUE fr) ctl 4 4 7 rw

/-- The constraints on the ERRFR of a node of the SMMU (R1508, R1560). No step relies on them: ERRFR is read through
`RasRec.feature`. -/
def frConsistent (fr : W64) : Bool :=
  (frED fr == 1 || frED fr == 2) && (frCEC fr == 0 || frCEC fr == 2 || frCEC fr == 4) &&
    (frCEO fr == 0 || (frCEO fr == 1 && frCEC fr != 0)) && (!frRP fr || frCEC fr != 0) && frDUI fr != 1 && frCFI fr != 1 &&
    frUI fr != 0 && frFI fr != 0

/-- The position and width of the count field and of its overflow bit in ERRMISC0 (R1566): (low bit, width, overflow bit). -/
def ceField (fr : W64) (other : Bool) : Nat × Nat × Nat :=
  if frCEC fr = 4 then (if other then (48, 15, 63) else (32, 15, 47))
  else (if other then (40, 7, 47) else (32, 7, 39))

/-- Counting a Corrected error in ERRMISC0: the new value and whether the counter overflowed (R1531). -/
def countCe (fr misc0 : W64) (sameLoc recordingFirst : Bool) : W64 × Bool :=
  if frCEC fr = 0 then (misc0, false)
  else
    let (lo, w, ov) := ceField fr (frRP fr && !(recordingFirst || sameLoc))
    let c := (misc0 >>> lo).toNat % 2 ^ w
    if c = 2 ^ w - 1 then (setBit (setFld misc0 lo (BitVec.ofNat w 0)) ov true, true)
    else (setFld misc0 lo (BitVec.ofNat w (c + 1)), false)

/-- The bits of ERRMISC0 that hold the counters and their overflow bits (R1566). -/
def ceMask (fr : W64) : W64 :=
  if frCEC fr = 0 then 0
  else
    let (lo, w, ov) := ceField fr false
    let m := maskOf 64 lo w ||| maskOf 64 ov 1
    if frRP fr then
      let (lo, w, ov) := ceField fr true
      m ||| maskOf 64 lo w ||| maskOf 64 ov 1
    else m

/-- The value the CE field takes (R1529, R1532). -/
def ceValue (persist sameLoc : Bool) (old : BitVec 2) : BitVec 2 :=
  if !persist || old = 0 then 0b10 else if sameLoc then 0b11 else 0b01

/-- The interrupts a detected error raises: fault handling, error recovery (R1546). -/
structure RasIrq where
  fhi : Bool
  eri : Bool
  deriving DecidableEq, Repr, Inhabited

/-- Recording a detected error in a record whose node's ERRFR and ERRCTLR are `fr` and `ctl` (R1532, R1546).
`anyOf` is the bit the CW action leaves UNKNOWN. With P_RAS_ER_ON_DE every Deferred error that is recorded sets ER, whatever
`ue_enabled` says (log entry 32, DESIGN CHOICE). -/
def rasDetectRec (p : Impl) (fr ctl : W64) (anyOf : Bool) (e : RasErr) (r : RasRec) : RasRec × RasIrq :=
  let st := r.status
  let act := rasAction (rasPrev st) e.typ
  let willWrite := act = .w || act = .wo || act = .cw || (act = .cwk && frCEO fr = 1 && !bit st 27)
  let (misc0, ovf) := if e.typ = .ce then countCe fr r.misc0 e.sameLoc willWrite else (r.misc0, false)
  let nocnt := decide (frCEC fr = 0)
  let inband := e.typ.isUe && ueEnabled fr ctl e.rw
  let st := if e.typ = .ce then setFld st 24 (ceValue p.rasPersistDetect e.sameLoc (fld st 24 2)) else st
  let st := if e.typ = .de then setBit st 23 true else st
  let st := if e.typ.isUe then setBit st 29 true else st
  let (st, addr, misc0, misc1) :=
    if willWrite then
      let st := if e.typ.isUe then setFld st 20 e.typ.uet else st
      let st := setBit st 28 (inband || (e.typ = .de && p.rasErOnDe))
      let st := setBit st 22 (e.typ ≠ .ce && e.pn)
      let st := setFld (setFld st 8 e.ierr) 0 e.serr
      let st := setBit st 31 e.addr.isSome
      let st := match e.misc with
        | some _ => setBit st 26 true
        | none => if p.rasMvClearOnW then setBit st 26 false else st
      let st := setBit st 30 true
      match e.misc with
      | some (m0, m1) => (st, e.addr.getD r.addr, mergeMask (ceMask fr) m0 misc0, m1)
      | none => (st, e.addr.getD r.addr, misc0, r.misc1)
    else ((if inband then setBit st 28 true else st), r.addr, misc0, r.misc1)
  let st := match act with
    | .k => if p.rasOfOnK then setBit st 27 true else st
    | .o => setBit st 27 true
    | .w => if p.rasOfClearOnW then setBit st 27 false else st
    | .wo => setBit st 27 true
    | .ck => if (ovf || nocnt) && p.rasOfOnCk then setBit st 27 true else st
    | .cwk => if frCEO fr = 0 then (if ovf || nocnt then setBit st 27 true else st)
              else if ovf then setBit st 27 true else st
    | .cw => if ovf then setBit st 27 anyOf else if p.rasOfClearOnW then setBit st 27 false else st
  let ceEvent := e.typ = .ce && (nocnt || ovf)
  ({ r with status := st, addr := addr, misc0 := misc0, misc1 := misc1 },
   { fhi := ((e.typ = .de || e.typ.isUe) && fiEnabled fr ctl e.rw) || (ceEvent && cfiEnabled fr ctl e.rw),
     eri := (e.typ.isUe && uiEnabled fr ctl e.rw) || (e.typ = .de && duiEnabled fr ctl e.rw) })

/-- The ERRFR and ERRCTLR that govern record `n` of a group: its node's first record's. -/
def rasNode (g : RasGroup) (n : Nat) : W64 × W64 :=
  match g.recs[n]? with
  | none => (0, 0)
  | some r => match g.recs[r.first]? with
    | none => (0, 0)
    | some f => (f.feature, f.ctlr)

/-- `ras_detect` on a group: nothing where the record does not exist, detection is off, or there is no error (R1532). -/
def rasDetect (p : Impl) (anyOf : Bool) (n : Nat) (e : RasErr) (g : RasGroup) : RasGroup × RasIrq :=
  match g.recs[n]? with
  | none => (g, ⟨false, false⟩)
  | some r =>
    let (fr, ctl) := rasNode g n
    if (frED fr = 1 || bit ctl 0) && e.typ != .none then
      let (r', q) := rasDetectRec p fr ctl anyOf e r
      ({ g with recs := g.recs.set n r' }, q)
    else (g, ⟨false, false⟩)

/-- The constraints on a group (R1508, R1510, R1560): an aligned page, 1 to 56 records, a node map, and the ERRFR of each node. -/
def RasGroup.consistent (g : RasGroup) : Bool :=
  decide (g.base % 4096 = 0) && decide (1 ≤ g.recs.length) && decide (g.recs.length ≤ 56) &&
    (List.range g.recs.length).all fun n =>
      match g.recs[n]? with
      | none => false
      | some r => decide (r.first ≤ n) && g.recs[r.first]?.any fun f => f.first == r.first && frConsistent f.fr

/-- The level of a node's fault handling interrupt line (R1545, R1546). -/
def fhiLevel (g : RasGroup) (f : Nat) : Bool :=
  let (fr, ctl) := rasNode g f
  let fi := fiEnabled fr ctl .read || fiEnabled fr ctl .write
  let cfi := cfiEnabled fr ctl .read || cfiEnabled fr ctl .write
  g.recs.any fun r => r.first == f && bit r.status 30 &&
    ((fi && (bit r.status 23 || bit r.status 29)) ||
     (cfi && (if frCEC fr ≠ 0 then
        (bit r.misc0 (ceField fr false).2.2 || (frRP fr && bit r.misc0 (ceField fr true).2.2))
      else fld r.status 24 2 ≠ 0#2)))

/-- The level of a node's error recovery interrupt line (R1545, R1546). -/
def eriLevel (g : RasGroup) (f : Nat) : Bool :=
  let (fr, ctl) := rasNode g f
  let ui := uiEnabled fr ctl .read || uiEnabled fr ctl .write
  let dui := duiEnabled fr ctl .read || duiEnabled fr ctl .write
  g.recs.any fun r => r.first == f && bit r.status 30 && ((ui && bit r.status 29) || (dui && bit r.status 23))

/-- A write of the low word of ERRSTATUS (R1564): [31:20] write-one-to-clear, [15:0] as written, with the guards. -/
def errstatusWrite (s w : W32) : W32 :=
  let c := (s &&& ~~~w &&& maskOf 32 20 12) ||| (w &&& maskOf 32 0 16)
  let types : W32 := maskOf 32 29 1 ||| maskOf 32 23 1 ||| maskOf 32 24 2
  let c := if bit c 27 then mergeMask types c s else c
  let c := if c &&& types ≠ 0 then mergeMask (maskOf 32 30 1) c s else c
  let synd : W32 := maskOf 32 31 1 ||| maskOf 32 28 1 ||| maskOf 32 26 1 ||| maskOf 32 22 1 ||| maskOf 32 20 2 |||
    maskOf 32 0 16
  if bit c 29 || (!bit s 29 && bit c 23) || (!bit s 29 && !bit s 23 && fld c 24 2 ≠ 0#2) then mergeMask synd c s else c

/-- The bits of ERRCTLR that ERRFR makes implemented (R1561). -/
def errctlrMask (fr : W64) : W64 :=
  let pair : BitVec 2 → Nat → Nat → W64 := fun f a b =>
    if f = 2 then maskOf 64 a 1 else if f = 3 then maskOf 64 a 1 ||| maskOf 64 b 1 else 0
  (if frED fr = 2 then maskOf 64 0 1 else 0) ||| pair (frUI fr) 2 5 ||| pair (frFI fr) 3 6 ||| pair (frUE fr) 4 7 |||
    pair (frCFI fr) 8 9 ||| pair (frDUI fr) 10 11

/-- The 64-bit value of the RAS register at a doubleword offset of a group page, `none` for a place that is no 64-bit
register (R1556, R1568). -/
def rasReg64 (g : RasGroup) (off : Nat) : Option W64 :=
  if off < 0xE00 then
    match g.recs[off / 64]? with
    | none => none
    | some r =>
      if off % 64 = 0x00 then
        some (if r.first = off / 64 then r.feature else r.fr &&& maskOf 64 32 32)
      else if off % 64 = 0x08 then some (if r.first = off / 64 then r.ctlr else 0)
      else if off % 64 = 0x10 then some r.status
      else if off % 64 = 0x18 then some r.addr
      else if off % 64 = 0x20 then some r.misc0
      else if off % 64 = 0x28 then some r.misc1
      else none
  else if off = 0xE00 then
    some (BitVec.ofNat 64 ((g.recs.mapIdx fun q r => if bit r.status 30 then 2 ^ q else 0).sum))
  else if 0xE80 ≤ off && off < 0xEF8 then some 0
  else none

/-- The 32-bit value at a word offset (R1556, R1557, R1569, R1570); an unassigned offset reads 0 (92 D82). -/
def rasRead32 (g : RasGroup) (off : Nat) : W32 :=
  match rasReg64 g (off / 8 * 8) with
  | some v => if off % 8 = 0 then v.setWidth 32 else (v >>> 32).setWidth 32
  | none =>
    if off = 0xFBC then (if g.devarch then 0x47700A00#32 else 0)
    else if off = 0xFC8 then BitVec.ofNat 32 g.recs.length
    else coreSightId 0xF 0xFF#32 g.idRegs off

/-- Supported access sizes (R1555, R1576). -/
def rasSupported (g : RasGroup) (off size : Nat) : Bool :=
  (size == 4 && off % 4 == 0) || (size == 8 && off % 8 == 0 && (rasReg64 g off).isSome)

/-- The implemented bits of ERRADDR (R1565): PADDR as far as the OAS, AI, SI and NS. -/
def rasAddrMask (oas : Nat) : W64 := maskOf 64 61 3 ||| maskOf 64 0 (min oas 56)

/-- The register at a doubleword offset takes any value: each implemented bit is that of `v` (R1555, 93 U208). -/
def rasSpoil (oas off : Nat) (v : W64) (g : RasGroup) : RasGroup :=
  match g.recs[off / 64]? with
  | none => g
  | some r =>
    let o := off % 64
    let r' : RasRec :=
      if 0xE00 ≤ off then r
      else if o = 0x08 then (if r.first = off / 64 then { r with ctlr := v &&& errctlrMask (rasNode g (off / 64)).1 } else r)
      else if o = 0x10 then { r with status := v &&& (maskOf 64 20 12 ||| maskOf 64 0 16) }
      else if o = 0x18 then { r with addr := v &&& rasAddrMask oas }
      else if o = 0x20 then { r with misc0 := v }
      else if o = 0x28 then { r with misc1 := v }
      else r
    { g with recs := g.recs.set (off / 64) r' }

/-- A write of one word of a RAS register (R1576); `oas` bounds PADDR (R1565). -/
def rasWrite32 (oas : Nat) (off : Nat) (v : W32) (g : RasGroup) : RasGroup :=
  match g.recs[off / 64]? with
  | none => g
  | some r =>
    let n := off / 64
    let hi := decide (off % 8 = 4)
    let put : W64 → W64 → W64 := fun m old =>
      if hi then mergeMask (m &&& maskOf 64 32 32) old (place 64 v 32)
      else mergeMask (m &&& maskOf 64 0 32) old (place 64 v 0)
    let (fr, _) := rasNode g n
    let o := off % 64 / 8 * 8
    let r' : RasRec :=
      if 0xE00 ≤ off then r
      else if o = 0x08 then (if r.first = n then { r with ctlr := put (errctlrMask fr) r.ctlr } else r)
      else if o = 0x10 then
        (if hi then r else { r with status := (errstatusWrite (r.status.setWidth 32) v).setWidth 64 })
      else if o = 0x18 then
        (if bit r.status 31 then r
         else { r with addr := put (rasAddrMask oas) r.addr })
      else if o = 0x20 then
        { r with misc0 := put (if bit r.status 26 then ceMask fr else BitVec.allOnes 64) r.misc0 }
      else if o = 0x28 then
        (if bit r.status 26 then r else { r with misc1 := put (BitVec.allOnes 64) r.misc1 })
      else r
    { g with recs := g.recs.set n r' }

/-- A supported write of 4 or 8 bytes (R1555: both are single-copy atomic). -/
def rasWrite (oas off size : Nat) (v : W64) (g : RasGroup) : RasGroup :=
  if size = 8 then
    let g1 := rasWrite32 oas off (v.setWidth 32) g
    let o := off % 64 / 8 * 8
    -- a 64-bit write of ERRADDR and the MISC registers is one write: its guard is the state before it
    if o = 0x10 then g1 else rasWrite32 oas (off + 4) ((v >>> 32).setWidth 32) g1
  else rasWrite32 oas off (v.setWidth 32) g

/-- Cold reset of a record: ED, AV, V and MV to 0, the "any value" cells taken as 0 (R1575, 92 D81). -/
def RasRec.coldReset (r : RasRec) : RasRec := { r with ctlr := 0, status := 0, addr := 0, misc0 := 0, misc1 := 0 }

end Sys2Proof.Machine
end

