-- ==== Sys2Proof/Machine/State.lean ====
section
/-! DEFINITION. The state of the SMMU, the inputs it acts on, what it puts out, and the state after reset
(10_state.md R100 to R171, 70_reset_and_hazards.md R1900). -/
namespace Sys2Proof.Machine

/-- What acts on the SMMU, and the steps it takes by itself at a moment the spec leaves open (log entry 6). -/
inductive Stimulus where
  /-- A register access of a Security state at an offset of the register map (10_state.md R102, R106). -/
  | regRead (sec : Sec) (off size : Nat)
  | regWrite (sec : Sec) (off size : Nat) (v : W64)
  /-- An access at a physical address to a page of a PMCG or of a RAS group (51_pmcg.md R1400, R1440, 52_ras.md R1510, R1555). -/
  | pmcgRead (sec : Sec) (addr size : Nat)
  | pmcgWrite (sec : Sec) (addr size : Nat) (v : W64)
  | rasRead (sec : Sec) (addr size : Nat)
  | rasWrite (sec : Sec) (addr size : Nat) (v : W64)
  /-- A write to memory by another agent (20_memory.md R452). -/
  | memWrite (ns : Bool) (pa : Nat) (bytes : List Byte)
  /-- What the SMMU and other agents do during the reads that the SMMU makes next (20_memory.md R452, R479): `order` chooses
  the next piece of a structure, `ws` are the writes of other agents before the first, the second, ... of its reads. -/
  | interleave (order : List Nat) (ws : List (List MemWr))
  /-- A client transaction arrives (23_translation.md R830); a stalled one is withdrawn by its client or the system (10 R152). -/
  | transaction (t : Txn)
  | withdraw (n : Nat)
  /-- The memory system answers the n-th transaction in flight (00_scope.md R12). -/
  | respond (n : Nat) (r : MemResp)
  /-- An ATS Translation Request, a PRI message, a page request hint of a client (26 R905, 60 R1751, 61 R1827). -/
  | atsRequest (t : AtsReq)
  | pri (m : Ppr)
  | pageRequest (sec : Sec) (sid : BitVec 32) (ssv : Bool) (ssid : BitVec 20) (addr : W64) (span : BitVec 8) (flags : BitVec 6)
  /-- An IMPLEMENTATION DEFINED event (61 R1828). -/
  | impdefEvent (sec : Sec) (n : BitVec 4) (payload : BitVec 248)
  /-- The endpoint completes, or answers UR to, the n-th outstanding Invalidate Request of a queue; or its time-out
  passes. -/
  | atcComplete (sec : Sec) (n : Nat)
  | atcTimeout (sec : Sec) (n : Nat)
  /-- A broadcast TLB maintenance message (27_tlb.md R925); the synchronisation of those before it (20 R481). -/
  | broadcast (b : Bcast)
  | dvmSync (id : Nat)
  /-- Service Failure Mode is entered (60 R1706); a RAS error is detected (52 R1511). -/
  | enterSfm
  | rasError (g n : Nat) (e : RasErr)
  /-- `pmcg_tick`: a clock cycle of the counter groups (51 R1409). -/
  | pmcgTick
  /-- Reset, reset for error recovery, power-off (70 R1900, 52 R1550, 70 R1931). -/
  | reset
  | errorRecoveryReset
  | powerOff
  /-- The SMMU translates the n-th transaction in flight, passes it downstream (10 R154, 20 R452). -/
  | process (n : Nat)
  | release (n : Nat)
  /-- The SMMU delivers the n-th pending interrupt, or sends only the latest of identical ones (10 R158, 60 R1721). -/
  | sendIrq (n : Nat)
  | mergeIrq (n : Nat)
  /-- The SMMU writes, answers or drops the n-th received PRI message, or sends the n-th response it owes (10 R157). -/
  | takePri (n : Nat)
  /-- The SMMU reads its Event queue, its PRI queue (60 R1661, R1757). -/
  | readEventq (sec : Sec) (n : Nat)
  | readPriq (n : Nat)
  /-- The SMMU writes into the n-th empty location of its Event queue, of its PRI queue, ahead of any PROD update (20_memory.md R462). -/
  | writeEventq (sec : Sec) (n : Nat)
  | writePriq (n : Nat)
  /-- The SMMU works on the n-th pending invalidation and completes it when it can (10 R153). -/
  | completeInval (n : Nat)
  /-- The consume index that software sees catches up (13 R288). -/
  | showCons (sec : Sec)
  /-- A written field of CR0 or IRQ_CTRL, named by its lowest bit, takes effect; its Update completes (11 R212, R240). -/
  | effectCr0 (sec : Sec) (field : Nat)
  | updateCr0 (sec : Sec) (field : Nat)
  | effectIrqCtrl (sec : Sec) (field : Nat)
  | updateIrqCtrl (sec : Sec) (field : Nat)
  /-- A written CR2 takes effect (11 R231); a written GBPA takes effect, its Update completes (11 R234). -/
  | updateCr2 (sec : Sec)
  | effectGbpa (sec : Sec)
  | updateGbpa (sec : Sec)
  /-- The SMMU completes INV_ALL (12 R368); a written IRQ_CTRL of a PMCG takes effect, its Update completes (51 R1450). -/
  | completeInit
  | pmcgIrqEffect (n : Nat)
  | pmcgIrqAck (n : Nat)
  /-- The SMMU runs the ATOS operation of a group; a RAS error terminates it (50_atos.md R1305, R1345). -/
  | atosRun (g : AtosGroup)
  | atosError (g : AtosGroup)
  /-- The SMMU replaces the n-th cached structure or translation (10 R150, R151). -/
  | evictCfg (n : Nat)
  | evictTlb (n : Nat)
  /-- The SMMU performs the k-th address of the n-th prefetch request, or drops the request (40 R1106). -/
  | prefetch (n k : Nat)
  | dropPrefetch (n : Nat)
  /-- The SMMU fetches a reachable structure of a stream speculatively (20_memory.md R477). -/
  | cfgPrefetch (sec : Sec) (sid : BitVec 32) (ssid : Option (BitVec 20))
  /-- The SMMU delivers the n-th pending event of a Security state (60 R1653). -/
  | deliverEvent (sec : Sec) (n : Nat)
  /-- The SMMU carries out what was commanded for the n-th stalled transaction, or retries it early (60 R1683). -/
  | resolveStall (n : Nat)
  | earlyRetry (n : Nat)
  /-- The SMMU takes the next command of a queue (30 R1061); it reads ahead the n-th command after RD (20 R464). -/
  | runCmdq (sec : Sec)
  | fetchCmd (sec : Sec) (n : Nat)
  /-- An UNPREDICTABLE command of a queue whose indexes were misused: the entry at an UNKNOWN location, or an arbitrary one
  (20_memory.md R459, R460). -/
  | wildCmd (sec : Sec) (atLoc : Bool)
  deriving DecidableEq, Repr

/-- What leaves the SMMU, oldest first in State.out (log entry 7). -/
inductive Output where
  /-- An access the SMMU originates: what for, direction, NS, address, size in bytes, attributes (20_memory.md R451, R473). -/
  | bus (kind : AccKind) (rw : RW) (ns : Bool) (pa size : Nat) (a : Attrs)
  /-- A client transaction is forwarded, with its Security state and StreamID, an output class, size, address and attributes
  (23 R830, 00_scope.md R12); the response of the memory system is relayed to the client: an abort, or data. -/
  | forward (id : Nat) (sec : Sec) (sid : BitVec 32) (cls : Cls) (rw : RW) (size pa : Nat) (a : Attrs)
  | response (id : Nat) (abort : Bool) (data : List Byte)
  /-- A client transaction completes without reaching the system; is aborted; completes as RAZ/WI. -/
  | noOp (id : Nat)
  | abort (id : Nat)
  | razwi (id : Nat)
  /-- The WFE wake-up event (30 R1066, 43 R1240). -/
  | sendEvent
  /-- A wired interrupt pulse (60 R1722). -/
  | wired (src : IrqSrc)
  /-- An MSI: source, address, data, attributes, DeviceID (60 R1716, R1720). -/
  | msi (src : IrqSrc) (pa : Nat) (data : W32) (a : Attrs) (devId : W32)
  /-- The ATS port: Translation Completion, Invalidate Request, PRG Response (42 R1200, 60 R1761). -/
  | atsResponse (id : Nat) (r : AtsResp)
  | atsInvalidate (q : Sec) (r : AtcReq)
  | prgResponse (sid : BitVec 32) (pasid : Option (BitVec 20)) (prgi : BitVec 9) (code : BitVec 4)
  /-- Every broadcast invalidation before a synchronisation is complete (20 R481). -/
  | dvmDone (id : Nat)
  /-- The value a register read returns, or an abort of a register access (10 R104, R109). -/
  | regData (v : W64)
  | regAbort
  deriving DecidableEq, Repr

/-- The faults that stop the machine. -/
inductive Fault where
  /-- Raised by a `memWrite` or `interleave` input outside the physical address space: the location does not exist
  (20_memory.md R450). Safe: the machine stops where the system would answer in its own way. -/
  | noSuchAddress
  deriving DecidableEq, Repr

/-- The refusals: what the spec gives no behaviour. -/
inductive Refusal where
  /-- Raised by an arm of Dispatch.lean whose meaning is not written. Safe: nothing is claimed. -/
  | notModelled (mnemonic : String)
  /-- Raised by an IMPLEMENTATION DEFINED command that the implementation provides (30 R1058): its behaviour is outside the
  spec. Safe: nothing is claimed. -/
  | impdefCommand (opcode : BitVec 8)
  /-- Raised by any input but reset while the SMMU is powered off (70 R1931). Safe: nothing is claimed. -/
  | poweredOff
  deriving DecidableEq, Repr

/-- An element of PendingPRI (10_state.md R157): a received message, or a PRG Response that is owed. -/
inductive PriMsg where
  | received (m : Ppr)
  | response (sid : BitVec 32) (pasid : Option (BitVec 20)) (prgi : BitVec 9) (code : BitVec 4)
  deriving DecidableEq, Repr

/-- The state of the SMMU (INVENTORY.md, State). -/
structure State where
  impl : Impl
  ids : IdRegs
  ns : Iface
  s : Iface
  statusr : W32
  priqBase : W64
  priqProd : W32
  priqCons : W32
  priqCfg : IrqCfg
  vatosSel : W32
  vatos : AtosRegs
  sInit : Bool
  cfgCache : List CfgEnt
  tlb : List TlbEnt
  inFlight : List Flight
  stalled : List Stall
  stags : List StagUse
  pendingInval : List Inval
  steLog : List SteEvent
  atcNs : List AtcReq
  atcS : List AtcReq
  atcNsLate : List AtcReq
  atcSLate : List AtcReq
  eventsNs : List PendEv
  eventsS : List PendEv
  pendingPri : List PriMsg
  irqs : List Irq
  gatosOp : Option AtosOp
  sGatosOp : Option AtosOp
  vatosOp : Option AtosOp
  prefetches : List Prefetch
  cmdCache : List (Sec × Nat × CmdWord)
  cmdqNsWedged : Bool
  cmdqSWedged : Bool
  unknown : List UnkReg
  e2hWritten : Bool
  sfm : Bool
  off : Bool
  mem : List Host.Cell
  internal : List Host.Cell
  meanwhile : List (List MemWr)
  fetchOrder : List Nat
  pmcgs : List Pmcg
  pmcgPast : List PastPmcg
  ras : List RasGroup
  agenda : List Stimulus
  out : List Output
  draw : Nat
  trail : Trail
  turn : Chore
  curQ : Sec
  deriving DecidableEq, Repr

/-- The registers of one ATOS group after reset (13 R305 to R309); the UNKNOWN ones 0 (log entry 1). -/
def AtosRegs.reset : AtosRegs := { ctrl := 0, sid := 0, addr := 0, par := 0 }

/-- The registers of one MSI source after reset, UNKNOWN in the spec (log entry 1). -/
def IrqCfg.reset : IrqCfg := { cfg0 := 0, cfg1 := 0, cfg2 := 0 }

/-- One programming interface after reset (70 R1901): the values the spec states are 0, and the UNKNOWN ones are 0 (log
entry 1); `gbpa` and `ptm` come from the parameters (log entry 3), as far as the fields exist (10 R107). -/
def Iface.reset (gbpa : W32) (ptm : Bool) : Iface :=
  { cr0 := 0, cr0Eff := 0, cr0Ack := 0, cr1 := 0, cr1Read := 0, cr2 := placeBit 32 ptm 2, cr2Eff := placeBit 32 ptm 2,
    gbpa := gbpa, gbpaEff := gbpa, irqCtrl := 0, irqCtrlEff := 0, irqCtrlAck := 0,
    gerror := 0, gerrorn := 0, gerrorCfg := IrqCfg.reset, strtabBase := 0, strtabCfg := 0, cmdqBase := 0, cmdqProd := 0,
    cmdqCons := 0, cmdqSeen := 0, eventqBase := 0, eventqProd := 0, eventqCons := 0, eventqCfg := IrqCfg.reset, atos := AtosRegs.reset }

/-- The fields of GBPA but Update that exist (11 R233, 12 R365): NSCFG is of the Secure register only. -/
def gbpaMask (q : Sec) : W32 :=
  maskOf 32 16 5 ||| (match q with | .ns => 0 | .s => maskOf 32 14 2) ||| maskOf 32 8 6 ||| maskOf 32 0 5

/-- The identification registers the model presents (log entry 2): SMMUv3.1 with every optional feature. -/
def IdRegs.default : IdRegs :=
  { idr0 := 0x081FF7BF#32, idr1 := 0x0E739D20#32, idr2 := 0, idr3 := 0x0000001C#32, idr4 := 0, idr5 := 0x00400476#32,
    iidr := 0x0000043B#32, aidr := 1, sidr0 := 0x00002000#32, sidr1 := 0x80000020#32, sidr3 := 0, sidr4 := 0,
    idBlock := [(0xFF0, 0x0D#32), (0xFF4, 0xF0#32), (0xFF8, 0x05#32), (0xFFC, 0xB1#32), (0xFE0, 0#32), (0xFE4, 0xB0#32),
      (0xFE8, 0x0B#32), (0xFEC, 0#32), (0xFD0, 4#32), (0xFD4, 0#32), (0xFD8, 0#32), (0xFDC, 0#32)] }

/-- The one counter group of the model's population (log entry 3): four 32-bit counters with capture and MSIs, which serves
every StreamID of both Security states (51_pmcg.md R1408). -/
def Pmcg.default : Pmcg :=
  Pmcg.resetRegs
    { page0 := 0x100000, page1 := 0x110000,
      cfgr := 0x00601F03#32, ceid0 := 0xFF#64, ceid1 := 0, aidr := 1, secure := true, wired := true, abtDetect := true,
      evtypeWidth := 16, smrWidth := 32, serves := [⟨.ns, 0, 2 ^ 32 - 1⟩, ⟨.s, 0, 2 ^ 32 - 1⟩], idRegs := [], evcntr := [], evtyper := [],
      svr := [], smr := [], cnten := 0, inten := 0, ovs := 0, scr := 0, cr := 0, irqCtrl := 0,
      irqCtrlEff := 0, irqCtrlAck := 0, irqCfg0 := 0, irqCfg1 := 0, irqCfg2 := 0, irqStatus := 0 }

/-- The RAS group of the population that 52 R1510 names for an implementation that has RAS, with Security support or without. -/
def RasGroup.default (secureImpl : Bool) : RasGroup :=
  { base := 0x120000, secureOnly := secureImpl, devarch := true, idRegs := [],
    recs := [{ first := 0, fr := 0x1A2#64, ctlr := 0, status := 0, addr := 0, misc0 := 0, misc1 := 0 }] }

/-- No walk is in progress. -/
def Trail.empty : Trail :=
  { cfg := [], tlb := [], conflict := none, budget := none, walked := false, tlbUsed := false, fetched := false,
    cfgUsed := false, past := [] }

/-- The machine right after reset (70_reset_and_hazards.md R1900, R1901): every register at the value the spec states, the
UNKNOWN ones 0 (log entry 1), the caches as the parameters say (log entry 9), memory with nothing listed (log entry 5), and no
RAS records, the default of P_RAS (52_ras.md R1510). -/
def State.reset : State :=
  { impl := Impl.default, ids := IdRegs.default,
    ns := Iface.reset (Impl.default.gbpaReset &&& gbpaMask .ns) (Impl.default.cr2PtmReset && bit IdRegs.default.idr0 5),
    s := Iface.reset (Impl.default.sGbpaReset &&& gbpaMask .s) (Impl.default.sCr2PtmReset && bit IdRegs.default.idr0 5),
    statusr := 0, priqBase := 0, priqProd := 0, priqCons := 0, priqCfg := IrqCfg.reset, vatosSel := 0,
    vatos := AtosRegs.reset, sInit := false, cfgCache := Impl.default.resetCfg, tlb := Impl.default.resetTlb,
    inFlight := [], stalled := [], stags := [], pendingInval := [], steLog := [],
    atcNs := [], atcS := [], atcNsLate := [], atcSLate := [], eventsNs := [], eventsS := [],
    pendingPri := [], irqs := [], gatosOp := none, sGatosOp := none, vatosOp := none, prefetches := [], cmdCache := [],
    cmdqNsWedged := false, cmdqSWedged := false, unknown := [], e2hWritten := false, sfm := false, off := false,
    mem := [], internal := [], meanwhile := [], fetchOrder := [], pmcgs := [Pmcg.default], pmcgPast := [], ras := [],
    agenda := [], out := [], draw := 0, trail := Trail.empty, turn := .flight, curQ := .ns }

end Sys2Proof.Machine
end

