-- ==== Sys2Proof/Machine/Flags.lean ====
section
/-! DEFINITION. The flags the SMMU computes: queue index arithmetic, the toggle flags of GERROR and of queue overflow
(20_memory.md R456 to R459, 11_registers_ns.md R245 to R247, 60_exceptions.md R1663, R1701, R1754). -/
namespace Sys2Proof.Machine

/-- The index of a queue register for a queue of `2 ^ qs` entries (R456). -/
def qIndex (x : W32) (qs : Nat) : Nat := x.toNat % 2 ^ qs
/-- The wrap flag of a queue register (R456). -/
def qWrap (x : W32) (qs : Nat) : Bool := bit x qs
/-- Empty: indexes and wrap flags equal (R457). -/
def qEmpty (prod cons : W32) (qs : Nat) : Bool := qIndex prod qs == qIndex cons qs && qWrap prod qs == qWrap cons qs
/-- Full: indexes equal, wrap flags different (R457). -/
def qFull (prod cons : W32) (qs : Nat) : Bool := qIndex prod qs == qIndex cons qs && qWrap prod qs != qWrap cons qs
/-- The inconsistent index states (R459). -/
def qInconsistent (prod cons : W32) (qs : Nat) : Bool :=
  (decide (qIndex prod qs > qIndex cons qs) && qWrap prod qs != qWrap cons qs) ||
    (decide (qIndex prod qs < qIndex cons qs) && qWrap prod qs == qWrap cons qs)
/-- The wrap flag and index as one number (R458). -/
def qPos (x : W32) (qs : Nat) : Nat := x.toNat % 2 ^ (qs + 1)
/-- The number of full locations of a queue (R457, R458); more than there are locations while the indexes are inconsistent. -/
def qUsed (prod cons : W32) (qs : Nat) : Nat := (qPos prod qs + 2 ^ (qs + 1) - qPos cons qs) % 2 ^ (qs + 1)
/-- A queue register whose wrap flag and index are one number; bits 19 to QS + 1 read as zero (13 R287, R294). -/
def qSetPos (x : W32) (p : Nat) : W32 := setFld x 0 (BitVec.ofNat 20 p)
/-- `increment_wrap` (R458). -/
def qInc (x : W32) (qs : Nat) : W32 := qSetPos x ((qPos x qs + 1) % 2 ^ (qs + 1))

/-- The bits of GERROR (R245). -/
inductive Gerr where
  | cmdq
  | eventqAbt
  | priqAbt
  | msiCmdq
  | msiEventq
  | msiPriq
  | msiGerror
  | sfm
  deriving DecidableEq, Repr

def Gerr.pos : Gerr → Nat
  | .cmdq => 0
  | .eventqAbt => 2
  | .priqAbt => 3
  | .msiCmdq => 4
  | .msiEventq => 5
  | .msiPriq => 6
  | .msiGerror => 7
  | .sfm => 8

/-- An error is active when its flag differs in GERROR and GERRORN (R246). -/
def Iface.gerrActive (i : Iface) (g : Gerr) : Bool := bit i.gerror g.pos != bit i.gerrorn g.pos

/-- Activation: toggle the flag unless the error is active already (R246, R1701). -/
def Iface.gerrToggle (i : Iface) (g : Gerr) : Iface :=
  if i.gerrActive g then i else { i with gerror := setBit i.gerror g.pos (!bit i.gerror g.pos) }

/-- Overflow: toggle OVFLG unless an overflow is unacknowledged (R1663, R1754). -/
def overflowToggle (prod cons : W32) : W32 := if bit prod 31 == bit cons 31 then setBit prod 31 (!bit prod 31) else prod

end Sys2Proof.Machine
end

