-- ==== Sys2Proof/Machine/Ops.lean ====
section
/-! DEFINITION. The named operations over State: identification fields, memory, the SMMU's own accesses, interrupts, global
errors, the command error procedure, event delivery and the resumption of stalled transactions. -/
namespace Sys2Proof.Machine

/-! ### Interfaces and identification fields -/

/-- The registers of a programming interface. -/
def State.iface (s : State) : Sec → Iface
  | .ns => s.ns
  | .s => s.s

def State.setIface (s : State) : Sec → Iface → State
  | .ns, i => { s with ns := i }
  | .s, i => { s with s := i }

/-! The identification registers as software reads them and the model uses them: a field that is RES0 for want of a feature is 0
(11 R200 to R207), a RES0 bit is 0 (10 R107), and a field of `State.ids` that holds a reserved encoding counts as one that is
defined, since none is ever given (00 R31; log entry 2 names the encodings taken). -/

/-- SMMU_AIDR (11 R209). -/
def State.aidr (s : State) : W32 := unreserve (s.ids.aidr &&& maskOf 32 0 8) 0 (fun v : BitVec 8 => v == 0 || v == 1) 0

/-- The architecture version is SMMUv3.1 (11 R209). -/
def State.v31 (s : State) : Bool := s.aidr == 1

/-- SMMU_IDR0 but for STALL_MODEL, which depends on Secure state (11 R200, R201): ATS gives PRI and NS1ATS, S1P and S2P give Hyp,
VATOS and NS1ATS, S2P gives VMW, ATOS gives VATOS. -/
def State.idr0 (s : State) : W32 :=
  let x := s.ids.idr0
  let both := bit x 0 && bit x 1
  let x := x &&& ~~~(maskOf 32 29 3 ||| maskOf 32 23 1 ||| (if bit x 10 then 0 else maskOf 32 16 1 ||| maskOf 32 11 1) |||
    (if both then 0 else maskOf 32 9 1 ||| maskOf 32 11 1 ||| maskOf 32 20 1) |||
    (if bit x 0 then 0 else maskOf 32 17 1) ||| (if bit x 15 then 0 else maskOf 32 20 1))
  let x := unreserve x 27 (fun v : BitVec 2 => v == 0 || v == 1) 1
  let x := unreserve x 24 (fun v : BitVec 2 => v != 3) 0
  let x := unreserve x 21 (fun v : BitVec 2 => v != 1) 0
  let x := unreserve x 6 (fun v : BitVec 2 => v != 3) 2
  unreserve x 2 (fun v : BitVec 2 => v != 0) 2

/-- SMMU_IDR1 (11 R203): a preset gives REL. -/
def State.idr1 (s : State) : W32 :=
  let x := s.ids.idr1
  let x := x &&& ~~~(maskOf 32 31 1 ||| if bit x 30 || bit x 29 then 0 else maskOf 32 28 1)
  let x := [21, 16, 11].foldl (fun x lo => unreserve x lo (fun v : BitVec 5 => v.toNat ≤ 19) 19) x
  let x := unreserve x 6 (fun v : BitVec 5 => v.toNat ≤ 20) 20
  unreserve x 0 (fun v : BitVec 6 => v.toNat ≤ 32) 32

/-- SMMU_IDR2 (11 R204): VATOS gives BA_VATOS. -/
def State.idr2 (s : State) : W32 := if bit s.idr0 20 then s.ids.idr2 &&& maskOf 32 0 10 else 0

/-- SMMU_IDR3 (11 R205): PRI and substreams give PPS, SMMUv3.1 gives XNX and PBHA, S1P gives HAD. -/
def State.idr3 (s : State) : W32 :=
  s.ids.idr3 &&& ((if bit s.idr0 16 && fld s.idr1 6 5 != 0 then maskOf 32 5 1 else 0) |||
    (if s.v31 then maskOf 32 3 2 else 0) ||| if bit s.idr0 1 then maskOf 32 2 1 else 0)

/-- SMMU_S_IDR0, SMMU_S_IDR1 and SMMU_S_IDR3 (12 R350, R351, R353). -/
def State.sidr0 (s : State) : W32 :=
  unreserve (s.ids.sidr0 &&& (maskOf 32 24 2 ||| maskOf 32 13 1)) 24 (fun v : BitVec 2 => v != 3) 0
def State.sidr1 (s : State) : W32 :=
  unreserve (s.ids.sidr1 &&& (maskOf 32 31 1 ||| maskOf 32 0 6)) 0 (fun v : BitVec 6 => v.toNat ≤ 32) 32
def State.sidr3 (s : State) : W32 := s.ids.sidr3 &&& maskOf 32 6 1

/-- SMMU_S_IDR1.SECURE_IMPL (12 R351). -/
def State.secureImpl (s : State) : Bool := bit s.sidr1 31

/-- SMMU_IDR5 (11 R207): the Stall model gives STALL_MAX, SMMUv3.1 gives VAX and an OAS of 52 bits; GRAN4K is RES1 with AArch32
tables. -/
def State.idr5 (s : State) : W32 :=
  let sm := if s.secureImpl then fld s.sidr0 24 2 else fld s.idr0 24 2
  let x := s.ids.idr5 &&& ((if sm = 1 then 0 else maskOf 32 16 16) ||| (if s.v31 then maskOf 32 10 2 else 0) |||
    maskOf 32 4 3 ||| maskOf 32 0 3)
  let x := unreserve x 10 (fun v : BitVec 2 => v == 0 || v == 1) 1
  let x := unreserve x 0 (fun v : BitVec 3 => v.toNat ≤ if s.v31 then 6 else 5) (if s.v31 then 6 else 5)
  if bit s.idr0 2 then setBit x 4 true else x

/-- SMMU_IIDR (11 R208): bit 7 is always 0. -/
def State.iidr (s : State) : W32 := s.ids.iidr &&& ~~~maskOf 32 7 1

def State.s1p (s : State) : Bool := bit s.idr0 1
def State.s2p (s : State) : Bool := bit s.idr0 0
def State.hyp (s : State) : Bool := bit s.idr0 9
def State.ats (s : State) : Bool := bit s.idr0 10
def State.pri (s : State) : Bool := s.ats && bit s.idr0 16
def State.sev (s : State) : Bool := bit s.idr0 14
def State.sams (s : State) : Bool := bit s.sidr3 6
def State.ssidSize (s : State) : Nat := min (fld s.idr1 6 5).toNat 20
/-- SIDSIZE of a Security state (11 R203, 12 R351). -/
def State.sidSize (s : State) : Sec → Nat
  | .ns => min (fld s.idr1 0 6).toNat 32
  | .s => min (fld s.sidr1 0 6).toNat 32
/-- PASIDs are supported when SubstreamIDs are. -/
def State.pasids (s : State) : Bool := decide (s.ssidSize ≠ 0)
/-- MSIs are supported for a Security state (11 R200, 12 R350). -/
def State.msi (s : State) : Sec → Bool
  | .ns => bit s.idr0 13
  | .s => bit s.sidr0 13
/-- OAS in bits (11 R207). -/
def State.oas (s : State) : Nat :=
  match (fld s.idr5 0 3).toNat with
  | 0 => 32
  | 1 => 36
  | 2 => 40
  | 3 => 42
  | 4 => 44
  | 5 => 48
  | _ => 52
/-- IAS in bits (23 R801). -/
def State.ias (s : State) : Nat :=
  max (if bit s.idr0 2 then 40 else 0) (if bit s.idr0 3 then s.oas else 0)
/-- STALL_MODEL of a Security state; the Non-secure one is a function of NSSTALLD (11 R201, 60 R1675). -/
def State.stallModel (s : State) : Sec → BitVec 2
  | .s => fld s.sidr0 24 2
  | .ns =>
    if !s.secureImpl then fld s.idr0 24 2
    else if fld s.sidr0 24 2 = 0 && bit s.s.cr0Eff 9 then 1
    else fld s.sidr0 24 2

/-- No identification register holds a reserved encoding (00 R31; 11 R200 to R209, 12 R350, R351). -/
def State.idsDefined (s : State) : Bool :=
  let x := s.ids.idr0
  let y := s.ids.idr1
  let v31 := fld s.ids.aidr 0 8 == 1#8
  (v31 || fld s.ids.aidr 0 8 == 0#8) && decide ((fld x 27 2).toNat ≤ 1) && fld x 24 2 != 3#2 && fld x 21 2 != 1#2 && fld x 6 2 != 3#2 &&
    fld x 2 2 != 0#2 && ([21, 16, 11].all fun lo => decide ((fld y lo 5).toNat ≤ 19)) && decide ((fld y 6 5).toNat ≤ 20) &&
    decide ((fld y 0 6).toNat ≤ 32) && decide ((fld s.ids.idr5 10 2).toNat ≤ 1) &&
    decide ((fld s.ids.idr5 0 3).toNat ≤ if v31 then 6 else 5) && fld s.ids.sidr0 24 2 != 3#2 && decide ((fld s.ids.sidr1 0 6).toNat ≤ 32)

/-- The Implementer of SMMU_IIDR has bit 7 zero and matches the designer of PIDR1, PIDR2 and PIDR4 where they are present (11 R208,
12 R400). -/
def State.iidrConsistent (s : State) : Bool :=
  let x := s.ids.iidr
  !bit x 7 && match s.ids.idBlock.lookup 0xFE4, s.ids.idBlock.lookup 0xFE8, s.ids.idBlock.lookup 0xFD0 with
    | some p1, some p2, some p4 => fld x 0 4 == fld p1 4 4 && fld x 4 3 == fld p2 0 3 && fld x 8 4 == fld p4 0 4
    | _, _, _ => true

/-- The constraints on the identification registers: their encodings (00 R31) and their consistency (10 R170; the fields of R200 to
R208). -/
def State.idsConsistent (s : State) : Bool :=
  let x := s.ids.idr0
  let v31 := fld s.ids.aidr 0 8 == 1#8
  s.idsDefined && s.iidrConsistent &&
    (bit x 0 || bit x 1) && (!bit s.ids.sidr1 31 || bit x 1) && (decide ((fld s.ids.idr1 0 6).toNat ≤ 6) || fld x 27 2 == 1#2) &&
    (v31 || fld s.ids.idr5 10 2 == 0#2) &&
    (fld s.ids.idr5 0 3 != 6#3 || bit s.ids.idr5 6) && (fld s.ids.idr5 10 2 == 0#2 || bit s.ids.idr5 6) &&
    (bit x 10 || !bit x 16) && (!bit x 20 || (bit x 15 && bit x 0 && bit x 1)) && (!bit x 9 || (bit x 0 && bit x 1)) &&
    (!bit x 2 || bit s.ids.idr5 4) && (!bit s.ids.idr3 2 || bit x 1) && (!bit s.ids.idr3 3 || bit s.ids.idr3 2) &&
    (!v31 || !bit x 0 || bit s.ids.idr3 4) && (!v31 || !bit x 1 || bit s.ids.idr3 2)

/-- SMMUEN, EVENTQEN, CMDQEN and PRIQEN in effect (11 R210 to R214); SMMUEN == 0 makes PRIQEN 0. -/
def State.smmuen (s : State) (q : Sec) : Bool := bit (s.iface q).cr0Eff 0
def State.priqen (s : State) : Bool := bit s.ns.cr0Eff 1 && bit s.ns.cr0Eff 0
def State.eventqen (s : State) (q : Sec) : Bool := bit (s.iface q).cr0Eff 2
def State.cmdqen (s : State) (q : Sec) : Bool := bit (s.iface q).cr0Eff 3

/-- S_CR0.SIF in effect (12 R358). -/
def State.sif (s : State) : Bool := bit s.s.cr0Eff 5

/-! ### Free values and outputs -/

/-- The next free value (log entry 4). -/
def State.free (s : State) : BitVec 512 := Config.freeValue s.draw
/-- The state after a free value was taken. -/
def State.drawn (s : State) : State := { s with draw := s.draw + 1 }
/-- `n` bytes of free values, from draw `d` on. -/
def freeBytes (d n : Nat) : List Byte := (List.range n).map fun k => fld (Config.freeValue (d + k / 64)) (8 * (k % 64)) 8
/-- Append an output (log entry 7). -/
def State.emit (s : State) (o : Output) : State := { s with out := s.out ++ [o] }

/-! ### Memory (20_memory.md R450, R454) -/

/-- The key of a byte: Non-secure space above the 52-bit Secure space (R450; log entry 5). -/
def memKey (ns : Bool) (pa : Nat) : Nat := (if ns then 2 ^ 52 else 0) + pa % 2 ^ 52

/-- The byte at a key; an unlisted one reads 0 (log entry 5). -/
def memGet : List Host.Cell → Nat → Byte
  | [], _ => 0
  | (a, b) :: m, k => if a = k then b else if k < a then 0 else memGet m k

/-- Writing one byte, keeping the list sorted and without zero entries. -/
def memSet : List Host.Cell → Nat → Byte → List Host.Cell
  | [], k, v => if v = 0 then [] else [(k, v)]
  | (a, b) :: m, k, v =>
    if k < a then (if v = 0 then (a, b) :: m else (k, v) :: (a, b) :: m)
    else if k = a then (if v = 0 then m else (k, v) :: m)
    else (a, b) :: memSet m k v

/-- The canonical form of memory: addresses strictly rising, no entry equal to what an unlisted address reads as. -/
def Memory.wf : List Host.Cell → Bool
  | [] => true
  | [(_, b)] => b != 0
  | (a, b) :: (a', b') :: m => b != 0 && decide (a < a') && Memory.wf ((a', b') :: m)

/-- The storage inside the SMMU at an address (10_state.md R160, R491). -/
def intRange (p : Impl) (ns : Bool) (pa : Nat) : Option InternalRange :=
  p.internal.find? fun r => r.ns == ns && decide (r.base ≤ pa % 2 ^ 52) && decide (pa % 2 ^ 52 < r.base + r.size)

/-- The bits that are stored of the byte at an address: a bit that is not is RAZ/WI (R493, R494). -/
def InternalRange.stored (r : InternalRange) (pa : Nat) : Byte := (r.mask[(pa % 2 ^ 52 - r.base) % r.stride]?).getD 0xFF#8

/-- One byte at an address: of memory, or of the storage inside the SMMU. -/
def State.byte (s : State) (ns : Bool) (pa : Nat) : Byte :=
  match intRange s.impl ns pa with
  | none => memGet s.mem (memKey ns pa)
  | some r => memGet s.internal (memKey ns pa) &&& r.stored pa

/-- Reading `n` bytes upwards from an address. -/
def State.load (s : State) (ns : Bool) (pa : Nat) : Nat → List Byte
  | 0 => []
  | n + 1 => s.byte ns pa :: s.load ns (pa + 1) n

/-- What a write does to memory: the bytes outside the storage of the SMMU. -/
def storeMem (p : Impl) (m : List Host.Cell) (ns : Bool) (pa : Nat) : List Byte → List Host.Cell
  | [] => m
  | b :: bs => storeMem p (if (intRange p ns pa).isNone then memSet m (memKey ns pa) b else m) ns (pa + 1) bs

/-- What a write does to the storage of the SMMU; with `sw` it is another agent's, which a range may ignore (R492). -/
def storeInternal (p : Impl) (sw : Bool) (m : List Host.Cell) (ns : Bool) (pa : Nat) : List Byte → List Host.Cell
  | [] => m
  | b :: bs =>
    storeInternal p sw
      (match intRange p ns pa with
       | none => m
       | some r => if sw && r.swReadOnly then m else memSet m (memKey ns pa) (b &&& r.stored pa)) ns (pa + 1) bs

/-- Writing bytes upwards from an address, by the SMMU or, with `sw`, by another agent. -/
def State.store (s : State) (sw ns : Bool) (pa : Nat) (bs : List Byte) : State :=
  { s with mem := storeMem s.impl s.mem ns pa bs, internal := storeInternal s.impl sw s.internal ns pa bs }

/-- A write of another agent, which may update a Stream table (43 R1233). -/
def State.agentStore (s : State) (ns : Bool) (pa : Nat) (bs : List Byte) : State :=
  { s.store true ns pa bs with steLog := s.steLog ++ [.wrote ns pa bs.length] }

/-- The writes of other agents that fall before the next read of the SMMU (R452). -/
def State.others (s : State) : State :=
  match s.meanwhile with
  | [] => s
  | ws :: rest => ws.foldl (fun s w => s.agentStore w.ns w.pa w.bytes) { s with meanwhile := rest }

/-- Whether an access is in a range of addresses. -/
def inRange (base size pa n : Nat) : Bool := decide (base < pa + n) && decide (pa < base + size)

/-- The platform's abort predicate (R495, U107). No memory type is one that the system rejects (11 R225, 24 R954; log entry 43,
DESIGN CHOICE). -/
def State.aborts (s : State) (kind : AccKind) (ns : Bool) (pa n : Nat) : Bool :=
  s.impl.abortRanges.any fun r => r.ns == ns && r.kinds.contains kind && inRange r.base r.size pa n

/-- The platform's PCIe space predicate (R472, U104). -/
def State.pcieSpace (s : State) (ns : Bool) (pa n : Nat) : Bool :=
  s.impl.pcieSpace.any fun r => r.ns == ns && inRange r.base r.size pa n

/-! ### Registers whose reads are UNKNOWN -/

/-- The reads of a register are UNKNOWN from now on; the register is known again (11 R251, 13 R281, R306). -/
def State.setUnknown (s : State) (r : UnkReg) : State := { s with unknown := r :: s.unknown.filter (· != r) }
def State.setKnown (s : State) (r : UnkReg) : State := { s with unknown := s.unknown.filter (· != r) }

/-! ### RAS records of the SMMU's own errors (52_ras.md R1511, R1545) -/

/-- The offset of the VATOS page from the base of the registers (10 R101). -/
def State.vatosOff (s : State) : Nat := 0x20000 + (fld s.idr2 0 10).toNat * 0x10000

/-- A span of addresses meets the SMMU's own register pages (10 R100): Page 0 and Page 1, and the VATOS page where there is one. -/
def State.ownPages (s : State) (pa n : Nat) : Bool :=
  let base := s.impl.page0Base.toNat
  inRange base 0x20000 pa n || (bit s.idr0 20 && inRange (base + s.vatosOff) 0x10000 pa n)

/-- The constraints on the RAS population (52 R1508 to R1510, R1560): each group, whose page lies outside the SMMU's own register
pages, and without Security support a group that Non-secure software sees. -/
def State.rasConsistent (s : State) : Bool :=
  s.ras.all (fun g => g.consistent && !s.ownPages g.base 4096) && (s.ras.isEmpty || s.secureImpl || s.ras.any fun g => !g.secureOnly)

/-- Interrupts that wait to be delivered (10_state.md R158). -/
def State.pushIrqs (s : State) (l : List Irq) : State := { s with irqs := s.irqs ++ l }

/-- Wired RAS interrupts of a node `f`, in the edge style; in the level style (P_RAS_IRQ_LEVEL) its lines follow the records (52
R1546). -/
def State.rasIrqs (s : State) (g f : Nat) (q : RasIrq) : State :=
  if s.impl.rasIrqLevel then s
  else s.pushIrqs ((if q.fhi then [.wired (.rasFhi g f)] else []) ++ if q.eri then [.wired (.rasEri g f)] else [])

/-- The level of the fault handling line and of the error recovery line of a node, in the level style (52 R1546). -/
def State.rasLines (s : State) (g f : Nat) : RasIrq :=
  match s.ras[g]? with
  | none => ⟨false, false⟩
  | some x => ⟨s.impl.rasIrqLevel && fhiLevel x f, s.impl.rasIrqLevel && eriLevel x f⟩

/-- `ras_detect` of one error in record `n` of group `g` (52 R1532); of an address the implemented bits are recorded (52 R1565). -/
def State.rasDetect (s : State) (g n : Nat) (e : RasErr) : State :=
  match s.ras[g]? with
  | none => s
  | some grp =>
    let e := { e with addr := e.addr.map fun a => a &&& rasAddrMask s.oas }
    let (grp', q) := Machine.rasDetect s.impl (bit s.free 0) n e grp
    ({ s.drawn with ras := s.ras.set g grp' }).rasIrqs g ((grp.recs[n]?.map RasRec.first).getD n) q

/-- The descriptor of an aborted access, with the address where the classification records one (52 R1565). -/
def RasErr.at (e : RasErr) (ns : Bool) (pa : Nat) : RasErr :=
  { e with addr := e.addr.map fun _ => placeBit 64 ns 63 ||| place 64 (BitVec.ofNat 56 pa) 0 }

/-- P_RAS_CLASSIFY of an aborted access (52 R1511): the first rule that fits it, else the destination of its side. What is of
the Secure side, by its stream or queue `sec` or by its address, never goes to a group that Non-secure software sees (52 R1509). -/
def State.rasDest (s : State) (sec : Sec) (kind : AccKind) (ns : Bool) (pa : Nat) : Option RasDest :=
  let secure := sec == .s || !ns
  let hits := fun r : RasRule => r.kinds.contains kind && r.range.all fun g => g.ns == ns && inRange g.base g.size pa 1
  let fits := fun d : RasDest => !secure || (s.ras[d.group]?).any (·.secureOnly)
  (((s.impl.rasRules.find? hits).map RasRule.dest).toList ++ [if secure then s.impl.rasSecure else s.impl.rasNs]).find? fits

/-- The one RAS record that an aborted access of the SMMU makes (52 R1506). -/
def State.rasAborted (s : State) (sec : Sec) (kind : AccKind) (ns : Bool) (pa : Nat) : State :=
  match s.rasDest sec kind ns pa with
  | none => s
  | some d => s.rasDetect d.group d.record (d.err.at ns pa)

/-! ### The SMMU's own accesses -/

/-- An access that the SMMU originates leaves on the bus. -/
def State.bus (s : State) (kind : AccKind) (rw : RW) (ns : Bool) (pa n : Nat) (a : Attrs) : State :=
  s.emit (.bus kind rw ns pa n (ensureConsistent { a with inst := false, priv := true, ns := ns }))

/-- A read, after what other agents wrote meanwhile: `none` is an external abort (R495); in PCIe space any value or an abort
(R472). `sec` is the Security state of the stream or queue that it is for. -/
def State.busRead (s : State) (sec : Sec) (kind : AccKind) (ns : Bool) (pa n : Nat) (a : Attrs) : Option Nat × State :=
  let s := s.others.bus kind .read ns pa n a
  if s.aborts kind ns pa n then (none, s.rasAborted sec kind ns pa)
  else if s.pcieSpace ns pa n then
    (if bit s.free 0 then (none, s.drawn.rasAborted sec kind ns pa)
     else (some ((Config.freeValue (s.draw + 1)).toNat % 2 ^ (8 * n)), s.drawn.drawn))
  else (some (leNat (s.load ns pa n)), s)

/-- A structure read in pieces of `w` bytes, each one access, in an order that is open (R479): `todo` are the pieces left. -/
def State.readPieces (sec : Sec) (kind : AccKind) (ns : Bool) (pa w : Nat) (a : Attrs) : Nat → List Nat → Nat → State → Option Nat × State
  | 0, _, acc, s => (some acc, s)
  | n + 1, todo, acc, s =>
    let i := s.fetchOrder.headD 0 % todo.length
    let k := (todo[i]?).getD 0
    match { s with fetchOrder := s.fetchOrder.tail }.busRead sec kind ns (pa + k * w) w a with
    | (none, s) => (none, s)
    | (some v, s) => State.readPieces sec kind ns pa w a n (todo.eraseIdx i) (acc + v * 2 ^ (8 * w * k)) s

/-- The read of a structure of `n` bytes: one of 8 bytes is one access, a longer one is read in pieces of
P_STRUCT_ATOMIC_BYTES (R479). -/
def State.structRead (s : State) (sec : Sec) (kind : AccKind) (ns : Bool) (pa n : Nat) (a : Attrs) : Option Nat × State :=
  let w := s.impl.structAtomic
  if n ≤ 8 || !(w == 8 || w == 16 || w == 32) then s.busRead sec kind ns pa n a
  else State.readPieces sec kind ns pa w a (n / w) (List.range (n / w)) 0 s

/-- A write; false is an external abort (R495). An aborted write changes nothing, and makes a RAS record; where the memory system
reports no abort of a write it is silently lost (60 R1703). -/
def State.busWrite (s : State) (sec : Sec) (kind : AccKind) (ns : Bool) (pa : Nat) (bs : List Byte) (a : Attrs) : Bool × State :=
  let s := s.bus kind .write ns pa bs.length a
  if s.aborts kind ns pa bs.length then
    (if s.impl.writeAbortsReported then (false, s.rasAborted sec kind ns pa) else (true, s))
  else (true, s.store false ns pa bs)

/-- The Cacheability encoding of CR1 (11 R225): 0b01 Write-Back, 0b10 Write-Through, else Non-cacheable. -/
def cr1Cache (b : BitVec 2) : Cache := if b = 1 then .wb else if b = 2 then .wt else .nc

/-- Attributes of an access through a register field of CR1 with an allocation hint. The hint gives both Read- and
Write-Allocate, and no access is transient: the first is one hint of a register that names only the direction it uses, the
second is IMPLEMENTATION DEFINED (11 R225, 12 R361, R378; log entry 43, DESIGN CHOICE). -/
def accessAttrs (ic oc sh : BitVec 2) (alloc : Bool) : Attrs :=
  Attrs.normalise { mt := .normal (cr1Cache ic) (cr1Cache oc), sh := shDecode sh, hi := ⟨alloc, alloc, false⟩,
                    ho := ⟨alloc, alloc, false⟩, inst := false, priv := true, ns := true }

/-- The Cacheability encoding of the structure and walk fields (21 R571, R603, 22 R712): 0b11 is Write-Back too. -/
def walkCache (b : BitVec 2) : Cache := if b = 0 then .nc else if b = 2 then .wt else .wb

/-- The hints of a walk field: 0b01 Read- and Write-Allocate, 0b10 and 0b11 Read-Allocate (21 R603, 22 R712). That 0b01 and 0b11
of S2IR0 and S2OR0, and of IR0, OR0, IR1 and OR1 of a CD, differ at all is IMPLEMENTATION DEFINED; here they do, in Write-Allocate
(log entry 45, DESIGN CHOICE). -/
def walkHints (b : BitVec 2) : Hints := ⟨b != 0, b = 1, false⟩

/-- The hints of S1CIR and S1COR: 0b11 is no Read-Allocate (21 R571); the write hint of a read is IMPLEMENTATION
DEFINED, here none. For 0b10, Write-Through, the spec names no hint: here it is Read-Allocate (log entry 45, DESIGN CHOICE). -/
def s1cHints (b : BitVec 2) : Hints := ⟨b = 1 || b = 2, false, false⟩

/-- Attributes of a table walk from its IR, OR and SH fields. -/
def walkAttrs (ir or sh : BitVec 2) : Attrs :=
  Attrs.normalise { mt := .normal (walkCache ir) (walkCache or), sh := shDecode sh, hi := walkHints ir, ho := walkHints or,
                    inst := false, priv := true, ns := true }

/-- Attributes of a CD or L1CD fetch from S1CIR, S1COR and S1CSH. -/
def s1cAttrs (ir or sh : BitVec 2) : Attrs :=
  Attrs.normalise { mt := .normal (walkCache ir) (walkCache or), sh := shDecode sh, hi := s1cHints ir, ho := s1cHints or,
                    inst := false, priv := true, ns := true }

/-- Attributes of queue accesses through a base register (11 R225, 13 R285). -/
def Iface.queueAttrs (i : Iface) (base : W64) : Attrs :=
  accessAttrs (fld i.cr1 0 2) (fld i.cr1 2 2) (fld i.cr1 4 2) (bit base 62)

/-- Attributes of Stream table accesses (11 R225, 21 R554). -/
def Iface.tableAttrs (i : Iface) : Attrs :=
  accessAttrs (fld i.cr1 6 2) (fld i.cr1 8 2) (fld i.cr1 10 2) (bit i.strtabBase 62)

/-! ### Queues (20_memory.md R456, 13_registers_queues.md R285 to R300) -/

/-- The log2 sizes in effect, capped at what the implementation has (13 R285, R292, R298). -/
def State.cmdqs (s : State) (q : Sec) : Nat := min (fld (s.iface q).cmdqBase 0 5).toNat (min (fld s.idr1 21 5).toNat 19)
def State.eventqs (s : State) (q : Sec) : Nat := min (fld (s.iface q).eventqBase 0 5).toNat (min (fld s.idr1 16 5).toNat 19)
def State.priqs (s : State) : Nat := min (fld s.priqBase 0 5).toNat (min (fld s.idr1 11 5).toNat 19)

/-- The effective base address of a queue of `2 ^ lg` bytes: ADDR[51:5], aligned to the larger of the size and 32 bytes,
truncated to the OAS; a relative preset counts from Page 0 (13 R285, 20 R470, R492). -/
def State.queueBase (s : State) (base : W64) (lg : Nat) : Nat :=
  let rel := if bit s.idr1 28 && bit s.idr1 29 then s.impl.page0Base else 0
  (truncTo (rel + alignDown (base &&& maskOf 64 5 47) (max 5 lg)) s.oas).toNat

/-- The address of the command at an index (30 R1050, 20 R456). -/
def State.cmdAddr (s : State) (q : Sec) (i : Nat) : Nat := s.queueBase (s.iface q).cmdqBase (s.cmdqs q + 4) + 16 * i

/-- The NS attribute of a queue's accesses (20 R451). -/
def Sec.isNs : Sec → Bool
  | .ns => true
  | .s => false

/-- The side of an access by its NS attribute. -/
def Sec.ofNs (ns : Bool) : Sec := if ns then .ns else .s

/-! ### Interrupts and global errors (60_exceptions.md R1700 to R1729) -/

/-- The attributes of an MSI (R1719); the hints are IMPLEMENTATION DEFINED, here none. -/
def msiAttrs (memattr : BitVec 4) (sh : BitVec 2) (ns : Bool) : Attrs :=
  ensureConsistent { mt := memattrDecode memattr, sh := shDecode sh, hi := .off, ho := .off, inst := false, priv := true, ns := ns }

/-- `msi_write` (R1716): a 32-bit write at the address truncated to the OAS; false is a reported abort. -/
def State.msiWrite (s : State) (src : IrqSrc) (ns : Bool) (addr : W64) (data : W32) (a : Attrs) : Bool × State :=
  let pa := (truncTo addr s.oas).toNat
  let (ok, s) := s.busWrite (.ofNs ns) .msi ns pa (leBytes 4 data.toNat) a
  (ok, s.emit (.msi src pa data a s.impl.msiDeviceId))

/-- The address field of an IRQ_CFG0 register (11 R250). -/
def IrqCfg.addr (c : IrqCfg) : W64 := c.cfg0 &&& maskOf 64 2 50

/-- The enable of an interrupt source in effect: the Update that set it is complete, and none that clears it has taken effect
(11 R241, R1722). -/
def State.irqOn (s : State) (q : Sec) (f : Nat) : Bool := bit (s.iface q).irqCtrlAck f && bit (s.iface q).irqCtrlEff f

/-- `irq_raise` of a register-configured source (R1722): the wired edge and the MSI, with the configuration of this moment,
wait to be delivered (10_state.md R158). -/
def State.irqRaise (s : State) (q : Sec) (src : IrqSrc) (en : Bool) (c : IrqCfg) : State :=
  if en then
    s.pushIrqs ((if s.impl.wiredIrq then [.wired src] else []) ++
      if s.msi q && c.addr != 0 then
        [.msi src q.isNs c.addr c.cfg1 (msiAttrs (fld c.cfg2 0 4) (fld c.cfg2 4 2) q.isNs)]
      else [])
  else s

/-- Toggle a GERROR flag of a Security state (R1701). -/
def State.gerrToggle (s : State) (q : Sec) (g : Gerr) : State := s.setIface q ((s.iface q).gerrToggle g)

/-- The GERROR interrupt (R1715). -/
def State.gerrorIrq (s : State) (q : Sec) : State := s.irqRaise q (.gerror q) (s.irqOn q 0) (s.iface q).gerrorCfg

/-- `gerror_activate` (R1701): MSI_GERROR_ABT_ERR raises no interrupt. -/
def State.gerrorActivate (s : State) (q : Sec) (g : Gerr) : State :=
  if (s.iface q).gerrActive g then s
  else if g = .msiGerror then s.gerrToggle q g
  else (s.gerrToggle q g).gerrorIrq q

/-- The Event queue interrupt (R1724) and the PRI queue interrupt (R1763). -/
def State.eventqIrq (s : State) (q : Sec) : State := s.irqRaise q (.eventq q) (s.irqOn q 2) (s.iface q).eventqCfg
def State.priqIrq (s : State) : State := s.irqRaise .ns .priq (s.irqOn .ns 1) s.priqCfg

/-- A counter group whose MSI was aborted says so, if it can detect it (51 R1434, R1450). -/
def State.pmcgAborted (s : State) (n : Nat) : State :=
  match s.pmcgs[n]? with
  | none => s
  | some g => if g.abtDetect && g.v31 then { s with pmcgs := s.pmcgs.set n { g with irqStatus := setBit g.irqStatus 0 true } } else s

/-- What an aborted MSI activates (R1729): the flag of its source. One of the GERROR interrupt raises no further interrupt
(R1715). -/
def State.msiAborted (s : State) : IrqSrc → State
  | .eventq q => s.gerrorActivate q .msiEventq
  | .priq => s.gerrorActivate .ns .msiPriq
  | .cmdSync q => s.gerrorActivate q .msiCmdq
  | .gerror q => s.gerrorActivate q .msiGerror
  | .pmcg n => s.pmcgAborted n
  | .rasFhi _ _ => s
  | .rasEri _ _ => s

/-- The n-th interrupt is delivered (10_state.md R158). -/
def State.sendIrq (s : State) (n : Nat) : State :=
  match s.irqs[n]? with
  | none => s
  | some x =>
    let s := { s with irqs := s.irqs.eraseIdx n }
    match x with
    | .wired src => s.emit (.wired src)
    | .msi src ns addr data a =>
      match s.msiWrite src ns addr data a with
      | (true, s) => s
      | (false, s) => s.msiAborted src

/-- The n-th interrupt gives way to a later identical one (R1721). -/
def State.mergeIrq (s : State) (n : Nat) : State :=
  match s.irqs[n]? with
  | none => s
  | some x => if (s.irqs.drop (n + 1)).contains x then { s with irqs := s.irqs.eraseIdx n } else s

/-- An interrupt of a source. -/
def Irq.src : Irq → IrqSrc
  | .wired src => src
  | .msi src _ _ _ _ => src

/-- An MSI of the completion of a CMD_SYNC of a Command queue. -/
def Irq.isSyncMsi (q : Sec) : Irq → Bool
  | .wired _ => false
  | .msi src _ _ _ _ => src == .cmdSync q

/-- The MSIs of earlier CMD_SYNCs of a Command queue are delivered (43 R1241, R1726); `k` bounds their number. -/
def State.flushSyncs (q : Sec) : Nat → State → State
  | 0, s => s
  | k + 1, s =>
    match s.irqs.findIdx? (Irq.isSyncMsi q) with
    | none => s
    | some n => State.flushSyncs q k (s.sendIrq n)

/-! ### Consumption and the command error procedure (30_encoding.md R1061 to R1066) -/

/-- A Command queue is empty; is full. -/
def State.cmdqEmpty (s : State) (q : Sec) : Bool := qEmpty (s.iface q).cmdqProd (s.iface q).cmdqCons (s.cmdqs q)
def State.cmdqFull (s : State) (q : Sec) : Bool := qFull (s.iface q).cmdqProd (s.iface q).cmdqCons (s.cmdqs q)

/-- The index that software sees catches up with the consume index (13 R288); a queue that was seen full wakes WFE waiters
(R1066). -/
def State.showCons (s : State) (q : Sec) : State :=
  let i := s.iface q
  let qs := s.cmdqs q
  let s' := s.setIface q { i with cmdqSeen := i.cmdqCons }
  if s.sev && qFull i.cmdqProd i.cmdqSeen qs && qPos i.cmdqCons qs != qPos i.cmdqSeen qs then s'.emit .sendEvent else s'

/-- The command at RD is taken: the consume index moves on, a copy read ahead is used up (20 R464), and after so many
commands as the implementation takes together the index that software sees follows (R1061, R1064, 13 R288). -/
def State.consume (s : State) : State :=
  let i := s.iface s.curQ
  let qs := s.cmdqs s.curQ
  let used := qPos i.cmdqCons qs
  let next := qInc i.cmdqCons qs
  let t := { s with cmdCache := s.cmdCache.filter fun x => !(x.1 == s.curQ && x.2.1 == used) }
  let s' := t.setIface s.curQ { i with cmdqCons := next }
  if s.impl.consBatch ≤ (qPos next qs + 2 ^ (qs + 1) - qPos i.cmdqSeen qs) % 2 ^ (qs + 1) then s'.showCons s.curQ else s'

/-- The codes of CMDQ_CONS.ERR (R1060). -/
inductive Cerror where
  | ill
  | abt
  | atcInvSync
  deriving DecidableEq, Repr

def Cerror.code : Cerror → BitVec 7
  | .ill => 1
  | .abt => 2
  | .atcInvSync => 3

/-- TAKING THE EXCEPTION of a command: `cmd_error` (R1062). RD stays, ERR takes the code, then CMDQ_ERR is activated, which
stops consumption and raises the GERROR interrupt where it is enabled. Commands read ahead are dropped (20 R464), and
software sees RD at the command (13 R288). -/
def State.cmdError (s : State) (c : Cerror) : State :=
  let s := { s with cmdCache := s.cmdCache.filter fun x => x.1 != s.curQ }.showCons s.curQ
  let i := s.iface s.curQ
  (s.setIface s.curQ { i with cmdqCons := setFld i.cmdqCons 24 c.code }).gerrorActivate s.curQ .cmdq

/-- The bits of GERROR that are defined for a Security state (11 R245, 12 R373). -/
def State.gerrorMask (s : State) (q : Sec) : W32 :=
  let base : W32 := maskOf 32 0 1 ||| maskOf 32 2 1 ||| maskOf 32 8 1
  let msi : W32 := if s.msi q then maskOf 32 4 2 ||| maskOf 32 7 1 else 0
  let pri : W32 := if q = .ns && s.pri then maskOf 32 3 1 ||| (if s.msi q then maskOf 32 6 1 else 0) else 0
  base ||| msi ||| pri

/-- RETURN from a command error, and the acknowledgement of every global error: a write of GERRORN (R1063, R1701). Where
software toggles the flag of an inactive error it becomes active or not, by a draw, with or without the interrupt (11 R247,
U62); one that does not become active keeps GERROR equal to GERRORN. A Command queue error stops the queue as any other does (20
R464). -/
def State.ackGerror (s : State) (q : Sec) (v : W32) : State :=
  let i := s.iface q
  let new := v &&& s.gerrorMask q
  let wrong := (new ^^^ i.gerrorn) &&& ~~~(i.gerror ^^^ i.gerrorn)
  if wrong = 0 then s.setIface q { i with gerrorn := new }
  else
    let d := s.free
    let quiet := wrong &&& fld d 0 32
    let s := s.drawn.setIface q { i with gerrorn := new, gerror := i.gerror ^^^ quiet }
    let s := if (s.iface q).gerrActive .cmdq then { s with cmdCache := s.cmdCache.filter fun x => x.1 != q }.showCons q else s
    if bit d 511 && quiet != wrong then s.gerrorIrq q else s

/-! ### Event delivery (60_exceptions.md R1651 to R1665) -/

/-- The pending events of a Security state. -/
def State.events (s : State) : Sec → List PendEv
  | .ns => s.eventsNs
  | .s => s.eventsS

def State.setEvents (s : State) : Sec → List PendEv → State
  | .ns, l => { s with eventsNs := l }
  | .s, l => { s with eventsS := l }

def State.eventqFull (s : State) (q : Sec) : Bool := qFull (s.iface q).eventqProd (s.iface q).eventqCons (s.eventqs q)

/-- `eventq_writable` (R1652); nothing is written in Service Failure Mode (R1706). -/
def State.eventqWritable (s : State) (q : Sec) : Bool :=
  s.eventqen q && !s.eventqFull q && !(s.iface q).gerrActive .eventqAbt && !s.sfm

/-- The EVENT EXCEPTION: a record is handed to PendingEvents (R1651), merged into an equal one where that is permitted
(61 R1805). -/
def State.recordEvent (s : State) (q : Sec) (e : PendEv) : State :=
  let same := fun p : PendEv => p.stag.isNone && (e.mev && p.mev || evAlwaysMerge e.ev) && evMergeKey p.ev == evMergeKey e.ev
  if s.impl.mergeEvents && e.stag.isNone && (s.events q).any same then s
  else s.setEvents q (s.events q ++ [e])

/-- The index at which a record is written; UNKNOWN while the indexes are inconsistent (20 R459). -/
def State.eventIndex (s : State) (q : Sec) : Nat :=
  if qInconsistent (s.iface q).eventqProd (s.iface q).eventqCons (s.eventqs q) then s.free.toNat % 2 ^ s.eventqs q
  else qIndex (s.iface q).eventqProd (s.eventqs q)

/-- The record of a Security state's pending events is that of a stalled transaction: a stall record with its number. -/
def PendEv.isOf (e : PendEv) (q : Sec) (x : Stall) : Bool :=
  e.stag.isSome && x.stag.isSome && x.txn.sec == q && x.serial == e.serial

/-- The stalled transaction of a record is marked as recorded. -/
def State.markRecorded (s : State) (q : Sec) (e : PendEv) : State :=
  { s with stalled := s.stalled.map fun x => if e.isOf q x then { x with recorded := true } else x }

/-- `commit` (R1656), for a writable queue: write the record, move PROD.WR, raise the interrupt of an empty queue; an
abort loses the record and activates EVENTQ_ABT_ERR (R1660). A stall record that is lost is never visible, so its transaction does not
count as recorded (43 R1230 corner case 3). -/
def State.commitEvent (s : State) (q : Sec) (e : PendEv) : State :=
  let i := s.iface q
  let qs := s.eventqs q
  let wasEmpty := qEmpty i.eventqProd i.eventqCons qs
  let pa := s.queueBase i.eventqBase (qs + 5) + 32 * s.eventIndex q
  let lost := s.aborts .eventq q.isNs pa 32
  let (ok, s) := s.drawn.busWrite q .eventq q.isNs pa (leBytes 32 e.ev.toNat) (i.queueAttrs i.eventqBase)
  let s := if lost then s else s.markRecorded q e
  if !ok && s.impl.eventqAbortSync then s.gerrorActivate q .eventqAbt
  else
    let i := s.iface q
    let s := s.setIface q { i with eventqProd := qInc i.eventqProd qs }
    let s := if ok then s else s.gerrorActivate q .eventqAbt
    if wasEmpty then s.eventqIrq q else s

/-- `eventq_overflow` (R1663). -/
def State.eventqOverflow (s : State) (q : Sec) : State :=
  let i := s.iface q
  s.setIface q { i with eventqProd := overflowToggle i.eventqProd i.eventqCons }

/-- While the indexes of the Event queue are inconsistent the SMMU produces an entry or does not, by a draw (20 R459). -/
def State.eventqHolds (s : State) (q : Sec) : Bool × State :=
  if qInconsistent (s.iface q).eventqProd (s.iface q).eventqCons (s.eventqs q) then (bit s.free 511, s.drawn) else (false, s)

/-- `try_deliver` of the n-th pending record (R1653, R1655): written, or, unless it is a stall record, discarded. The step in
which the SMMU produces no entry does nothing (20 R459). -/
def State.deliverEvent (s : State) (q : Sec) (n : Nat) : State :=
  match (s.events q)[n]? with
  | none => s
  | some e =>
    let (holds, s) := s.eventqHolds q
    if holds then s
    else if s.eventqWritable q then (s.setEvents q ((s.events q).eraseIdx n)).commitEvent q e
    else if e.stag.isSome || s.sfm then s
    else
      let s := s.setEvents q ((s.events q).eraseIdx n)
      if s.eventqen q && s.eventqFull q then s.eventqOverflow q else s

/-- Delivery of the pending records, oldest first; a stall record that cannot be written is passed over. `k` bounds the
number of records, `n` is the position reached. -/
def State.deliverFrom (q : Sec) : Nat → Nat → State → State
  | 0, _, s => s
  | k + 1, n, s =>
    let before := (s.events q).length
    let s' := s.deliverEvent q n
    if (s'.events q).length < before then State.deliverFrom q k n s' else State.deliverFrom q k (n + 1) s'

/-- Every pending record is made visible or discarded (43 R1243). -/
def State.flushEvents (s : State) (q : Sec) : State := State.deliverFrom q (s.events q).length 0 s

/-! ### Stalled transactions (60_exceptions.md R1680 to R1691) -/

/-- A use of a STAG is that of a stream and a tag. -/
def StagUse.names (y : StagUse) (sec : Sec) (sid : BitVec 32) (tag : BitVec 16) : Bool := y.sec == sec && y.sid == sid && y.tag == tag

/-- The acknowledgement of a stall record: its STAG may be used again (60 R1681), and the duplicates suppressed behind it
are retried (R1682). -/
def State.ackStag (s : State) (sec : Sec) (sid : BitVec 32) (tag : BitVec 16) : State :=
  let dup := fun y : Stall => y.parent == some tag && y.txn.sec == sec && y.txn.sid == sid
  { s with
    stalled := s.stalled.map fun y => if dup y && y.act.isNone then { y with act := some .retry } else y
    stags := s.stags.filter fun y => !y.names sec sid tag }

/-- What could not be written before a CMD_SYNC completes is dropped (43 R1243, R1244); the transaction of a stall record is
retried when the queue is writable (60 R1665). Where it is withdrawn by then, nothing remains to be acknowledged: its STAG is free,
and the duplicates suppressed behind it are retried (log entry 17, DEDUCED). -/
def State.staleStalls (s : State) (q : Sec) : State :=
  let pend := s.events q
  let s := s.setEvents q []
  let s : State := { s with stalled := s.stalled.map fun x => if !x.recorded && pend.any (fun e => e.isOf q x) then { x with stale := true } else x }
  let gone := s.stags.filter fun y => y.sec == q && pend.any (fun e => e.stag.isSome && e.serial == y.serial) &&
    !s.stalled.any fun x => x.stag.isSome && x.txn.sec == q && x.serial == y.serial
  gone.foldl (fun s y => s.ackStag y.sec y.sid y.tag) s

/-- RETURN from a stall: the transaction at a position is marked with the action software asks for, and its record is
acknowledged (43 R1230, 60 R1681). -/
def State.markStall (s : State) (n : Nat) (a : StallAct) : State :=
  match s.stalled[n]? with
  | none => s
  | some x =>
    let s := { s with stalled := s.stalled.set n { x with act := some a } }
    match x.stag with
    | some t => s.ackStag x.txn.sec x.txn.sid t
    | none => s

/-! ### PMCG events (51_pmcg.md R1406, R1430 to R1434, R1463) -/

/-- The attributes of a counter group's MSI: a group that cannot make a coherent write makes a Non-cacheable one (51 R1434;
log entry 42). -/
def State.pmcgMsiAttrs (s : State) (g : Pmcg) : Attrs :=
  let a := msiAttrs (fld g.irqCfg2 0 4) (fld g.irqCfg2 4 2) g.msiNs
  if a.mt.isCached && a.sh != .nsh && !s.impl.pmcgMsiCoherent then toNonCacheable a else a

/-- The interrupt of a counter group: the wired edge and the MSI wait to be delivered. -/
def State.pmcgIrq (s : State) (n : Nat) (g : Pmcg) : State :=
  let addr := g.irqCfg0 &&& maskOf 64 2 50
  s.pushIrqs ((if g.wired then [.wired (.pmcg n)] else []) ++
    if g.msiImpl && addr != 0 then [.msi (.pmcg n) g.msiNs addr g.irqCfg1 (s.pmcgMsiAttrs g)] else [])

/-- The earlier configurations that still count for a transaction in flight. -/
def State.livePast (s : State) : List PastPmcg := s.pmcgPast.filter fun p => s.inFlight.any fun f => f.txn == p.txn

/-- The configuration of a counter group was `was` until now: it may still count for every transaction that is in flight (51 R1405). -/
def State.keepPast (s : State) (n : Nat) (was : Pmcg) : State :=
  { s with pmcgPast := s.livePast ++ s.inFlight.map fun f => { txn := f.txn, group := n, was := was } }

/-- Counter groups are matched by the earlier configurations `l` too; by none of them once the operation is over. -/
def State.withPast (s : State) (l : List PastPmcg) : State := { s with trail := { s.trail with past := l } }

/-- What is done for a transaction in flight: its events may be matched by the configurations that were changed meanwhile (R1405). -/
def State.doFor (s : State) (t : Txn) (f : State → State) : State :=
  (f (s.withPast (s.pmcgPast.filter fun p => p.txn == t))).withPast []

/-- The group at a position as an event finds it: as it is, or with a configuration that it had when the transaction at hand was in
flight already, by a draw (R1405). -/
def State.pmcgSeen (s : State) (n : Nat) (g : Pmcg) (src : Option (Sec × BitVec 32)) : Pmcg × State :=
  match src.elim [] fun _ => s.trail.past.filter fun p => p.group == n with
  | [] => (g, s)
  | l =>
    match l[(fld s.free 0 64).toNat % (l.length + 1)]? with
    | none => (g, s.drawn)
    | some p => (g.asWas p.was, s.drawn)

/-- `pmu_event` offered to the groups from position `n` on (R1430). -/
def State.pmuFrom (id : Nat) (src : Option (Sec × BitVec 32)) : Nat → Nat → State → State
  | 0, _, s => s
  | k + 1, n, s =>
    match s.pmcgs[n]? with
    | none => s
    | some g =>
      let seen := s.pmcgSeen n g src
      let (g', irq) := seen.1.event s.impl id src
      let g' := g'.asWas g
      let s := seen.2
      let s := { s with pmcgs := s.pmcgs.set n g' }
      State.pmuFrom id src k (n + 1) (if irq then s.pmcgIrq n g' else s)

/-- Whether the event is counted at all while the SMMU is disabled (51 R1404): for a stream, by SMMUEN of its Security state;
without a stream, by both. -/
def State.pmuOn (s : State) : Option (Sec × BitVec 32) → Bool
  | some (sec, _) => s.smmuen sec || s.impl.pmcgCountDisabledSid
  | none => s.smmuen .ns || (s.secureImpl && s.smmuen .s) || s.impl.pmcgCountDisabledAll

/-- `pmu_event` (R1430). -/
def State.pmu (s : State) (id : Nat) (src : Option (Sec × BitVec 32)) : State :=
  if s.pmuOn src then State.pmuFrom id src s.pmcgs.length 0 s else s

end Sys2Proof.Machine
end

