-- ==== Sys2Proof/Machine/Operands.lean ====
section
/-! DEFINITION. The operand forms of the commands (30_encoding.md R1053 to R1059, 41_cmd_tlbi.md R1151 to R1158): Security
state, StreamID and SubstreamID ranges, addresses, reserved fields. -/
namespace Sys2Proof.Machine

/-- `sec(Q, SSec)` (R1053); `none` is SSec == 1 on the Non-secure Command queue, which is ILLEGAL. -/
def cmdSec : Sec → Bool → Option Sec
  | .ns, false => some .ns
  | .ns, true => none
  | .s, false => some .ns
  | .s, true => some .s

/-- `res0_violation(cmd) and P_CMD_RES0_CHECK` (R1055): `res` the RES0 bits the command carries, `v30` those that are RES0
only in SMMUv3.0. -/
def State.res0Ill (s : State) (res v30 : CmdWord) : Bool :=
  s.impl.cmdRes0Check && (res != 0 || (!s.v31 && v30 != 0))

/-- The Security state that the queue of the running command gives an SSec operand. -/
def State.sec (s : State) (ssec : Bool) : Option Sec := cmdSec s.curQ ssec

/-- A StreamID parameter (R1056): in range it is itself; out of range the command has no effect (`none`) or acts on any
value in range, by a draw. -/
def State.sidParam (s : State) (sec : Sec) (sid : BitVec 32) : Option (BitVec 32) × State :=
  if sid.toNat < 2 ^ s.sidSize sec then (some sid, s)
  else if bit s.free 511 then
    (some (BitVec.ofNat 32 ((fld s.free 0 32).toNat % 2 ^ s.sidSize sec)), s.drawn)
  else (none, s.drawn)

/-- A SubstreamID parameter (R1056), likewise. -/
def State.ssidParam (s : State) (ssid : BitVec 20) : Option (BitVec 20) × State :=
  if ssid.toNat < 2 ^ s.ssidSize then (some ssid, s)
  else if bit s.free 511 then
    (some (BitVec.ofNat 20 ((fld s.free 0 20).toNat % 2 ^ s.ssidSize)), s.drawn)
  else (none, s.drawn)

/-- The optional SubstreamID of a command whose SSV may be 1 without substream support: the outer `none` is "no effect"
(R1102, U40), else the SubstreamID used. -/
def State.substreamParam (s : State) (ssv : Bool) (ssid : BitVec 20) : Option (Option (BitVec 20)) × State :=
  if !ssv then (some none, s)
  else if s.ssidSize = 0 then (if bit s.free 511 then (some none, s.drawn) else (none, s.drawn))
  else
    match s.ssidParam ssid with
    | (some x, s) => (some (some x), s)
    | (none, s) => (none, s)

/-- The PASID of an ATS or PRI message (42 R1203, R1204, U43): without PASID support, SSV == 1 is taken as 0 or the command
has no effect (outer `none`). -/
def State.pasidParam (s : State) (ssv : Bool) (ssid : BitVec 20) : Option (Option (BitVec 20)) × State :=
  if !ssv then (some none, s)
  else if s.pasids then
    match s.ssidParam ssid with
    | (some x, s) => (some (some x), s)
    | (none, s) => (none, s)
  else if bit s.free 511 then (some none, s.drawn)
  else (none, s.drawn)

/-- `Address[63:12]` with bits 11 to 0 taken as zero (R1059). -/
def vaOperand (a : BitVec 52) : W64 := place 64 a 12

/-- `Address[51:12]` of an IPA operand, zero extended (R1059, 41 R1170); bits [51:48] are RES0 in SMMUv3.0 and then have no
effect (R1055). -/
def State.ipaOperand (s : State) (a : BitVec 40) : W64 := place 64 (if s.v31 then a else a &&& 0xFFFFFFFFF#40) 12

/-- `MSIAddress[51:2]` of CMD_SYNC with the other bits zero (43 R1240), likewise. -/
def State.msiOperand (s : State) (a : BitVec 50) : W64 := place 64 (if s.v31 then a else a &&& 0x3FFFFFFFFFFF#50) 2

/-- The bits of an address field that SMMUv3.0 reserves: Address[51:48] = cmd[115:112] (R1059). -/
def v30Ipa (a : BitVec 40) : CmdWord := place 128 (fld a 36 4) 112
def v30Msi (a : BitVec 50) : CmdWord := place 128 (fld a 46 4) 112

/-- The StreamIDs of CMD_CFGI_STE_RANGE (40 R1115): the first and the last of the aligned range. -/
def steRange (sid : BitVec 32) (range : BitVec 5) : Nat × Nat :=
  let n := 2 ^ (range.toNat + 1)
  let start := sid.toNat / n * n
  (start, start + n - 1)

/-- The span of CMD_ATC_INV: `Address` with bits 11 + Size to 0 zero (42 R1203). -/
def atcAddress (a : BitVec 52) (size : BitVec 6) : W64 := alignDown (vaOperand a) (12 + size.toNat)

/-- `use_vmid` of R1158: VMID is matched on the Non-secure queue when stage 2 is supported. -/
def State.useVmid (s : State) : Bool := s.curQ == .ns && s.s2p

/-- What becomes of a VMID parameter that is not matched and RES0 (R1158): a non-zero one permits the SMMU to perform no
invalidation, by a draw; with true it is performed (the entries in scope carry no VMID that an UNKNOWN one could miss). -/
def State.vmidRes0 (s : State) (vmid : BitVec 16) : Bool × State :=
  if s.useVmid || vmid = 0 then (true, s) else (bit s.free 511, s.drawn)

/-- SMMUEN of the Security state of the queue that the running command came from (40 R1103). -/
def State.queueSmmuen (s : State) : Bool := s.smmuen s.curQ

/-- CMD_ATC_INV and CMD_PRI_RESP are sent: with SMMU_CR0.SMMUEN == 0 the ATS interface is not operational (11 R219), and SMMUEN
of the command's queue makes them a NOP as well (42 R1203, R1204; log entry 44). -/
def State.portsOn (s : State) : Bool := s.smmuen .ns && s.queueSmmuen

/-- `STALL_MODEL == 0b01` for the queue of the running command (43 R1230): the Stall model is not available. -/
def State.noStall (s : State) : Bool := s.stallModel s.curQ = 1

/-- The effective CR2.E2H is UNPREDICTABLE: CR2 was written and SMMUEN has not become 1 since (11 R232, U42). -/
def State.e2hUnknown (s : State) : Bool := s.e2hWritten && s.hyp

end Sys2Proof.Machine
end

