-- ==== Sys2Proof/Machine/Inval.lean ====
section
/-! DEFINITION. Invalidation of the configuration and translation caches: which entries are in scope, when a pending
invalidation takes effect, broadcast maintenance (27_tlb.md R920 to R934, 40_cmd_prefetch_cfgi.md, 41_cmd_tlbi.md). -/
namespace Sys2Proof.Machine

/-- `id_match` (R931): exact with 16 bits; with 8 bits the low bytes agree and the upper byte of the operand is zero or
ignored. -/
def idMatch (p : Impl) (wide : Bool) (tag v : BitVec 16) : Bool :=
  if wide then tag == v
  else fld tag 0 8 == fld v 0 8 && (fld v 8 8 == 0#8 || p.id8UpperIgnored)

/-- The number of VMID bits that a value of CR0.VMW makes invalidations ignore (R930, 11 R210). -/
def State.vmwBits (s : State) (vmw : BitVec 3) : Nat := if bit s.idr0 17 && decide (vmw.toNat ≤ 4) then vmw.toNat else 0

/-- CR0.VMW in effect. -/
def State.vmw (s : State) : BitVec 3 := fld s.ns.cr0Eff 6 3

/-- `vmid_match` (R930) with a value of VMW. -/
def State.vmidMatch (s : State) (vmw : BitVec 3) (tag v : BitVec 16) : Bool :=
  idMatch s.impl (bit s.idr0 18) (tag >>> s.vmwBits vmw) (v >>> s.vmwBits vmw)

/-- The ASID comparison of an invalidation (R931). -/
def State.asidMatch (s : State) (tag v : BitVec 16) : Bool := idMatch s.impl (bit s.idr0 12) tag v

/-- `va_match` and `ipa_match` (R1155): the address bits below the entry's size are ignored, all others
count: TBI, which may apply to the address of an invalidation, never does (log entry 18, DESIGN CHOICE). -/
def TlbEnt.covers (e : TlbEnt) (a : W64) : Bool := e.base >>> e.log2 == a >>> e.log2

/-- Whether a cached translation is in the required scope of an invalidation, by a value of VMW; with Leaf only entries of the
last level are (R1156). -/
def State.tlbMatchBy (s : State) (vmw : BitVec 3) (p : TlbPred) (e : TlbEnt) : Bool :=
  p.worlds.contains e.world && (!p.leaf || e.last) &&
  (if e.s1.isSome then p.va else p.ipa) &&
  (match p.vmid with
   | none => true
   | some v => match e.vmid with
     | some t => s.vmidMatch vmw t v
     | none => false) &&
  (match p.asid with
   | none => true
   | some (v, withGlobal) =>
     if e.glob then withGlobal
     else match e.asid with
       | some t => s.asidMatch t v
       | none => false) &&
  (match p.addr with
   | none => true
   | some a => e.covers a) &&
  !(p.skipAset && e.aset)

/-- The scope of an invalidation with the VMW in effect when it is carried out, also of one that was pending when VMW changed, of
which the spec guarantees nothing (11 R214; log entry 43, DESIGN CHOICE). -/
def State.tlbMatch (s : State) (p : TlbPred) (e : TlbEnt) : Bool := s.tlbMatchBy s.vmw p e

/-- An entry that is in scope whether the TLB kept the VMW of the entry's making or not (10_state.md R150): it must go. -/
def State.tlbDue (s : State) (p : TlbPred) (e : TlbEnt) : Bool := s.tlbMatch p e && s.tlbMatchBy e.vmw p e

/-- Two ranges of numbers meet. -/
def rangesMeet (lo hi lo' hi' : Nat) : Bool := decide (lo ≤ hi') && decide (lo' ≤ hi)

/-- Whether a cached structure is in the required scope of an invalidation (40 R1114 to R1118). -/
def cfgMatch (i : InvScope) (e : CfgEnt) : Bool :=
  match i with
  | .ste sec lo hi l1 =>
    e.sec == sec &&
    match e.kind with
    | .ste => rangesMeet lo hi e.lo e.hi
    | .l1std => l1 && rangesMeet lo hi e.lo e.hi
    | .cd => decide (lo ≤ e.sid.toNat) && decide (e.sid.toNat ≤ hi)
    | .l1cd => decide (lo ≤ e.sid.toNat) && decide (e.sid.toNat ≤ hi)
  | .cd sec sid idx l1 =>
    e.sec == sec && e.sid == sid &&
    match e.kind with
    | .ste => false
    | .l1std => false
    | .cd => match idx with
      | none => true
      | some x => decide (e.lo ≤ x) && decide (x ≤ e.hi)
    | .l1cd => l1 && match idx with
      | none => true
      | some x => decide (e.lo ≤ x) && decide (x ≤ e.hi)
  | .tlb _ => false
  | .dvmSync _ => false
  | .atc _ => false

/-- Whether what a translation used is in the scope of an invalidation. -/
def State.usesMatch (s : State) (i : InvScope) (cfg : List CfgEnt) (tlb : List TlbEnt) : Bool :=
  cfg.any (cfgMatch i) ||
  match i with
  | .tlb p => tlb.any (s.tlbMatch p)
  | _ => false

/-- A translated transaction that is not yet passed on, and that an invalidation reaches (20_memory.md R480, R485). -/
def State.stopped (s : State) (i : Inval) (f : Flight) : Bool :=
  match f.stage with
  | .ready _ cfg tlb => i.subset.isNone && s.usesMatch i.scope cfg tlb
  | _ => false

/-- A transaction that was passed downstream and not yet answered, and that an invalidation reaches. -/
def State.waitedFor (s : State) (i : Inval) (f : Flight) : Bool :=
  match f.stage with
  | .issued _ cfg tlb => i.subset.isNone && s.usesMatch i.scope cfg tlb
  | _ => false

/-- What an accepted invalidation means for the maintenance of the Stream tables (43 R1233). -/
def Inval.logged (i : Inval) : List SteEvent :=
  match i.origin, i.scope with
  | some q, .ste sec lo hi l1 => [.inval q sec lo hi l1]
  | _, _ => []

/-- An accepted invalidation is remembered; it takes effect at a later step (10_state.md R153, 40 R1112). -/
def State.pend (s : State) (i : InvScope) (subset : Option Nat) : State :=
  let i := { origin := some s.curQ, scope := i, subset := subset, wait := none : Inval }
  { s with pendingInval := s.pendingInval ++ [i], steLog := s.steLog ++ i.logged }

/-- The bit for the i-th of many things that draw number `d` decides; the 513th and later ones take the draws to come. -/
def State.pickBit (s : State) (d i : Nat) : Bool :=
  bit (Config.freeValue (if i < 512 then d else s.draw + i / 512)) (i % 512)

/-- A TLB invalidation takes effect. An entry in scope that may have been kept with another VMW is removed or not, by a draw (10
R150); with a draw in `subset`, any subset of the entries in scope is removed (U42). -/
def State.invalTlb (s : State) (p : TlbPred) (subset : Option Nat) : State :=
  let gone := fun x : TlbEnt × Nat =>
    s.tlbMatch p x.1 && (s.tlbDue p x.1 || s.pickBit s.draw x.2) && subset.all fun d => s.pickBit d x.2
  let draws := (subset.isSome && decide (512 ≤ s.tlb.length)) || s.tlb.any fun e => s.tlbMatch p e && !s.tlbDue p e
  { s with tlb := (s.tlb.zipIdx.filter fun x => !gone x).map Prod.fst
           draw := if draws then s.draw + s.tlb.length / 512 + 1 else s.draw }

/-- A TLB invalidation of a world that SIF concerns makes the SIF of the moment count for every Secure stream: that it does so for
all of them, whatever its scope, is the model's choice (12 R358; log entry 45, DESIGN CHOICE). -/
def State.refreshSif (s : State) (p : TlbPred) : State :=
  if p.worlds.contains .secure || p.worlds.contains .el3 then
    { s with cfgCache := s.cfgCache.map fun e =>
        if e.sec == .s then { e with regs := { e.regs with sif := s.sif } } else e }
  else s

/-- An invalidation takes effect: the entries in its scope are gone, and translated transactions that used one start again. -/
def State.applyInval (s : State) (i : Inval) : State :=
  let s := { s with inFlight := s.inFlight.map fun f => if s.stopped i f then { f with stage := .accepted } else f }
  match i.scope with
  | .tlb p => (s.invalTlb p i.subset).refreshSif p
  | sc => { s with cfgCache := s.cfgCache.filter fun e => !cfgMatch sc e }

/-- An invalidation takes effect if it has not yet: it then waits for the transactions that left with what it removed. -/
def State.beginInval (s : State) (i : Inval) : Inval × State :=
  match i.wait with
  | some _ => (i, s)
  | none => ({ i with wait := some (s.inFlight.filter (s.waitedFor i)) }, s.applyInval i)

/-- Every transaction that an invalidation waits for is answered (20_memory.md R480, R485); the completion of an ATS
invalidation waits for Translated transactions however far they are (42 R1203). -/
def State.drained (s : State) (i : Inval) : Bool :=
  match i.scope with
  | .atc _ => (i.wait.getD []).all fun f => !s.inFlight.any fun g => g.txn == f.txn
  | _ => (i.wait.getD []).all fun f => !s.inFlight.contains f

/-- The SMMU works on the n-th pending invalidation: it takes effect, and completes once no transaction that used what it
removed is under way. A synchronisation completes when no broadcast operation before it is pending (R481). -/
def State.completeInval (s : State) (n : Nat) : State :=
  match s.pendingInval[n]? with
  | none => s
  | some i =>
    match i.scope with
    | .dvmSync id =>
      if (s.pendingInval.take n).any fun j => j.origin.isNone then s
      else ({ s with pendingInval := s.pendingInval.eraseIdx n }).emit (.dvmDone id)
    | _ =>
      let (i, t) := s.beginInval i
      { t with pendingInval := if t.drained i then s.pendingInval.eraseIdx n else s.pendingInval.set n i }

/-- Every invalidation of a Command queue in a list takes effect; those that cannot complete yet stay in it. -/
def State.beginAll (q : Sec) : List Inval → State → List Inval × State
  | [], s => ([], s)
  | i :: is, s =>
    if i.origin == some q then
      let (i, t) := s.beginInval i
      let (is, u) := State.beginAll q is t
      (if t.drained i then is else i :: is, u)
    else
      let (is, u) := State.beginAll q is s
      (i :: is, u)

/-- Every pending invalidation of a Command queue takes effect, and completes if it can (43 R1241). -/
def State.completeInvals (s : State) (q : Sec) : State :=
  let (l, t) := State.beginAll q s.pendingInval s
  { t with pendingInval := l }

/-- A TLB predicate over whole regimes. -/
def TlbPred.all (worlds : List World) (va ipa : Bool) : TlbPred :=
  { worlds := worlds, va := va, ipa := ipa, vmid := none, asid := none, addr := none, leaf := false, skipAset := false }

/-! ### Broadcast TLB maintenance (R925 to R928, R934) -/

/-- The scope of a broadcast operation, that of the command of equal scope (R925). ASET opt-out: operations that match by
ASID, and for the EL2 and EL3 regimes those by VA (R923, R934). -/
def State.bcastPred (s : State) (b : Bcast) : TlbPred :=
  let vmid : Option (BitVec 16) := if s.s2p then some b.vmid else none
  let el1 : List World := match b.sec with
    | .ns => [.nsEL1]
    | .s => [.secure]
  let v := match b.sec with
    | .ns => vmid
    | .s => none
  let p := TlbPred.all el1 true false
  match b.op with
  | .vmalle1 => { p with vmid := v }
  | .aside1 => { p with vmid := v, asid := some (b.asid, false), skipAset := true }
  | .vaae1 => { p with vmid := v, addr := some b.addr, leaf := b.leaf }
  | .vae1 => { p with vmid := v, asid := some (b.asid, true), addr := some b.addr, leaf := b.leaf, skipAset := true }
  | .alle3 => TlbPred.all [.el3] true false
  | .vae3 => { TlbPred.all [.el3] true false with addr := some b.addr, leaf := b.leaf, skipAset := true }
  | .alle2 => TlbPred.all [.el2, .el2E2H] true false
  | .vae2 => { TlbPred.all [.el2] true false with addr := some b.addr, leaf := b.leaf, skipAset := true }
  | .vae1E2h =>
    { TlbPred.all [.el2E2H] true false with asid := some (b.asid, true), addr := some b.addr, leaf := b.leaf, skipAset := true }
  | .vaae1E2h => { TlbPred.all [.el2E2H] true false with addr := some b.addr, leaf := b.leaf }
  | .aside1E2h => { TlbPred.all [.el2E2H] true false with asid := some (b.asid, false), skipAset := true }
  | .ipas2e1 => { TlbPred.all [.nsEL1] false true with vmid := vmid, addr := some b.addr, leaf := b.leaf }
  | .vmalls12e1 => { TlbPred.all [.nsEL1] true true with vmid := vmid }
  | .alle1 => match b.sec with
    | .ns => TlbPred.all [.nsEL1] true true
    | .s => TlbPred.all [.secure] true false

/-- Whether the stage and Security state of a broadcast operation are implemented (R925). -/
def State.bcastLegal (s : State) (b : Bcast) : Bool :=
  (b.sec == .ns || s.secureImpl) &&
  match b.op with
  | .vmalle1 => s.s1p
  | .aside1 => s.s1p
  | .vaae1 => s.s1p
  | .vae1 => s.s1p
  | .alle3 => s.s1p && b.sec == .s
  | .vae3 => s.s1p && b.sec == .s
  | .alle2 => s.s1p && s.hyp && b.sec == .ns
  | .vae2 => s.s1p && s.hyp && b.sec == .ns
  | .vae1E2h => s.s1p && s.hyp && b.sec == .ns
  | .vaae1E2h => s.s1p && s.hyp && b.sec == .ns
  | .aside1E2h => s.s1p && s.hyp && b.sec == .ns
  | .ipas2e1 => s.s2p && b.sec == .ns
  | .vmalls12e1 => b.sec == .ns && (s.s1p || s.s2p)
  | .alle1 => s.s1p || (s.s2p && b.sec == .ns)

/-- `on_broadcast` (R925): ignored without IDR0.BTM or with CR2.PTM of the Security state; else pending like a command's
invalidation, of no queue. -/
def State.onBroadcast (s : State) (b : Bcast) : State :=
  if !bit s.idr0 5 || bit (s.iface b.sec).cr2Eff 2 || !s.bcastLegal b then s
  else { s with pendingInval := s.pendingInval ++ [{ origin := none, scope := .tlb (s.bcastPred b), subset := none, wait := none }] }

/-- The synchronisation of broadcast maintenance (20 R481, R497). -/
def State.onDvmSync (s : State) (id : Nat) : State :=
  if !bit s.idr0 5 then s
  else { s with pendingInval := s.pendingInval ++ [{ origin := none, scope := .dvmSync id, subset := none, wait := none }] }

end Sys2Proof.Machine
end

