-- ==== Sys2Proof/Machine/Ste.lean ====
section
/-! DEFINITION. The Stream Table Entry and the Level 1 Stream Table Descriptor: fields, effective values, StreamWorld and
legality (21_structures_ste.md R556 to R641). -/
namespace Sys2Proof.Machine

/-! ### Identification fields that structures depend on -/

/-- TTF: AArch32 tables, AArch64 tables are supported (11 R200). -/
def State.tt32 (s : State) : Bool := bit s.idr0 2
def State.tt64 (s : State) : Bool := bit s.idr0 3
/-- HTTU: Access flag update, Dirty state update are supported (11 R200). -/
def State.httuAf (s : State) : Bool := fld s.idr0 6 2 != 0
def State.httuDirty (s : State) : Bool := 2 ≤ (fld s.idr0 6 2).toNat
/-- TTENDIAN permits big-endian, little-endian tables (11 R200). -/
def State.endianOk (s : State) (big : Bool) : Bool :=
  !(fld s.idr0 21 2 == 2#2 && big) && !(fld s.idr0 21 2 == 3#2 && !big)
/-- 52-bit virtual addresses are supported, IDR5.VAX (11 R207). -/
def State.vax (s : State) : Bool := s.v31 && fld s.idr5 10 2 == 1#2
/-- HAD, PBHA, XNX of IDR3 (11 R205). -/
def State.hadImpl (s : State) : Bool := bit s.idr3 2
def State.xnx (s : State) : Bool := bit s.idr3 4
/-- Attribute overrides implemented (11 R203). -/
def State.typesOvr (s : State) : Bool := bit s.idr1 27
def State.permsOvr (s : State) : Bool := bit s.idr1 26
/-- EVENTQ, tables and queues preset (11 R203). -/
def State.tablesPreset (s : State) : Bool := bit s.idr1 30
def State.queuesPreset (s : State) : Bool := bit s.idr1 29

/-- log2 of the granule that TG0 or S2TG selects; `none` is the Reserved value (R605, 22 R711). -/
def tg0Log (tg : BitVec 2) : Option Nat := if tg = 0 then some 12 else if tg = 1 then some 16 else if tg = 2 then some 14 else none
/-- log2 of the granule that TG1 selects (22 R717). -/
def tg1Log (tg : BitVec 2) : Option Nat := if tg = 2 then some 12 else if tg = 3 then some 16 else if tg = 1 then some 14 else none

/-- `GRANULE_SUPPORTED` (R641, 11 R207). -/
def State.granSupported (s : State) (g : Option Nat) : Bool :=
  match g with
  | some 12 => bit s.idr5 4
  | some 14 => bit s.idr5 5
  | some 16 => bit s.idr5 6
  | _ => false

/-- The address size a PS or IPS value stands for; 52 bits exist in SMMUv3.1 (R606, 22 R721). -/
def psBits (v31 : Bool) (f : BitVec 3) : Nat :=
  match f.toNat with
  | 0 => 32
  | 1 => 36
  | 2 => 40
  | 3 => 42
  | 4 => 44
  | 5 => 48
  | _ => if v31 then 52 else 48

/-- `ADDR_OUTSIDE_RANGE` (R641). -/
def addrOutside (a : W64) (n : Nat) : Bool := !zeroFrom a n

/-! ### Level 1 Stream Table Descriptor (R556, R557) -/

def l1stdSpan (d : W64) : Nat := (fld d 0 5).toNat
/-- `l1std_lookup_ok` (R557). -/
def l1stdOk (d : W64) (sid : Nat) (split : Nat) : Bool :=
  decide (l1stdSpan d ≠ 0) && decide (l1stdSpan d ≤ 11) && decide (l1stdSpan d ≤ split + 1) &&
    decide (sid % 2 ^ split < 2 ^ (l1stdSpan d - 1))
/-- An address field of a structure from bit `n` up to bit 51; bits 51 to 48, RES0 in SMMUv3.0, are ignored there (R551). -/
def ptrField (v31 : Bool) (n : Nat) (x : W64) : W64 := x &&& maskOf 64 n ((if v31 then 52 else 48) - n)
/-- The level 2 array, aligned to its size (R556). -/
def l1stdPtr (v31 : Bool) (d : W64) : W64 := alignDown (ptrField v31 6 d) (l1stdSpan d + 5)

/-! ### Fields of an STE (R560) -/

namespace Ste

def v (e : StructWord) : Bool := bit e 0
def config (e : StructWord) : BitVec 3 := fld e 1 3
/-- Config[2], Config[1], Config[0]: traffic enabled, stage 2, stage 1 (R566). -/
def enabled (e : StructWord) : Bool := bit e 3
def cfgS2 (e : StructWord) : Bool := bit e 2
def cfgS1 (e : StructWord) : Bool := bit e 1
def s1fmt (e : StructWord) : BitVec 2 := fld e 4 2
/-- S1ContextPtr as an address (R568). -/
def s1ptr (v31 : Bool) (e : StructWord) : W64 := ptrField v31 6 (fld e 0 64)
def s1cdmax (e : StructWord) : Nat := (fld e 59 5).toNat
def s1dss (e : StructWord) : BitVec 2 := fld e 64 2
def s1cir (e : StructWord) : BitVec 2 := fld e 66 2
def s1cor (e : StructWord) : BitVec 2 := fld e 68 2
def s1csh (e : StructWord) : BitVec 2 := fld e 70 2
def dre (e : StructWord) : Bool := bit e 76
def cont (e : StructWord) : Nat := (fld e 77 4).toNat
def dcp (e : StructWord) : Bool := bit e 81
def ppar (e : StructWord) : Bool := bit e 82
def mev (e : StructWord) : Bool := bit e 83
def s1stalld (e : StructWord) : Bool := bit e 91
def eats (e : StructWord) : BitVec 2 := fld e 92 2
def strw (e : StructWord) : BitVec 2 := fld e 94 2
/-- The override fields (R590 to R596). -/
def overrides (e : StructWord) : Overrides :=
  { mtcfg := bit e 100, memattr := fld e 96 4, shcfg := fld e 108 2, alloccfg := fld e 101 4, instcfg := fld e 114 2,
    privcfg := fld e 112 2, nscfg := fld e 110 2 }
def s2vmid (e : StructWord) : BitVec 16 := fld e 128 16
def s2t0sz (e : StructWord) : BitVec 6 := fld e 160 6
def s2sl0 (e : StructWord) : BitVec 2 := fld e 166 2
def s2ir0 (e : StructWord) : BitVec 2 := fld e 168 2
def s2or0 (e : StructWord) : BitVec 2 := fld e 170 2
def s2sh0 (e : StructWord) : BitVec 2 := fld e 172 2
def s2tg (e : StructWord) : BitVec 2 := fld e 174 2
def s2ps (e : StructWord) : BitVec 3 := fld e 176 3
def s2aa64 (e : StructWord) : Bool := bit e 179
def s2endi (e : StructWord) : Bool := bit e 180
def s2affd (e : StructWord) : Bool := bit e 181
def s2ptw (e : StructWord) : Bool := bit e 182
def s2hd (e : StructWord) : Bool := bit e 183
def s2ha (e : StructWord) : Bool := bit e 184
def s2s (e : StructWord) : Bool := bit e 185
def s2r (e : StructWord) : Bool := bit e 186
/-- S2TTB as an address (R613). -/
def s2ttb (v31 : Bool) (e : StructWord) : W64 := ptrField v31 4 (fld e 192 64)

/-- The bits no rule gives a meaning (R551, R560); `v30` adds those reserved in SMMUv3.0. -/
def res0 (v31 : Bool) : StructWord :=
  maskOf 512 52 7 ||| maskOf 512 88 3 ||| maskOf 512 105 3 ||| maskOf 512 187 9 ||| maskOf 512 244 12 ||| maskOf 512 272 240 |||
    (if v31 then 0 else maskOf 512 48 4 ||| maskOf 512 72 5 ||| maskOf 512 81 1 ||| maskOf 512 240 4)

/-- The fixed granule of an AArch32 stage 2 is 4KB (R605). -/
def s2gran (e : StructWord) : Option Nat := if s2aa64 e then tg0Log (s2tg e) else some 12

end Ste

/-- The effective stage 2 output size in bits (R606). -/
def State.s2psEff (s : State) (e : StructWord) : Nat :=
  if Ste.s2aa64 e then min (psBits s.v31 (Ste.s2ps e)) s.oas else 40

/-- The permitted range of S2T0SZ (R601). -/
def State.s2t0szMin (s : State) (e : StructWord) : Nat :=
  if s.v31 && Ste.s2tg e != 1 then max 16 (64 - s.ias) else 64 - s.ias

/-- The IPA input size in bits, with the clamping an SMMUv3.0 may do (R601). -/
def State.s2InputSize (s : State) (e : StructWord) : Nat :=
  if Ste.s2aa64 e then 64 - min 39 (max (s.s2t0szMin e) (Ste.s2t0sz e).toNat)
  else (32 - (BitVec.toInt (fld (Ste.s2t0sz e) 0 4))).toNat

/-- `S2T0SZ_OUTSIDE_VALID_RANGE` (R641). -/
def State.s2t0szBad (s : State) (e : StructWord) : Bool :=
  Ste.s2aa64 e && (decide (39 < (Ste.s2t0sz e).toNat) || decide ((Ste.s2t0sz e).toNat < s.s2t0szMin e))

/-- The starting level of stage 2; `none` is a Reserved S2SL0 (R602, R641). -/
def s2StartLevel (e : StructWord) : Option Nat :=
  let sl := (Ste.s2sl0 e).toNat
  if Ste.s2aa64 e then
    (if sl = 3 then none
     else if Ste.s2tg e = 0 then some (2 - sl) else some (3 - sl))
  else if sl ≥ 2 then none else some (2 - sl)

/-- `startsizecheck` (R641): log2 of the number of entries of the starting table, as an integer. -/
def startSize (inputsize level gran : Nat) : Int := (inputsize : Int) - ((3 - level) * (gran - 3) + gran : Nat)

/-- `WALK_CONFIG_CONSISTENT` (R641), of the programmed S2T0SZ. -/
def State.s2WalkOk (s : State) (e : StructWord) : Bool :=
  match s2StartLevel e, Ste.s2gran e with
  | some level, some g =>
    let insize := if Ste.s2aa64 e then 64 - (Ste.s2t0sz e).toNat else s.s2InputSize e
    let c := startSize insize level g
    decide (1 ≤ c) && decide (c ≤ (g - 3 + 4 : Nat)) &&
      !(level == 0 && (decide (s.oas < 44) || g != 12))
  | _, _ => false

/-- The effective value of STALL_MODEL for a Security state, R640; without Secure support IDR0's own (92 D30). -/
def State.stallModelOf (s : State) (sec : Sec) : BitVec 2 := s.stallModel sec

/-- `STRW_UNUSED` (R640). -/
def State.strwUnused (s : State) (sec : Sec) (e : StructWord) : Bool :=
  !s.s1p || (sec == .ns && !s.hyp) || Ste.cfgS2 e || (!Ste.cfgS2 e && !Ste.cfgS1 e)

/-- The effective E2H: the value in effect since SMMUEN last completed its Update to 1 (11 R232). -/
def State.e2h (s : State) : Bool := bit s.ns.cr2Eff 0

/-- E2H was written since then with another value: its effect is that of the old or of the new one (11 R232, U42). -/
def State.e2hOpen (s : State) : Bool := s.e2hWritten && bit s.ns.cr2 0 != bit s.ns.cr2Eff 0

/-- StreamWorld (R582); `none` is no translation or a Reserved STRW. -/
def State.streamWorld (s : State) (sec : Sec) (e : StructWord) : Option World :=
  if !Ste.enabled e || (!Ste.cfgS2 e && !Ste.cfgS1 e) then none
  else match sec with
    | .s =>
      if !s.s1p || Ste.strw e = 0 then some .secure
      else if Ste.strw e = 1 then some .el3 else none
    | .ns =>
      if Ste.cfgS2 e || !s.s1p || !s.hyp || Ste.strw e = 0 then some .nsEL1
      else if Ste.strw e = 2 then (if s.e2h then some .el2E2H else some .el2)
      else none

/-- Substreams are enabled by an STE (23 R820). -/
def State.subEnabled (s : State) (e : StructWord) : Bool :=
  Ste.cfgS1 e && decide (s.ssidSize ≠ 0) && decide (Ste.s1cdmax e ≠ 0)

/-- `CONSTR_UNPRED_CHECK_PTR_SIZE_FAIL` (R641): an S1ContextPtr outside the IAS when stage 2 translates, else outside the OAS,
makes the STE ILLEGAL where P_S1CTXPTR_OOR_ILLEGAL says so; else the fetch decides (20_memory.md R470 cases 1 and 2). -/
def State.s1ptrFail (s : State) (e : StructWord) : Bool :=
  s.impl.s1CtxPtrOorIllegal && addrOutside (Ste.s1ptr s.v31 e) (if Ste.cfgS2 e then s.ias else s.oas)

/-- The fields that an STE IGNOREs for want of a stage: those with an S1 prefix where stage 1 bypasses, those with an S2 prefix but
S2VMID where stage 2 does (R561, R620). -/
def Ste.ignored (e : StructWord) : StructWord :=
  (if Ste.cfgS1 e then 0 else maskOf 512 4 48 ||| maskOf 512 59 13 ||| maskOf 512 91 1) |||
  (if Ste.cfgS2 e then 0 else maskOf 512 72 4 ||| maskOf 512 160 27 ||| maskOf 512 196 48)

/-- The RES0 bits of an STE with those that are RES0 for want of a feature or under the value of another field (R576, R579 to R581,
R590 to R596, R601 to R613). The low bits of a pointer that the SMMU takes to be zero (R567, R613) are not among them (log entry 45,
DEDUCED: their rules say what a non-zero value does). A field that the STE IGNOREs makes it ILLEGAL in no case
(00_scope.md R31), nor does EATS without ATS or a stage that translates (R580). STRW is IGNORED only where it is not RES0 already (R581). -/
def State.steRes0 (s : State) (sec : Sec) (e : StructWord) : StructWord :=
  let gate := fun (c : Bool) (m : StructWord) => if c then m else 0
  let bypass := Ste.config e == 4#3
  (Ste.res0 s.v31 |||
    gate (!s.pri || decide (s.ssidSize = 0)) (maskOf 512 82 1) |||
    gate (!s.s1p) (maskOf 512 91 1) |||
    gate (sec == .s && s.ats && (Ste.cfgS1 e || Ste.cfgS2 e)) (maskOf 512 92 2) |||
    gate (!s.s1p || (sec == .ns && !s.hyp)) (maskOf 512 94 2) |||
    gate (!s.typesOvr) (maskOf 512 96 9 ||| maskOf 512 108 2) |||
    gate (!bit e 100) (maskOf 512 96 4) |||
    gate (!s.permsOvr) (maskOf 512 112 4) |||
    gate (!s.permsOvr && sec == .s && bypass) (maskOf 512 110 2) |||
    gate (!s.s2p) (maskOf 512 160 27 ||| maskOf 512 196 48) |||
    gate (!Ste.s2aa64 e) (maskOf 512 174 2)) &&& ~~~Ste.ignored e

/-- `STE_ILLEGAL` but for `!STE.V` (R640, with the 48-bit rule of R613 and the RES0 check of R551). -/
def State.steIllegal (s : State) (sec : Sec) (e : StructWord) : Bool :=
  let s1 := Ste.cfgS1 e
  let s2 := Ste.cfgS2 e
  let sm := s.stallModelOf .ns
  let secure := sec == .s
  Ste.enabled e &&
  ((!s.s1p && s1) ||
   (!s.s2p && s2) ||
   (s.s2p && s2 && secure) ||
   (decide (s.ssidSize ≠ 0) && decide (Ste.s1cdmax e ≠ 0) && s1 && !bit s.idr0 19 &&
     (Ste.s1fmt e == 1#2 || Ste.s1fmt e == 2#2)) ||
   (!secure && s.ats && (s1 || s2) &&
     ((Ste.eats e == 2#2 && (!(s1 && s2) || Ste.s2s e || bit s.idr0 11)) ||
      (Ste.eats e == 1#2 && Ste.s2s e && (s2 || (!s.v31 && s.impl.eatsS2sIllegal))))) ||
   (!secure && !s.strwUnused sec e && (Ste.strw e == 1#2 || Ste.strw e == 3#2)) ||
   (secure && !s.strwUnused sec e && (Ste.strw e == 2#2 || Ste.strw e == 3#2)) ||
   (s1 &&
     ((Ste.s1stalld e && s.stallModelOf sec != 0) ||
      (decide (s.ssidSize ≠ 0) && decide (s.ssidSize < Ste.s1cdmax e)) ||
      s.s1ptrFail e)) ||
   (s2 &&
     ((sm == 1#2 && Ste.s2s e) ||
      (sm == 2#2 && !Ste.s2s e) ||
      (Ste.s2aa64 e && !s.granSupported (tg0Log (Ste.s2tg e))) ||
      (!Ste.s2aa64 e && !s.tt32) ||
      (Ste.s2aa64 e && !s.tt64) ||
      ((Ste.s2ha e || Ste.s2hd e) && !Ste.s2aa64 e) ||
      ((Ste.s2ha e || Ste.s2hd e) && !s.httuAf) ||
      (Ste.s2hd e && !s.httuDirty) ||
      addrOutside (Ste.s2ttb s.v31 e) (min (s.s2psEff e) (if Ste.s2gran e == some 16 then 52 else 48)) ||
      (s.s2t0szBad e && (s.v31 || s.impl.s2t0szOorIllegal)) ||
      !s.s2WalkOk e ||
      !s.endianOk (Ste.s2endi e))) ||
   (s.s2p && (s1 || s2) && !secure && (s.strwUnused sec e || Ste.strw e == 0) && !bit s.idr0 18 &&
     fld (Ste.s2vmid e) 8 8 != 0) ||
   (s.impl.structRes0Check && (e &&& s.steRes0 sec e) != 0))

/-! ### The Stream table (23_translation.md R813 to R815, 13_registers_queues.md R280, R282) -/

/-- The format is 2-level (R282); Reserved values behave as linear. -/
def State.strtab2 (s : State) (sec : Sec) : Bool := fld (s.iface sec).strtabCfg 16 2 == 1#2 && fld s.idr0 27 2 == 1#2
/-- The effective split point (R282). -/
def State.strtabSplit (s : State) (sec : Sec) : Nat :=
  let v := (fld (s.iface sec).strtabCfg 6 5).toNat
  if v = 8 ∨ v = 10 then v else 6
/-- The literal LOG2SIZE (R282). -/
def State.strtabLog2 (s : State) (sec : Sec) : Nat := (fld (s.iface sec).strtabCfg 0 6).toNat
/-- `sid_in_range` (23 R813). -/
def State.sidInRange (s : State) (sec : Sec) (sid : BitVec 32) : Bool :=
  decide (sid.toNat < 2 ^ min (s.strtabLog2 sec) (s.sidSize sec))
/-- `strtab_effective_base` (R280); a relative preset counts from Page 0 (20 R492). -/
def State.strtabBase (s : State) (sec : Sec) : W64 :=
  let a := (s.iface sec).strtabBase &&& maskOf 64 6 46
  let rel := if bit s.idr1 28 && s.tablesPreset then s.impl.page0Base else 0
  rel + (if s.strtab2 sec then alignDown a (max 6 (s.strtabLog2 sec + 3 - s.strtabSplit sec))
    else alignDown a (s.strtabLog2 sec + 6))

/-- What memory holds at an address of the Stream table, with no side effect. -/
def State.peek (s : State) (sec : Sec) (a : W64) (n : Nat) : Nat := leNat (s.load sec.isNs (truncTo a s.oas).toNat n)

/-- Where a descriptor of the Stream table locates the STE of a stream. -/
def State.steOfL1 (s : State) (sec : Sec) (sid : BitVec 32) (d : W64) : Option W64 :=
  let split := s.strtabSplit sec
  if l1stdOk d sid.toNat split then some (l1stdPtr s.v31 d + BitVec.ofNat 64 (64 * (sid.toNat % 2 ^ split))) else none

/-- Where the descriptor of a stream is in a 2-level Stream table. -/
def State.l1stdAddr (s : State) (sec : Sec) (sid : BitVec 32) : W64 :=
  s.strtabBase sec + BitVec.ofNat 64 (8 * (sid.toNat / 2 ^ s.strtabSplit sec))

/-- Where the Stream table in memory has the STE of a stream: `none` where it locates none (43 R1233). -/
def State.steAddr (s : State) (sec : Sec) (sid : BitVec 32) : Option W64 :=
  if !s.sidInRange sec sid then none
  else if s.strtab2 sec then s.steOfL1 sec sid (BitVec.ofNat 64 (s.peek sec (s.l1stdAddr sec sid) 8))
  else some (s.strtabBase sec + BitVec.ofNat 64 (64 * sid.toNat))

/-- An STE that terminates every new transaction: absent, invalid, ILLEGAL or with traffic disabled (R565, R566). -/
def State.steTerminates (s : State) (sec : Sec) : Option StructWord → Bool
  | none => true
  | some e => !Ste.v e || !Ste.enabled e || s.steIllegal sec e

/-- What memory has at the address of an STE, if there is one, terminates every new transaction. -/
def State.addrTerminates (s : State) (sec : Sec) (a : Option W64) : Bool :=
  s.steTerminates sec (a.map fun a => BitVec.ofNat 512 (s.peek sec a 64))

/-- The maintenance for the last update of `n` bytes of a Stream table at `base`, which concern a stream, after one more event:
`none` where it is done; else the Command queues whose invalidation of it waits for its CMD_SYNC. With `l1` the bytes are
a descriptor of the table, which an invalidation of the STE alone does not reach (40 R1114). -/
def SteEvent.after (sec : Sec) (sid base n : Nat) (l1 : Bool) : Option (List Sec) → SteEvent → Option (List Sec)
  | u, .wrote ns pa k => if ns == sec.isNs && inRange base n (pa % 2 ^ 52) k then some [] else u
  | u, .moved q => if q == sec then some [] else u
  | u, .inval o q lo hi b =>
    if q == sec && decide (lo ≤ sid) && decide (sid ≤ hi) && (b || !l1) then u.map fun l => o :: l else u
  | u, .synced o => u.filter fun l => !l.contains o
  | _, .cleared => none

/-- The maintenance for every update so far of `n` bytes of a Stream table at an address is done (43 R1233). -/
def State.maintained (s : State) (sec : Sec) (sid : BitVec 32) (a : W64) (n : Nat) (l1 : Bool) : Bool :=
  (s.steLog.foldl (SteEvent.after sec sid.toNat (truncTo a s.oas).toNat n l1) none).isNone

/-- The maintenance for the last update of what the Stream table holds for a stream is done: of the STE, and of the descriptor that
locates it. For a stream that the table does not reach, only placing the table anew is an update. -/
def State.steMaintained (s : State) (sec : Sec) (sid : BitVec 32) : Bool :=
  (if s.sidInRange sec sid && s.strtab2 sec then s.maintained sec sid (s.l1stdAddr sec sid) 8 true else true) &&
    match s.steAddr sec sid with
    | some a => s.maintained sec sid a 64 false
    | none => s.maintained sec sid 0 0 true

/-- The precondition of CMD_STALL_TERM (43 R1233; log entry 46, DESIGN CHOICE): with the SMMU enabled, what the Stream table holds for the stream terminates every
new transaction, the maintenance for that update is done, and nothing is cached for the stream that terminates none: no STE,
and no descriptor that locates another STE. -/
def State.streamTerminates (s : State) (sec : Sec) (sid : BitVec 32) : Bool :=
  s.smmuen sec && s.addrTerminates sec (s.steAddr sec sid) && s.steMaintained sec sid &&
    s.cfgCache.all fun c =>
      !(c.sec == sec && decide (c.lo ≤ sid.toNat) && decide (sid.toNat ≤ c.hi)) ||
        match c.kind with
        | .ste => s.steTerminates sec (some c.data)
        | .l1std => s.addrTerminates sec (s.steOfL1 sec sid (fld c.data 0 64))
        | .cd => true
        | .l1cd => true

end Sys2Proof.Machine
end

