-- ==== Sys2Proof/Machine/Prefetch.lean ====
section
/-! DEFINITION. The meanings of CMD_PREFETCH_CONFIG and CMD_PREFETCH_ADDR (40_cmd_prefetch_cfgi.md R1100 to R1106). A
prefetch is a request that the SMMU may carry out, in part or not at all, at later steps. -/
namespace Sys2Proof.Machine

/-- A command that completes: its effect, then its Consumption (30_encoding.md R1061). -/
def done (s : State) : Host.Outcome State Fault Refusal := .next s.consume

/-- A command that is ILLEGAL (30_encoding.md R1062). -/
def ill (s : State) : Host.Outcome State Fault Refusal := .next (s.cmdError .ill)

/-- A command that waits: nothing is Consumed. -/
def waits (s : State) : Host.Outcome State Fault Refusal := .next s

/-- The SMMU accepts a prefetch request (R1104). -/
def State.request (s : State) (p : Prefetch) : State := { s with prefetches := s.prefetches ++ [p] }

/-- A valid prefetch command: nothing with SMMUEN == 0 (R1103), else a request for the stream (R1102, R1056). -/
def State.prefetchCmd (s : State) (sec : Sec) (ssv : Bool) (ssid : BitVec 20) (sid : BitVec 32)
    (addr : Option (W64 × Nat × Nat)) : State :=
  if !s.queueSmmuen then s
  else
    match s.sidParam sec sid with
    | (none, s) => s
    | (some sid, s) =>
      match s.substreamParam ssv ssid with
      | (none, s) => s
      | (some sub, s) => s.request { sec := sec, sid := sid, ssid := sub, addr := addr }

/-- CMD_PREFETCH_CONFIG (R1105). -/
def execPrefetchConfig (ssec ssv : Bool) (ssid : BitVec 20) (sid : BitVec 32) (res : CmdWord) (s : State) :
    Host.Outcome State Fault Refusal :=
  match s.sec ssec with
  | none => ill s
  | some sec =>
    if s.res0Ill res 0 then ill s
    else done (s.prefetchCmd sec ssv ssid sid none)

/-- CMD_PREFETCH_ADDR (R1106). In SMMUv3.0 Stride is RES0: a non-zero one is ILLEGAL or taken as 0. -/
def execPrefetchAddr (ssec ssv : Bool) (ssid : BitVec 20) (sid : BitVec 32) (size stride : BitVec 5) (addr : BitVec 52)
    (res : CmdWord) (s : State) : Host.Outcome State Fault Refusal :=
  match s.sec ssec with
  | none => ill s
  | some sec =>
    if !s.v31 && stride != 0 && s.impl.v30StrideIll then ill s
    else if s.res0Ill res 0 then ill s
    else
      let stride := if s.v31 then stride.toNat else 0
      done (s.prefetchCmd sec ssv ssid sid (some (vaOperand addr, size.toNat, stride)))

end Sys2Proof.Machine
end

