-- ==== Sys2Proof/Machine/Cfgi.lean ====
section
/-! DEFINITION. The meanings of the configuration invalidation commands (40_cmd_prefetch_cfgi.md R1107 to R1118). -/
namespace Sys2Proof.Machine

/-- CMD_CFGI_STE (R1114): the STE, every CD and L1CD of the stream, and with Leaf == 0 the L1STD that locates it. -/
def execCfgiSte (ssec : Bool) (sid : BitVec 32) (leaf : Bool) (res : CmdWord) (s : State) : Host.Outcome State Fault Refusal :=
  match s.sec ssec with
  | none => ill s
  | some sec =>
    if s.res0Ill res 0 then ill s
    else
      match s.sidParam sec sid with
      | (none, s) => done s
      | (some sid, s) => done (s.pend (.ste sec sid.toNat sid.toNat (!leaf)) none)

/-- CMD_CFGI_STE_RANGE (R1115): the aligned range of 2^(Range+1) StreamIDs. Only the bits that select the range are an
operand, so only they can be out of range (R1056). -/
def execCfgiSteRange (ssec : Bool) (sid : BitVec 32) (range : BitVec 5) (res : CmdWord) (s : State) :
    Host.Outcome State Fault Refusal :=
  match s.sec ssec with
  | none => ill s
  | some sec =>
    if s.res0Ill res 0 then ill s
    else
      match s.sidParam sec (BitVec.ofNat 32 (steRange sid range).1) with
      | (none, s) => done s
      | (some sid, s) => done (s.pend (.ste sec (steRange sid range).1 (steRange sid range).2 true) none)

/-- CMD_CFGI_ALL (R1118): CMD_CFGI_STE_RANGE with Range == 31; StreamID is IGNORED. -/
def execCfgiAll (ssec : Bool) (_sid : BitVec 32) (res : CmdWord) (s : State) : Host.Outcome State Fault Refusal :=
  match s.sec ssec with
  | none => ill s
  | some sec =>
    if s.res0Ill res 0 then ill s
    else done (s.pend (.ste sec 0 (2 ^ 32 - 1) true) none)

/-- CMD_CFGI_CD (R1116): the CD at the index SubstreamID of the stream, and with Leaf == 0 the L1CD that locates it. -/
def execCfgiCd (ssec : Bool) (ssid : BitVec 20) (sid : BitVec 32) (leaf : Bool) (res : CmdWord) (s : State) :
    Host.Outcome State Fault Refusal :=
  if !s.s1p then ill s
  else
    match s.sec ssec with
    | none => ill s
    | some sec =>
      if s.res0Ill res 0 then ill s
      else
        match s.sidParam sec sid with
        | (none, s) => done s
        | (some sid, s) =>
          match s.ssidParam ssid with
          | (none, s) => done s
          | (some x, s) => done (s.pend (.cd sec sid (some x.toNat) (!leaf)) none)

/-- CMD_CFGI_CD_ALL (R1117): every CD and L1CD of the stream. -/
def execCfgiCdAll (ssec : Bool) (sid : BitVec 32) (res : CmdWord) (s : State) : Host.Outcome State Fault Refusal :=
  if !s.s1p then ill s
  else
    match s.sec ssec with
    | none => ill s
    | some sec =>
      if s.res0Ill res 0 then ill s
      else
        match s.sidParam sec sid with
        | (none, s) => done s
        | (some sid, s) => done (s.pend (.cd sec sid none true) none)

end Sys2Proof.Machine
end

