-- ==== Sys2Proof/Machine/Tlbi.lean ====
section
/-! DEFINITION. The meanings of the TLB invalidation commands (41_cmd_tlbi.md R1150 to R1172). -/
namespace Sys2Proof.Machine

/-- The world whose stage 1 entries CMD_TLBI_NH_* act on, by queue (R1157). -/
def State.nhWorld (s : State) : World :=
  match s.curQ with
  | .ns => .nsEL1
  | .s => .secure

/-- The predicate of a CMD_TLBI_NH_* command (R1158). -/
def State.nhPred (s : State) (vmid : BitVec 16) (asid : Option (BitVec 16 × Bool)) (addr : Option W64) (leaf : Bool) : TlbPred :=
  { worlds := [s.nhWorld], va := true, ipa := false, vmid := if s.useVmid then some vmid else none, asid := asid,
    addr := addr, leaf := leaf, skipAset := false }

/-- A CMD_TLBI_NH_* command: legal with stage 1 only (R1157); a VMID that is RES0 and non-zero permits no effect (R1158). -/
def nhCmd (vmid : BitVec 16) (asid : Option (BitVec 16 × Bool)) (addr : Option W64) (leaf : Bool) (res : CmdWord) (s : State) :
    Host.Outcome State Fault Refusal :=
  if !s.s1p then ill s
  else if s.res0Ill res 0 then ill s
  else
    match s.vmidRes0 vmid with
    | (false, s) => done s
    | (true, s) => done (s.pend (.tlb (s.nhPred vmid asid addr leaf)) none)

/-- CMD_TLBI_NH_ALL (R1160). -/
def execTlbiNhAll (vmid : BitVec 16) (res : CmdWord) (s : State) : Host.Outcome State Fault Refusal :=
  nhCmd vmid none none false res s

/-- CMD_TLBI_NH_ASID (R1161): non-global entries of the ASID. -/
def execTlbiNhAsid (vmid asid : BitVec 16) (res : CmdWord) (s : State) : Host.Outcome State Fault Refusal :=
  nhCmd vmid (some (asid, false)) none false res s

/-- CMD_TLBI_NH_VA (R1163): by address and ASID, global entries included. -/
def execTlbiNhVa (vmid asid : BitVec 16) (leaf : Bool) (addr : BitVec 52) (res : CmdWord) (s : State) :
    Host.Outcome State Fault Refusal :=
  nhCmd vmid (some (asid, true)) (some (vaOperand addr)) leaf res s

/-- CMD_TLBI_NH_VAA (R1162): by address, every ASID. -/
def execTlbiNhVaa (vmid : BitVec 16) (leaf : Bool) (addr : BitVec 52) (res : CmdWord) (s : State) :
    Host.Outcome State Fault Refusal :=
  nhCmd vmid none (some (vaOperand addr)) leaf res s

/-- CMD_TLBI_EL3_ALL (R1164): only on the Secure Command queue. -/
def execTlbiEl3All (res : CmdWord) (s : State) : Host.Outcome State Fault Refusal :=
  if s.curQ == .ns || !s.s1p then ill s
  else if s.res0Ill res 0 then ill s
  else done (s.pend (.tlb (TlbPred.all [.el3] true false)) none)

/-- CMD_TLBI_EL3_VA (R1165). -/
def execTlbiEl3Va (leaf : Bool) (addr : BitVec 52) (res : CmdWord) (s : State) : Host.Outcome State Fault Refusal :=
  if s.curQ == .ns || !s.s1p then ill s
  else if s.res0Ill res 0 then ill s
  else done (s.pend (.tlb { TlbPred.all [.el3] true false with addr := some (vaOperand addr), leaf := leaf }) none)

/-- CMD_TLBI_EL2_ALL (R1166): EL2 and EL2-E2H entries, whatever E2H is. -/
def execTlbiEl2All (res : CmdWord) (s : State) : Host.Outcome State Fault Refusal :=
  if !s.s1p || !s.hyp then ill s
  else if s.res0Ill res 0 then ill s
  else done (s.pend (.tlb (TlbPred.all [.el2, .el2E2H] true false)) none)

/-- CMD_TLBI_EL2_ASID (R1169): non-global EL2-E2H entries of the ASID; while E2H is UNKNOWN any subset of them (11 R232, U42). -/
def execTlbiEl2Asid (asid : BitVec 16) (res : CmdWord) (s : State) : Host.Outcome State Fault Refusal :=
  if !s.s1p || !s.hyp then ill s
  else if s.res0Ill res 0 then ill s
  else
    let p : TlbPred := { TlbPred.all [.el2E2H] true false with asid := some (asid, false) }
    if s.e2hUnknown then done (s.drawn.pend (.tlb p) (some s.draw)) else done (s.pend (.tlb p) none)

/-- The EL2 entries that a by-address command acts on (R1167, R1168): those of the regime that CR2.E2H selects; while E2H
is UNKNOWN any subset of those of both regimes (U42). -/
def State.el2Va (s : State) (asid : Option (BitVec 16 × Bool)) (leaf : Bool) (addr : BitVec 52) : State :=
  let el2 : TlbPred := { TlbPred.all [.el2] true false with addr := some (vaOperand addr), leaf := leaf }
  let e2h : TlbPred := { TlbPred.all [.el2E2H] true false with asid := asid, addr := some (vaOperand addr), leaf := leaf }
  if s.e2hUnknown then (s.drawn.drawn.pend (.tlb el2) (some s.draw)).pend (.tlb e2h) (some (s.draw + 1))
  else if s.e2h then s.pend (.tlb e2h) none
  else s.pend (.tlb el2) none

/-- CMD_TLBI_EL2_VA (R1167). -/
def execTlbiEl2Va (asid : BitVec 16) (leaf : Bool) (addr : BitVec 52) (res : CmdWord) (s : State) :
    Host.Outcome State Fault Refusal :=
  if !s.s1p || !s.hyp then ill s
  else if s.res0Ill res 0 then ill s
  else done (s.el2Va (some (asid, true)) leaf addr)

/-- CMD_TLBI_EL2_VAA (R1168). -/
def execTlbiEl2Vaa (leaf : Bool) (addr : BitVec 52) (res : CmdWord) (s : State) : Host.Outcome State Fault Refusal :=
  if !s.s1p || !s.hyp then ill s
  else if s.res0Ill res 0 then ill s
  else done (s.el2Va none leaf addr)

/-- CMD_TLBI_S12_VMALL (R1171): every NS-EL1 entry of the VMID, at every stage. -/
def execTlbiS12Vmall (vmid : BitVec 16) (res : CmdWord) (s : State) : Host.Outcome State Fault Refusal :=
  if !s.s2p then ill s
  else if s.res0Ill res 0 then ill s
  else done (s.pend (.tlb { TlbPred.all [.nsEL1] true true with vmid := some vmid }) none)

/-- CMD_TLBI_S2_IPA (R1170): NS-EL1 entries indexed by IPA. -/
def execTlbiS2Ipa (vmid : BitVec 16) (leaf : Bool) (addr : BitVec 40) (res : CmdWord) (s : State) :
    Host.Outcome State Fault Refusal :=
  if !s.s2p then ill s
  else if s.res0Ill res (v30Ipa addr) then ill s
  else
    done (s.pend (.tlb { TlbPred.all [.nsEL1] false true with vmid := some vmid, addr := some (s.ipaOperand addr), leaf := leaf }) none)

/-- CMD_TLBI_NSNH_ALL (R1172): every NS-EL1 entry; no feature makes it ILLEGAL. -/
def execTlbiNsnhAll (res : CmdWord) (s : State) : Host.Outcome State Fault Refusal :=
  if s.res0Ill res 0 then ill s
  else done (s.pend (.tlb (TlbPred.all [.nsEL1] true true)) none)

end Sys2Proof.Machine
end

