-- ==== Sys2Proof/Machine/AtsPri.lean ====
section
/-! DEFINITION. The meanings of CMD_ATC_INV and CMD_PRI_RESP (42_cmd_ats_pri.md R1200 to R1204). -/
namespace Sys2Proof.Machine

/-- The outstanding Invalidate Requests of a Command queue (10_state.md R155). -/
def State.atc (s : State) : Sec → List AtcReq
  | .ns => s.atcNs
  | .s => s.atcS

def State.setAtc (s : State) : Sec → List AtcReq → State
  | .ns, l => { s with atcNs := l }
  | .s, l => { s with atcS := l }

/-- An Invalidate Request is sent and becomes outstanding (R1203). -/
def State.sendAtc (s : State) (r : AtcReq) : State :=
  let s := s.emit (.atsInvalidate s.curQ r)
  s.setAtc s.curQ (s.atc s.curQ ++ [r])

/-- A legal CMD_ATC_INV of a span of 2^Size pages: a NOP without system ATS, or with SMMUEN == 0 (R1201, R1203). -/
def State.atcInv (s : State) (glob ssv : Bool) (ssid : BitVec 20) (sid : BitVec 32) (size : BitVec 6) (addr : BitVec 52) : State :=
  if !s.impl.sysAts || !s.portsOn then s
  else
    match s.sidParam .ns sid with
    | (none, s) => s
    | (some sid, s) =>
      match s.pasidParam ssv ssid with
      | (none, s) => s
      | (some pasid, s) =>
        s.sendAtc { sid := sid, pasid := pasid, glob := pasid.isSome && glob, addr := atcAddress addr size, size := size }

/-- CMD_ATC_INV (R1203). A Size above 52 is ILLEGAL, or invalidates an UNKNOWN span, or nothing, by a draw. -/
def execAtcInv (glob ssv : Bool) (ssid : BitVec 20) (sid : BitVec 32) (size : BitVec 6) (addr : BitVec 52) (res : CmdWord)
    (s : State) : Host.Outcome State Fault Refusal :=
  if !s.ats then ill s
  else if s.curQ == .s && s.sams then ill s
  else if s.res0Ill res 0 then ill s
  else if 52 < size.toNat then
    (if bit s.free 511 then ill s.drawn
     else if bit s.free 510 then done s.drawn
     else done (s.drawn.atcInv glob ssv ssid sid (BitVec.ofNat 6 ((fld s.free 64 6).toNat % 53)) addr))
  else done (s.atcInv glob ssv ssid sid size addr)

/-- The PRG ResponseCode of a Resp operand (60 R1761). -/
def prgCode (resp : BitVec 2) : BitVec 4 := if resp = 0 then 0b1111#4 else if resp = 1 then 0b0001#4 else 0b0000#4

/-- CMD_PRI_RESP (R1204). -/
def execPriResp (ssv : Bool) (ssid : BitVec 20) (sid : BitVec 32) (group : BitVec 9) (resp : BitVec 2) (res : CmdWord)
    (s : State) : Host.Outcome State Fault Refusal :=
  if !s.pri then ill s
  else if resp = 3 then ill s
  else if s.curQ == .s && s.sams then ill s
  else if s.res0Ill res 0 then ill s
  else if !s.impl.sysPri || !s.portsOn then done s
  else
    match s.sidParam .ns sid with
    | (none, s) => done s
    | (some sid, s) =>
      match s.pasidParam ssv ssid with
      | (none, s) => done s
      | (some pasid, s) => done (s.emit (.prgResponse sid pasid group (prgCode resp)))

end Sys2Proof.Machine
end

