-- ==== Sys2Proof/Machine/FaultSync.lean ====
section
/-! DEFINITION. The meanings of CMD_RESUME, CMD_STALL_TERM and CMD_SYNC (43_cmd_fault_sync.md R1230 to R1247). -/
namespace Sys2Proof.Machine

/-- The action a CMD_RESUME asks for (R1230); without RAZ/WI termination every termination aborts (11 R200). -/
def State.resumeAct (s : State) (ac ab : Bool) : StallAct :=
  if ac then .retry else if bit s.idr0 26 || ab then .abort else .razwi

/-- The stalled transaction of a StreamID and STAG: one still without a command before one already commanded (R1230). -/
def State.findStall (s : State) (sec : Sec) (sid : BitVec 32) (stag : BitVec 16) : Option Nat :=
  let hit := fun (x : Stall) => x.txn.sec == sec && x.txn.sid == sid && x.stag == some stag
  match s.stalled.findIdx? (fun x => hit x && x.act.isNone) with
  | some n => some n
  | none => s.stalled.findIdx? hit

/-- Resume or terminate the stalled transaction at a position; one whose record is not yet visible, or that was commanded
before, is affected or not, by a draw (R1230 corner case 3, U44). -/
def State.resumeStall (s : State) (n : Nat) (a : StallAct) : State :=
  match s.stalled[n]? with
  | none => s
  | some x =>
    if x.recorded && x.act.isNone then s.markStall n a
    else if bit s.free 511 then s.drawn.markStall n a
    else s.drawn

/-- CMD_RESUME (R1230). -/
def execResume (ssec ac ab : Bool) (sid : BitVec 32) (stag : BitVec 16) (res : CmdWord) (s : State) :
    Host.Outcome State Fault Refusal :=
  if s.noStall then ill s
  else
    match s.sec ssec with
    | none => ill s
    | some sec =>
      if s.res0Ill res 0 then ill s
      else
        match s.sidParam sec sid with
        | (none, s) => done s
        | (some sid, s) =>
          match s.findStall sec sid stag with
          | none => done (s.ackStag sec sid stag)
          | some n => done (s.resumeStall n (s.resumeAct ac ab))

/-- Marking, from position 0 on, every stalled transaction of a stream for termination, those that `pick` selects. A duplicate that
is not selected, behind a selected one, is retried as behind a CMD_RESUME (60 R1682), where U45 names marked or not only (log
entry 45, DESIGN CHOICE). -/
def State.termStalls (sec : Sec) (sid : BitVec 32) (pick : Nat → Bool) : Nat → Nat → State → State
  | 0, _, s => s
  | k + 1, n, s =>
    match s.stalled[n]? with
    | none => s
    | some x =>
      let s := if x.txn.sec == sec && x.txn.sid == sid && pick n then s.markStall n .abort else s
      State.termStalls sec sid pick k (n + 1) s

/-- The effect of CMD_STALL_TERM on a stream (R1233): with its precondition every stalled transaction is terminated;
otherwise each is or is not, and each pending stall record is kept or dropped, by a draw (U45). -/
def State.stallTerm (s : State) (sec : Sec) (sid : BitVec 32) : State :=
  if s.streamTerminates sec sid then
    let s := State.termStalls sec sid (fun _ => true) s.stalled.length 0 s
    { s with stags := s.stags.filter fun y => !(y.sec == sec && y.sid == sid) }
  else
    let n := s.stalled.length / 512 + 1
    let pick := fun d i => bit (Config.freeValue (d + i / 512)) (i % 512)
    let kept := ((s.events sec).zipIdx.filter fun x =>
      !(x.1.stag.isSome && fld x.1.ev 32 32 == sid && pick (s.draw + n) x.2)).map Prod.fst
    let t := State.termStalls sec sid (pick s.draw) s.stalled.length 0 s
    { t.setEvents sec kept with draw := s.draw + n + (s.events sec).length / 512 + 1 }

/-- CMD_STALL_TERM (R1233). -/
def execStallTerm (ssec : Bool) (sid : BitVec 32) (res : CmdWord) (s : State) : Host.Outcome State Fault Refusal :=
  if s.noStall then ill s
  else
    match s.sec ssec with
    | none => ill s
    | some sec =>
      if s.res0Ill res 0 then ill s
      else
        match s.sidParam sec sid with
        | (none, s) => done s
        | (some sid, s) => done (s.stallTerm sec sid)

/-- The events that a completing CMD_SYNC makes visible or discards, and the stall records it makes stale (R1243, R1244,
R1245): of the Non-secure interface; from the Secure Command queue, of both. -/
def State.syncEvents (s : State) : State :=
  let ns := (s.flushEvents .ns).staleStalls .ns
  match s.curQ with
  | .ns => ns
  | .s => (ns.flushEvents .s).staleStalls .s

/-- The completion signal of CMD_SYNC (R1240): SIG_IRQ raises the MSI unless its address is zero, and the wired interrupt, which
wait to be delivered (10_state.md R158); SIG_SEV sends an event. -/
def State.syncSignal (s : State) (cs msh : BitVec 2) (attr : BitVec 4) (data : W32) (addr : BitVec 50) : State :=
  let q := s.curQ
  let a := s.msiOperand addr
  if cs = 1 then
    s.pushIrqs ((if s.msi q && a != 0 then
        [.msi (.cmdSync q) q.isNs a data (msiAttrs attr msh q.isNs)] else []) ++
      if s.impl.wiredIrq then [.wired (.cmdSync q)] else [])
  else if cs = 2 && s.sev then s.emit .sendEvent
  else s

/-- An Invalidate Request of the queue of the running command has timed out (R1246). -/
def State.atcTimedOut (s : State) : Bool :=
  match s.curQ with
  | .ns => !s.atcNsLate.isEmpty
  | .s => !s.atcSLate.isEmpty

/-- After the error is raised the requests that timed out are no longer waited for (R1246, 60 R1748). -/
def State.clearAtc (s : State) : State :=
  match s.curQ with
  | .ns => { s with atcNsLate := [] }
  | .s => { s with atcSLate := [] }

/-- The end of CMD_SYNC: it is Consumed, and software sees that it is (13 R288). -/
def doneSync (s : State) : Host.Outcome State Fault Refusal := .next (s.consume.showCons s.curQ)

/-- CMD_SYNC with the invalidations of its queue complete (R1241, R1243): the maintenance that the queue asked for is done, the MSIs
of earlier ones are delivered, the events settled, the completion signalled. -/
def State.syncDone (s : State) (cs msh : BitVec 2) (attr : BitVec 4) (data : W32) (addr : BitVec 50) : State :=
  let s := { s with steLog := s.steLog ++ [.synced s.curQ] }
  ((State.flushSyncs s.curQ s.irqs.length s).syncEvents).syncSignal cs msh attr data addr

/-- CMD_SYNC (R1240, R1241, R1246): it waits for the outstanding Invalidate Requests of its queue; it carries out the queue's
invalidations and waits for the transactions that left with what they removed; then it signals and is Consumed. -/
def execSync (cs msh : BitVec 2) (attr : BitVec 4) (data : W32) (addr : BitVec 50) (res : CmdWord) (s : State) :
    Host.Outcome State Fault Refusal :=
  if cs = 3 then ill s
  else if s.res0Ill res (v30Msi addr) then ill s
  else if s.atcTimedOut then
    (if s.impl.atcTimeoutErr then .next (s.clearAtc.cmdError .atcInvSync) else waits s)
  else if !(s.atc s.curQ).isEmpty then waits s
  else
    let t := s.completeInvals s.curQ
    if t.pendingInval.any fun i => i.origin == some s.curQ then waits t
    else doneSync (t.syncDone cs msh attr data addr)

/-- A Reserved opcode (30_encoding.md R1057). -/
def execReserved (_w : CmdWord) (s : State) : Host.Outcome State Fault Refusal := ill s

/-- An IMPLEMENTATION DEFINED opcode (30_encoding.md R1058): one the implementation does not provide is ILLEGAL; the
behaviour of one it provides is outside the spec. -/
def execImpdef (w : CmdWord) (s : State) : Host.Outcome State Fault Refusal :=
  if s.impl.impdefCmds.contains (fld w 0 8) then .refused (.impdefCommand (fld w 0 8)) else ill s

end Sys2Proof.Machine
end

