-- ==== Sys2Proof/Machine/Dispatch.lean ====
section
/-! DEFINITION. One arm per command. -/
namespace Sys2Proof.Machine

def exec (i : Instr) (s : State) : Host.Outcome State Fault Refusal :=
  match i with
  | .prefetchConfig ssec ssv ssid sid res => Sys2Proof.Machine.execPrefetchConfig ssec ssv ssid sid res s
  | .prefetchAddr ssec ssv ssid sid size stride addr res => Sys2Proof.Machine.execPrefetchAddr ssec ssv ssid sid size stride addr res s
  | .cfgiSte ssec sid leaf res => Sys2Proof.Machine.execCfgiSte ssec sid leaf res s
  | .cfgiSteRange ssec sid range res => Sys2Proof.Machine.execCfgiSteRange ssec sid range res s
  | .cfgiAll ssec sid res => Sys2Proof.Machine.execCfgiAll ssec sid res s
  | .cfgiCd ssec ssid sid leaf res => Sys2Proof.Machine.execCfgiCd ssec ssid sid leaf res s
  | .cfgiCdAll ssec sid res => Sys2Proof.Machine.execCfgiCdAll ssec sid res s
  | .tlbiNhAll vmid res => Sys2Proof.Machine.execTlbiNhAll vmid res s
  | .tlbiNhAsid vmid asid res => Sys2Proof.Machine.execTlbiNhAsid vmid asid res s
  | .tlbiNhVa vmid asid leaf addr res => Sys2Proof.Machine.execTlbiNhVa vmid asid leaf addr res s
  | .tlbiNhVaa vmid leaf addr res => Sys2Proof.Machine.execTlbiNhVaa vmid leaf addr res s
  | .tlbiEl3All res => Sys2Proof.Machine.execTlbiEl3All res s
  | .tlbiEl3Va leaf addr res => Sys2Proof.Machine.execTlbiEl3Va leaf addr res s
  | .tlbiEl2All res => Sys2Proof.Machine.execTlbiEl2All res s
  | .tlbiEl2Asid asid res => Sys2Proof.Machine.execTlbiEl2Asid asid res s
  | .tlbiEl2Va asid leaf addr res => Sys2Proof.Machine.execTlbiEl2Va asid leaf addr res s
  | .tlbiEl2Vaa leaf addr res => Sys2Proof.Machine.execTlbiEl2Vaa leaf addr res s
  | .tlbiS12Vmall vmid res => Sys2Proof.Machine.execTlbiS12Vmall vmid res s
  | .tlbiS2Ipa vmid leaf addr res => Sys2Proof.Machine.execTlbiS2Ipa vmid leaf addr res s
  | .tlbiNsnhAll res => Sys2Proof.Machine.execTlbiNsnhAll res s
  | .atcInv glob ssv ssid sid size addr res => Sys2Proof.Machine.execAtcInv glob ssv ssid sid size addr res s
  | .priResp ssv ssid sid group resp res => Sys2Proof.Machine.execPriResp ssv ssid sid group resp res s
  | .resume ssec ac ab sid stag res => Sys2Proof.Machine.execResume ssec ac ab sid stag res s
  | .stallTerm ssec sid res => Sys2Proof.Machine.execStallTerm ssec sid res s
  | .sync cs msh attr data addr res => Sys2Proof.Machine.execSync cs msh attr data addr res s
  | .reserved w => Sys2Proof.Machine.execReserved w s
  | .impdef w => Sys2Proof.Machine.execImpdef w s

end Sys2Proof.Machine
end

