-- ==== Sys2Proof/Machine/Cd.lean ====
section
/-! DEFINITION. The Context Descriptor and the Level 1 Context Descriptor: fields, effective values, the choice of a
translation table, legality (22_structures_cd.md R700 to R770, 23_translation.md R803, 28_vmsa_walk.md R2002, R2003, R2012). -/
namespace Sys2Proof.Machine

/-! ### Level 1 Context Descriptor (R700) -/

def l1cdV (d : W64) : Bool := bit d 0
/-- L2Ptr as an address; 64KB leaf tables ignore bits [15:12] (21 R567). -/
def l1cdPtr (v31 : Bool) (d : W64) (leaf64k : Bool) : W64 := alignDown (ptrField v31 12 d) (if leaf64k then 16 else 12)

/-! ### Fields of a CD (R706); the argument `x` of a field selects TT1 -/

namespace Cd

def v (c : StructWord) : Bool := bit c 31
def tsz (c : StructWord) (x : Bool) : BitVec 6 := if x then fld c 16 6 else fld c 0 6
def tg (c : StructWord) (x : Bool) : Option Nat := if x then tg1Log (fld c 22 2) else tg0Log (fld c 6 2)
def ir (c : StructWord) (x : Bool) : BitVec 2 := if x then fld c 24 2 else fld c 8 2
def or (c : StructWord) (x : Bool) : BitVec 2 := if x then fld c 26 2 else fld c 10 2
def sh (c : StructWord) (x : Bool) : BitVec 2 := if x then fld c 28 2 else fld c 12 2
def epd (c : StructWord) (x : Bool) : Bool := if x then bit c 30 else bit c 14
def endi (c : StructWord) : Bool := bit c 15
def ips (c : StructWord) : BitVec 3 := fld c 32 3
def affd (c : StructWord) : Bool := bit c 35
def wxn (c : StructWord) : Bool := bit c 36
def uwxn (c : StructWord) : Bool := bit c 37
def tbi (c : StructWord) (x : Bool) : Bool := if x then bit c 39 else bit c 38
def pan (c : StructWord) : Bool := bit c 40
def aa64 (c : StructWord) : Bool := bit c 41
def hd (c : StructWord) : Bool := bit c 42
def ha (c : StructWord) : Bool := bit c 43
/-- The fault configuration flags (R729, R780). -/
def s (c : StructWord) : Bool := bit c 44
def r (c : StructWord) : Bool := bit c 45
def a (c : StructWord) : Bool := bit c 46
def aset (c : StructWord) : Bool := bit c 47
def asid (c : StructWord) : BitVec 16 := fld c 48 16
def nscfg (c : StructWord) (x : Bool) : Bool := if x then bit c 128 else bit c 64
def had (c : StructWord) (x : Bool) : Bool := if x then bit c 129 else bit c 65
/-- TTB0, TTB1 as addresses (R734, R738). -/
def ttb (v31 : Bool) (c : StructWord) (x : Bool) : W64 := ptrField v31 4 (if x then fld c 128 64 else fld c 64 64)
/-- Attr<n> of MAIR1:MAIR0 (R740). -/
def mair (c : StructWord) (n : BitVec 3) : BitVec 8 := fld (c >>> (8 * n.toNat)) 192 8

end Cd

/-- A regime with one table and one privilege level (R750, R753). -/
def World.one : World → Bool
  | .el2 => true
  | .el3 => true
  | .nsEL1 => false
  | .el2E2H => false
  | .secure => false

/-- The effective EPD0 and EPD1: one table only in EL2 and EL3 (R714, R770). -/
def epdEff (w : World) (c : StructWord) (x : Bool) : Bool := if w.one then x else Cd.epd c x

/-- The bits no rule gives a meaning (R551, R706); those reserved in SMMUv3.0 only are added there, and those of an unreachable TTB1
(R750). A field that the CD IGNOREs is not among them (00_scope.md R31): HAD1 without HAD (R737), NSCFG1 of a Non-secure stream (R732,
R736), a TTBx with EPDx (R734, R738). -/
def Cd.res0 (v31 had : Bool) (w : World) (c : StructWord) : StructWord :=
  let gate := fun (b : Bool) (m : StructWord) => if b then m else 0
  gate w.one (maskOf 512 16 6 ||| maskOf 512 22 8 ||| maskOf 512 39 1 ||| maskOf 512 132 48) |||
    gate (w == .el3) (maskOf 512 128 1) |||
    gate (w.one && had) (maskOf 512 129 1) |||
    maskOf 512 66 2 ||| maskOf 512 116 8 ||| maskOf 512 130 2 ||| maskOf 512 180 8 ||| maskOf 512 352 160 |||
    gate (!v31) (maskOf 512 124 4 ||| maskOf 512 188 4) |||
    gate (!v31 && !epdEff w c false) (maskOf 512 112 4) |||
    gate (!v31 && !epdEff w c true) (maskOf 512 176 4)

/-- The effective stage 1 output size in bits (R721). -/
def State.ipsEff (s : State) (c : StructWord) : Nat := if Cd.aa64 c then min (psBits s.v31 (Cd.ips c)) s.oas else 40

/-- The smallest valid TxSZ (R710). -/
def State.tszMin (s : State) (c : StructWord) (x : Bool) : Nat := if s.vax && Cd.tg c x == some 16 then 12 else 16

/-- `TXSZ_OUTSIDE_VALID_RANGE` (R770). -/
def State.tszBad (s : State) (c : StructWord) (x : Bool) : Bool :=
  decide (39 < (Cd.tsz c x).toNat) || decide ((Cd.tsz c x).toNat < s.tszMin c x)

/-- The effective TxSZ (R710): AArch32 has three bits; an SMMUv3.0 may clamp a value out of range. -/
def State.tszEff (s : State) (c : StructWord) (x : Bool) : Nat :=
  if Cd.aa64 c then min 39 (max (s.tszMin c x) (Cd.tsz c x).toNat) else (Cd.tsz c x).toNat % 8

/-- The granule of a table; AArch32 tables have 4KB (28 R2012). -/
def cdGran (c : StructWord) (x : Bool) : Nat := if Cd.aa64 c then (Cd.tg c x).getD 12 else 12

/-- `CD_ILLEGAL` but for `!CD.V` (R770, with the RES0 check of R551). -/
def State.cdIllegal (s : State) (sec : Sec) (w : World) (e c : StructWord) : Bool :=
  let walks := fun x => !epdEff w c x
  let sm := s.stallModelOf sec
  let table := fun x => walks x &&
    ((Cd.aa64 c && !s.granSupported (Cd.tg c x)) ||
      addrOutside (Cd.ttb s.v31 c x) (min (s.ipsEff c) (if Cd.tg c x == some 16 then 52 else 48)))
  (Ste.s1stalld e && Cd.s c) ||
  (bit s.idr0 26 && !Cd.a c) ||
  (sm == 1#2 && Cd.s c) ||
  (sm == 2#2 && !Cd.s c) ||
  ((walks false || walks true) && !s.endianOk (Cd.endi c)) ||
  (!Cd.aa64 c && (!s.tt32 || w == .el3 || w == .el2E2H)) ||
  (Cd.aa64 c && (!s.tt64 || (Ste.cfgS2 e && !Ste.s2aa64 e))) ||
  (Cd.aa64 c && (((Cd.ha c || Cd.hd c) && !s.httuAf) || (Cd.hd c && !s.httuDirty))) ||
  (!w.one && !bit s.idr0 12 && fld (Cd.asid c) 8 8 != 0) ||
  (Cd.aa64 c && (s.v31 || s.impl.txszOorIllegal) &&
    ((walks false && s.tszBad c false) || (walks true && s.tszBad c true))) ||
  table false || table true ||
  (s.impl.structRes0Check && (c &&& Cd.res0 s.v31 s.hadImpl w c) != 0)

/-! ### The choice of a table (23 R803, 28 R2012) -/

/-- Bits `lo` to `hi` of an address are all equal to `b`. -/
def bitsAre (a : W64) (lo hi : Nat) (b : Bool) : Bool :=
  let n := hi + 1 - lo
  (a.toNat / 2 ^ lo) % 2 ^ n == (if b then 2 ^ n - 1 else 0)

/-- The TxSZ that divides a 32-bit VA between the tables: with an effective EPDx of 1 TxSZ is IGNORED (R710, R714, R716, R719), and
the table of R2012 is read with a TxSZ of 0 (log entry 45, DESIGN CHOICE). -/
def State.tszDiv (s : State) (w : World) (c : StructWord) (x : Bool) : Nat := if epdEff w c x then 0 else s.tszEff c x

/-- `s1_select_and_check` (R803) without the EPDx test: the table, the input size, and the effective address; `none` is a
Translation fault. Where TBI0 and TBI1 differ the table is selected by bit 55 (U110, log entry 11). An ignored TxSZ bounds no
region: an address that is translated using a table with EPDx is looked up in the TLB and faults when it misses (R714, R761). -/
def State.s1Select (s : State) (w : World) (c : StructWord) (va : W64) : Option (Bool × Nat × W64) :=
  if Cd.aa64 c then
    if w.one then
      let n := 64 - s.tszEff c false
      let top := if Cd.tbi c false then 55 else 63
      if bitsAre va n top false then some (false, n, truncTo va n) else none
    else
      let x := bit va 55
      let n := 64 - s.tszEff c x
      let tbi := Cd.tbi c x
      if epdEff w c x || bitsAre va n (if tbi then 55 else 63) x then
        some (x, n, if tbi then (fld va 0 56).signExtend 64 else va)
      else none
  else
    let m := s.tszDiv w c false
    let k := s.tszDiv w c true
    let zero := bitsAre va (32 - m) 31 false
    let ones := bitsAre va (32 - k) 31 true
    if !bitsAre va 32 63 false then none
    else if w.one then (if m = 0 || zero then some (false, 32 - m, va) else none)
    else if k = 0 then
      (if m = 0 || zero then some (false, 32 - m, va) else some (true, 32, va))
    else if ones then some (true, 32 - k, va)
    else if m = 0 || zero then some (false, 32 - m, va)
    else none

/-- The starting level of stage 1 (28 R2002). -/
def startLevel (insize g : Nat) : Nat := 4 - (insize - g + (g - 3) - 1) / (g - 3)

/-- The lowest input address bit that a level resolves (28 R2001). -/
def levelLo (g level : Nat) : Nat := g + (3 - level) * (g - 3)

/-- log2 of the alignment of a starting table (28 R2003). -/
def baseAlign (insize g start ps : Nat) : Nat :=
  let x := insize - levelLo g start + 3
  if g = 16 && ps = 52 then max 6 x else x

end Sys2Proof.Machine
end

