-- ==== Sys2Proof/Machine/Walk.lean ====
section
/-! DEFINITION. The translation table walk of one stage, hardware update of flags, permissions and the TLB
(28_vmsa_walk.md R2000 to R2024, 25_httu.md R880 to R892, 27_tlb.md R920 to R932, 23_translation.md R835 to R853). -/
namespace Sys2Proof.Machine

/-! ### Computations that may fault -/

/-- A computation over the state that ends in a value or in a fault; the state changes made before a fault stay. -/
abbrev Tr := ExceptT Flt (StateM State)

/-- Change the state. -/
def Tr.modify (f : State → State) : Tr Unit := fun s => (.ok (), f s)
/-- Read the state. -/
def Tr.asks {α : Type} (f : State → α) : Tr α := fun s => (.ok (f s), s)
/-- Run a state function that also answers. -/
def Tr.lift {α : Type} (f : State → α × State) : Tr α := fun s => (.ok (f s).1, (f s).2)
/-- Take a free value (log entry 4). -/
def Tr.draw : Tr (BitVec 512) := Tr.lift fun s => (s.free, s.drawn)
/-- Fail with a fault. -/
def Tr.fail {α : Type} (f : Flt) : Tr α := fun s => (.error f, s)

/-- A fault with the fields its kind does not use at zero. -/
def Flt.of (k : FKind) : Flt :=
  { kind := k, s2 := false, cls := .inn, ipa := 0, fetchAddr := 0, ttRead := false, noRead := false,
    ssid := none, fixedAbort := false, whole := false, aa32 := false }

/-- A conflict that gives way to the other events of the transaction is remembered; the first one counts (93 U83). -/
def State.noteConflict (s : State) (f : Flt) : State :=
  { s with trail := { s.trail with conflict := some (s.trail.conflict.getD f) } }

/-- What a walk uses is remembered: a structure, a translation (20_memory.md R480, R485). -/
def State.noteCfg (s : State) (e : CfgEnt) : State := { s with trail := { s.trail with cfg := s.trail.cfg ++ [e] } }
def State.noteTlb (s : State) (e : TlbEnt) : State := { s with trail := { s.trail with tlb := s.trail.tlb ++ [e] } }

/-! What the counters ask of an operation is remembered too (51 R1409): a walk of its address begins, an STE or a CD is read, an entry
of the TLB is used, whether for the address or for a structure or descriptor on the way (log entry 45, DEDUCED), a cached structure is. -/

def State.beginWalk (s : State) : State := { s with trail := { s.trail with walked := true } }
def State.beginFetch (s : State) : State := { s with trail := { s.trail with fetched := true } }
def State.useTlb (s : State) : State := { s with trail := { s.trail with tlbUsed := true } }
def State.useCfg (s : State) (e : CfgEnt) : State := { s.noteCfg e with trail := { (s.noteCfg e).trail with cfgUsed := true } }

/-- More than one entry matches: a conflict, or any one of them is used, by a draw; one of them is used meanwhile where the
conflict gives way to other events (`last`, P_CONFLICT_PRIORITY, 93 U83). -/
def conflictOr {α : Type} (last : Bool) (conflict : Flt) (x : α) (xs : List α) : Tr α := do
  let d ← Tr.draw
  if bit d 511 && !last then Tr.fail conflict
  else
    if bit d 511 then Tr.modify fun s => s.noteConflict conflict
    pure (((x :: xs)[(fld d 0 64).toNat % (xs.length + 1)]?).getD x)

/-- One more access of the walk: false where a RAS error cuts an ATOS operation off before it (50_atos.md R1345). -/
def spend : Tr Bool := Tr.lift fun s =>
  match s.trail.budget with
  | none => (true, s)
  | some 0 => (false, s)
  | some (k + 1) => (true, { s with trail := { s.trail with budget := some k } })

/-- A stage 1 Translation-related fault: S2 == 0, CLASS == IN (61 R1821). -/
def Flt.st1 (k : FKind) : Flt := Flt.of k

/-- A stage 2 Translation-related fault with its class and IPA (61 R1821, R1824). -/
def Flt.st2 (k : FKind) (cls : FClass) (ipa : W64) (ttRead : Bool) : Flt :=
  { Flt.of k with s2 := true, cls := cls, ipa := ipa, ttRead := ttRead }

/-! ### Accesses and permissions -/

/-- The permissions a descriptor gives at a privilege; `clean` says that write is missing only because the page is
Writable Clean under hardware management of Dirty state (25 R883). -/
structure Perms where
  r : Bool
  w : Bool
  x : Bool
  clean : Bool
  deriving DecidableEq, Repr, Inhabited

/-- Every permission, and none. -/
def Perms.all : Perms := ⟨true, true, true, false⟩
def Perms.none : Perms := ⟨false, false, false, false⟩

/-- What a translation is asked for: the permissions it needs (read, write, execute) and its privilege. `soft` computes
the permissions without a Permission fault (26 R905), for an ATS request whose `inst` (the effective INSTCFG) and `exe`
decide what they grant, of those that stage 1 leaves (`cap`), and whose page may be one that is still Writable Clean (`cleanW`: stage
2 of a `split`-stage request, 25 R890); `bare` is a prefetch, which permissions never stop (40 R1106); `any` needs any one of them (24
R1004). -/
structure Acc where
  rd : Bool
  wr : Bool
  ex : Bool
  priv : Bool
  soft : Bool
  any : Bool
  inst : BitVec 2 := 0
  exe : Bool := false
  bare : Bool := false
  cap : Perms := Perms.all
  split : Bool := false
  cleanW : Bool := false
  deriving DecidableEq, Repr, Inhabited

/-- A data read by the SMMU itself: a structure or a descriptor (28 R2022). -/
def Acc.fetch : Acc := { rd := true, wr := false, ex := false, priv := true, soft := false, any := false }

/-- Whether the permissions serve an access. -/
def Acc.ok (a : Acc) (p : Perms) : Bool :=
  a.soft || ((!a.any || p.r || p.w || p.x) && (!a.rd || p.r) && (!a.wr || p.w) && (!a.ex || p.x))

/-- `grant` (26 R909): the read, write and execute permissions that an ATS response gives. Of a split-stage request a Writable Clean
final stage 2 descriptor counts as writable (25 R890). -/
def Acc.grant (a : Acc) (p : Perms) : Bool × Bool × Bool :=
  let r := p.r && a.cap.r
  let w := (p.w || (a.cleanW && p.clean)) && a.cap.w
  let x := p.x && a.cap.x
  if a.inst = 3 then (x, w, a.exe && x)
  else if a.inst = 2 then (r, w, a.exe && r)
  else (r, w, a.exe && r && x)

/-- An ATS request gets nothing from these permissions (26 R914). -/
def Acc.grantsNone (a : Acc) (p : Perms) : Bool := a.soft && !a.bare && a.grant p == (false, false, false)

/-- A Permission fault, with the mark of an atomic that had write but not read permission (23 R855); a Writable Clean page has write
permission here (log entry 45, DESIGN CHOICE). -/
def Acc.denied (a : Acc) (p : Perms) (f : Flt) : Flt := { f with noRead := a.rd && a.wr && (p.w || p.clean) && !p.r }

/-- Whether an access makes a Writable Clean page Writable Dirty: it writes, and nothing else stands against it
(25 R883, R892). -/
def Acc.dirties (a : Acc) (p : Perms) : Bool :=
  a.wr && !p.w && p.clean && a.ok { p with w := true }

/-- Stage 1 permissions (28 R2020, 22 R723, R724, R726, 25 R892). Bit 54 of an AArch32 table is XN, for a privileged fetch too (28
R2006, R2012). Execute needs read permission in an AArch32 table, since R2020 says that it does not in AArch64 ones (log entry 45,
DEDUCED). -/
def s1Perms (w : World) (c : StructWord) (l : Leaf) (priv : Bool) : Perms :=
  let one := w.one
  let p := one || priv
  let hd := Cd.aa64 c && Cd.ha c && Cd.hd c
  let user := one || (bit l.desc 6 && !bit l.apt 0)
  let can := p || user
  let dbm := hd && bit l.desc 51
  let wrAp := !bit l.desc 7
  let wrOk := !bit l.apt 1
  let pan := Cd.pan c && !one && priv && user
  let uxn := bit l.desc 54 || l.xnt
  let xn := if one || !priv then uxn else bit l.desc 53 || l.pxnt || (!Cd.aa64 c && uxn)
  let wrEver := (wrAp || dbm) && wrOk
  let wxn := Cd.wxn c && can && wrEver
  let pxn := priv && !one && user && wrEver && (Cd.aa64 c || Cd.uwxn c)
  { r := can && !pan
    w := can && !pan && wrAp && wrOk
    x := !xn && !wxn && !pxn && (Cd.aa64 c || can)
    clean := can && !pan && !wrAp && wrOk && dbm }

/-- Stage 2 permissions (28 R2022). -/
def State.s2Perms (s : State) (e : StructWord) (l : Leaf) (priv : Bool) : Perms :=
  let xn := fld l.desc 53 2
  let x := if s.xnx then (if xn = 0 then true else if xn = 1 then !priv else if xn = 2 then false else priv) else !bit l.desc 54
  { r := bit l.desc 6, w := bit l.desc 7, x := x,
    clean := !bit l.desc 7 && bit l.desc 51 && Ste.s2ha e && Ste.s2hd e }

/-! ### Descriptors (28 R2004 to R2008) -/

/-- The parameters of a walk of one stage. `hd`, `ha` are the effective enables, `plainAttrs` that the walk attributes are
ones for which the implementation may not perform updates (25 R885), `passive` that HTTU is inhibited (50_atos.md R1328). -/
structure WalkCfg where
  base : W64
  insize : Nat
  g : Nat
  start : Nat
  ps : Nat
  big : Bool
  attrs : Attrs
  had : Bool
  ns : Bool
  secure : Bool
  ha : Bool
  affd : Bool
  plainAttrs : Bool
  wide : Bool
  passive : Bool
  passiveReport : Bool
  deriving DecidableEq, Repr, Inhabited

/-- The kinds of descriptor (R2004). -/
inductive DescKind where
  | invalid
  | table
  | leaf
  deriving DecidableEq, Repr

/-- The kind of a descriptor at a level; `wide` permits a 64KB block at level 1 (R2004). -/
def descKind (g level : Nat) (wide : Bool) (d : W64) : DescKind :=
  if !bit d 0 then .invalid
  else if bit d 1 then (if level = 3 then .leaf else .table)
  else if level = 2 || (level = 1 && (g = 12 || (g = 16 && wide))) then .leaf
  else .invalid

/-- The address in a descriptor from bit `n` upwards: [47:n], and [15:12] as [51:48] for a 64KB granule with a 52-bit
output size (R2005, R2006). -/
def descAddr (g ps n : Nat) (d : W64) : W64 :=
  let a := alignDown (d &&& maskOf 64 0 48) n
  if g = 16 && ps = 52 then a ||| place 64 (fld d 12 4) 48 else a

/-- Attributes the walk has accumulated: APTable, UXNTable, PXNTable, NS (R2010). -/
structure WalkAcc where
  apt : BitVec 2
  xnt : Bool
  pxnt : Bool
  ns : Bool
  deriving DecidableEq, Repr, Inhabited

/-- How a walk reads and updates its descriptors: the value at an address of the stage's input side (an address and an NS
attribute), and the atomic update from an old to a new value, which answers false where the descriptor is no longer the old
one (25 R885). -/
structure DescPort where
  read : W64 → Bool → Tr W64
  write : W64 → Bool → W64 → W64 → Tr Bool

/-- The Access flag update of a passive walk (50_atos.md R1328): made or not, by a draw; a fault met on the way is
reported or not (U181). -/
def passiveAf (port : DescPort) (report : Bool) (addr : W64) (ns : Bool) (old d : W64) : Tr Bool := do
  let x ← Tr.draw
  if bit x 511 then
    (fun s => match port.write addr ns old d s with
      | (.error f, s) => (if report then .error f else .ok true, s)
      | (.ok _, s) => (.ok true, s))
  else pure true

/-- `af_step` and `dirty_step` on a final descriptor (25 R881 to R883): the descriptor in effect. `perms` judges a leaf;
`fault` makes a fault of this stage. Updates with Non-cacheable or Write-through walk attributes are performed or not, each by a
draw (U121). The Dirty state is settled before the permissions are judged: the page that a request with NW 0 makes Dirty grants write,
also where step 6 of R905, which stands before HTTU, finds nothing granted (26 R905, R910, R917; log entry 45, DESIGN CHOICE).
An Access flag that is not updated in the case of U121 is an Access flag fault, whatever AFFD is, which is IGNORED while HA is set
(R609; log entry 13, DESIGN CHOICE). After a Permission fault, or where an ATS request is granted nothing, AF may have been set (U120, 26 R905).
A passive walk updates nothing but, perhaps, AF. `none` is an update that found the descriptor changed (R885). -/
def leafStep (cfg : WalkCfg) (port : DescPort) (acc : Acc) (perms : Leaf → Perms) (fault : FKind → Flt) (addr : W64)
    (ns : Bool) (l : Leaf) : Tr (Option Leaf) := do
  let d := l.desc
  let clean := !bit d 10
  let writeAf := fun (x : W64) =>
    if cfg.passive then passiveAf port cfg.passiveReport addr ns d x else port.write addr ns d x
  let answer := fun (ok : Bool) (x : W64) => if ok then some { l with desc := x } else none
  let skip ← if cfg.plainAttrs && !cfg.passive && cfg.ha && (clean || acc.wr) then Tr.draw else pure 0
  let ha := cfg.ha && !bit skip 511
  if clean && !ha && (cfg.ha || !cfg.affd) then Tr.fail (fault .access)
  else
    let withAf := if clean && ha then setBit d 10 true else d
    let p := perms l
    if acc.dirties p && !bit skip 510 then
      let d' := setBit d 10 true
      let d' := if (fault .access).s2 then setBit d' 7 true else setBit d' 7 false
      let ok ← if !cfg.passive then port.write addr ns d d'
        else if withAf != d then writeAf withAf else pure true
      pure (answer ok d')
    else if acc.ok p then
      let quiet ← if withAf != d && acc.grantsNone p then (do let x ← Tr.draw; pure (bit x 511)) else pure false
      let ok ← if withAf != d && !quiet then writeAf withAf else pure true
      pure (answer ok (setBit d 10 true))
    else
      if withAf != d then
        let x ← Tr.draw
        if bit x 511 then
          let _ ← writeAf withAf
      Tr.fail (acc.denied p (fault .permission))

/-- One stage of walk (R2010) from a level on; `fuel` bounds the levels left and the steps repeated because another agent
changed the descriptor (25 R885). `note` is told of every table descriptor. -/
def walkFrom (cfg : WalkCfg) (port : DescPort) (acc : Acc) (perms : Leaf → Perms) (fault : FKind → Flt)
    (note : Leaf → State → State) (ia : W64) : Nat → Nat → W64 → WalkAcc → Tr Leaf
  | 0, _, _, _ => Tr.fail (fault .translation)
  | fuel + 1, level, table, wa => do
    let lo := levelLo cfg.g level
    let idx := if level = cfg.start then ia.toNat % 2 ^ cfg.insize / 2 ^ lo else ia.toNat / 2 ^ lo % 2 ^ (cfg.g - 3)
    let addr := table + BitVec.ofNat 64 (8 * idx)
    let raw ← port.read addr wa.ns
    let d := if cfg.big then byteSwap64 raw else raw
    match descKind cfg.g level cfg.wide d with
    | .invalid => Tr.fail (fault .translation)
    | .table =>
      let next := descAddr cfg.g cfg.ps cfg.g d
      if addrOutside next cfg.ps then Tr.fail (fault .addrSize)
      else
        let wa' : WalkAcc :=
          { apt := if cfg.had then wa.apt else wa.apt ||| fld d 61 2
            xnt := wa.xnt || (!cfg.had && bit d 60)
            pxnt := wa.pxnt || (!cfg.had && bit d 59)
            ns := wa.ns || (cfg.secure && bit d 63) }
        Tr.modify (note { desc := d, apt := wa'.apt, xnt := wa'.xnt, pxnt := wa'.pxnt, ns := wa'.ns, out := next.toNat, log2 := lo,
                          size := lo, level := level, tblNs := wa.ns })
        walkFrom cfg port acc perms fault note ia fuel (level + 1) next wa'
    | .leaf =>
      let out := descAddr cfg.g cfg.ps lo d
      if addrOutside out cfg.ps then Tr.fail (fault .addrSize)
      else
        let l : Leaf :=
          { desc := d, apt := wa.apt, xnt := wa.xnt, pxnt := wa.pxnt, ns := wa.ns || !cfg.secure || bit d 5
            out := out.toNat / 2 ^ lo * 2 ^ lo, log2 := lo, size := lo, level := level, tblNs := wa.ns }
        match ← leafStep cfg port acc perms fault addr wa.ns l with
        | some l => pure l
        | none => walkFrom cfg port acc perms fault note ia fuel level table wa

/-- The walk (R2003, R2010): from its starting table, or from a table descriptor that the walk cache holds. The steps that can
be repeated are at most one for each group of other agents' writes to come and two for the walk's own updates. -/
def walk (cfg : WalkCfg) (port : DescPort) (acc : Acc) (perms : Leaf → Perms) (fault : FKind → Flt)
    (note : Leaf → State → State) (cached : Option Leaf) (ia : W64) : Tr Leaf := do
  let n ← Tr.asks fun s => s.meanwhile.length
  match cached with
  | none =>
    walkFrom cfg port acc perms fault note ia (n + 8) cfg.start
      (alignDown cfg.base (baseAlign cfg.insize cfg.g cfg.start cfg.ps)) { apt := 0, xnt := false, pxnt := false, ns := cfg.ns }
  | some l =>
    walkFrom cfg port acc perms fault note ia (n + 8) (l.level + 1) (BitVec.ofNat 64 l.out)
      { apt := l.apt, xnt := l.xnt, pxnt := l.pxnt, ns := l.ns }

/-- The output address of a leaf for an input address. -/
def Leaf.apply (l : Leaf) (ia : W64) : W64 := BitVec.ofNat 64 (l.out + ia.toNat % 2 ^ l.log2)

/-- The bytes of a descriptor in its table's byte order. -/
def descBytes (big : Bool) (d : W64) : List Byte := leBytes 8 (if big then byteSwap64 d else d).toNat

/-- A descriptor read at a physical address for a stream, which the counters see (51 R1409); an abort is F_WALK_EABT with the
address (61 R1820). -/
def readDescPa (sec : Sec) (sid : BitVec 32) (eabt : W64 → Flt) (ns : Bool) (a : W64) (attrs : Attrs) : Tr W64 := do
  let oas ← Tr.asks State.oas
  let pa := truncTo a oas
  if ← spend then
    Tr.modify fun s => s.pmu 4 (some (sec, sid))
    match ← Tr.lift fun s => s.busRead sec .tt ns pa.toNat 8 attrs with
    | some v => pure (BitVec.ofNat 64 v)
    | none => Tr.fail (eabt pa)
  else Tr.fail (eabt pa)

/-- The atomic update of a descriptor at a physical address (R885): false where another agent has changed the descriptor since
the walk read it. PCIe space has no value to compare (20 R472). Of an operation that a RAS error cuts off any set of the updates
is performed (13 R306, 50 R1345). -/
def writeDescPa (sec : Sec) (sid : BitVec 32) (eabt : W64 → Flt) (big ns : Bool) (a : W64) (old d : W64) (attrs : Attrs) : Tr Bool := do
  let oas ← Tr.asks State.oas
  let pa := truncTo a oas
  let left ← spend
  let cut ← Tr.asks fun s => s.trail.budget.isSome
  let skip ← if cut then (do let x ← Tr.draw; pure (bit x 511)) else pure false
  if !left then Tr.fail (eabt pa)
  else if skip then pure true
  else
  Tr.modify fun s => (s.pmu 4 (some (sec, sid))).others
  let same ← Tr.asks fun s => s.pcieSpace ns pa.toNat 8 || s.load ns pa.toNat 8 == descBytes big old
  if !same then pure false
  else
    let ok ← Tr.lift fun s => s.busWrite sec .httu ns pa.toNat (descBytes big d) attrs
    if ok then pure true else Tr.fail (eabt pa)

/-! ### The TLB (27 R920 to R932, 70 R1960) -/

/-- The configuration through which a translation is made; `passive` says that HTTU is inhibited and nothing enters the TLB
(50_atos.md R1311, R1328), `regs` the register fields that its structures were read with (10 R150), `later`
that a split-stage ATS request leaves the updates of the final stage 2 descriptor to the Translated transaction (25 R890, 26 R941), `hold1` that stage 1 descriptors are not updated yet (25 R886). -/
structure Ctx where
  sec : Sec
  sid : BitVec 32
  ste : StructWord
  world : World
  cd : StructWord
  regs : CfgRegs
  passive : Bool := false
  later : Bool := false
  hold1 : Bool := false
  deriving DecidableEq, Repr, Inhabited

/-- The context of the final stage 2 step: passive where its updates are left to a later transaction; the Access flag alone
may still be set, by a draw (25 R890, U123). -/
def Ctx.final (c : Ctx) : Ctx := if c.later then { c with passive := true } else c

/-- The VMID tag (R920, 21 R600). -/
def State.vmidTag (s : State) (c : Ctx) : Option (BitVec 16) :=
  if c.world = .nsEL1 && s.s2p then some (Ste.s2vmid c.ste) else none

/-- Worlds that an implementation may not tell apart (R928, U141). -/
def World.el2Any : World → Bool
  | .el2 => true
  | .el2E2H => true
  | .nsEL1 => false
  | .secure => false
  | .el3 => false

/-- `lookup_match` (R932): a VA-input entry of one stage or of both serves any lookup of its tags. A hit on an entry
of the other EL2 regime is possible where the implementation shares their tag, by a draw `amb` (R928). -/
def State.tlbHit (s : State) (c : Ctx) (va amb : Bool) (a : W64) (e : TlbEnt) : Bool :=
  let shared := s.impl.el2E2hSharedTag && e.world.el2Any && c.world.el2Any && e.world != c.world
  e.last && (e.world == c.world || (shared && amb)) && e.s1.isSome == va && e.covers a &&
  (c.world != .nsEL1 || !s.s2p || e.vmid == s.vmidTag c) &&
  (!va || c.world.one || shared || (!e.glob && e.asid == some (Cd.asid c.cd)) || (e.glob && e.aset == Cd.aset c.cd))

/-- The entries that serve a lookup. -/
def tlbHits (c : Ctx) (va : Bool) (a : W64) : Tr (List TlbEnt) := do
  let shared ← Tr.asks fun s => s.impl.el2E2hSharedTag && c.world.el2Any
  let amb ← if shared then (do let x ← Tr.draw; pure (bit x 511)) else pure false
  Tr.asks fun s => s.tlb.filter (s.tlbHit c va amb a)

/-- What a lookup takes of its matches: nothing, the entry, or with more than one, by a draw, a conflict or any one of them (R1960). -/
def chooseHit {α : Type} (conflict : Flt) : List α → Tr (Option α)
  | [] => pure none
  | [x] => pure (some x)
  | x :: y :: ys => do
    let last ← Tr.asks fun s => s.impl.tlbConflictLast
    let e ← conflictOr last conflict x (y :: ys)
    pure (some e)

/-- F_TLB_CONFLICT of a lookup of an IPA (61 R1825). -/
def s2Conflict (ipa : W64) : Flt := { Flt.of .tlbConflict with s2 := true, ipa := ipa }

/-- Two entries with the same tags and range: the newer replaces the older. -/
def TlbEnt.sameTags (x y : TlbEnt) : Bool :=
  x.last == y.last && x.world == y.world && x.vmid == y.vmid && x.asid == y.asid && x.glob == y.glob && x.aset == y.aset &&
    x.base == y.base && x.log2 == y.log2 && x.s1.isSome == y.s1.isSome && x.s2.isSome == y.s2.isSome

/-- An entry enters the TLB unless the implementation has none (R482, R841). -/
def State.tlbInsert (s : State) (e : TlbEnt) : State :=
  if s.impl.tlbOn && s.smmuen (match e.world with | .secure => .s | .el3 => .s | _ => .ns) then
    { s with tlb := s.tlb.filter (fun x => !x.sameTags e) ++ [e] }
  else s

/-- An entry made through a context enters the TLB; one of a passive request, or of an operation that a RAS error cuts off, does
not (50_atos.md R1311). -/
def State.tlbInsertFor (s : State) (c : Ctx) (e : TlbEnt) : State :=
  if c.passive || s.trail.budget.isSome then s else s.tlbInsert e

/-- The global property of a stage 1 leaf (R924). -/
def Leaf.global (l : Leaf) (w : World) : Bool :=
  !bit l.desc 11 && !w.one && !(w == .secure && l.tblNs)

/-- log2 of the number of entries of a contiguous group, by the size of one (28 R2013). -/
def contigBits (log2 : Nat) : Nat :=
  if log2 = 12 ∨ log2 = 21 ∨ log2 = 30 then 4 else if log2 = 25 then 7 else if log2 = 14 ∨ log2 = 16 ∨ log2 = 29 then 5 else 0

/-- A leaf as a TLB entry keeps it: with the Contiguous bit it may stand for its whole group (R2013). -/
def State.widen (s : State) (l : Leaf) : Leaf :=
  if s.impl.contig && bit l.desc 52 then
    let n := l.log2 + contigBits l.log2
    { l with log2 := n, out := l.out / 2 ^ n * 2 ^ n }
  else l

/-- The entry of a translation (R920, R2024). -/
def State.tlbEntry (s : State) (c : Ctx) (a : W64) (l1 l2 : Option Leaf) : TlbEnt :=
  let l1 := l1.map s.widen
  let l2 := l2.map s.widen
  let n := match l1, l2 with
    | some x, some y => min x.log2 y.log2
    | some x, none => x.log2
    | none, some y => y.log2
    | none, none => 0
  let glob := match l1 with
    | some x => x.global c.world
    | none => false
  { last := true, ste := c.ste, cd := c.cd, world := c.world, vmid := s.vmidTag c,
    asid := if l1.isSome && !c.world.one && !glob then some (Cd.asid c.cd) else none,
    glob := glob, aset := l1.isSome && Cd.aset c.cd, base := alignDown a n, log2 := n, s1 := l1, s2 := l2,
    sif := c.regs.sif, vmw := s.vmw }

/-! ### The walk cache (10 R151, 20 R480) and the fields an entry may keep -/

/-- The walk-cache entry of a table descriptor met on the way to an input address. -/
def State.walkEntry (s : State) (c : Ctx) (va : Bool) (a : W64) (l : Leaf) : TlbEnt :=
  { last := false, ste := c.ste, cd := c.cd, world := c.world, vmid := s.vmidTag c,
    asid := if va && !c.world.one then some (Cd.asid c.cd) else none, glob := false, aset := va && Cd.aset c.cd,
    base := alignDown a l.log2, log2 := l.log2, s1 := if va then some l else none, s2 := if va then none else some l,
    sif := c.regs.sif, vmw := s.vmw }

/-- A table descriptor that was walked through is remembered, if it is of the transaction's own translation (`own`; 20 R480
item 3), and enters the walk cache. -/
def State.walkNote (s : State) (c : Ctx) (va own : Bool) (a : W64) (l : Leaf) : State :=
  let e := s.walkEntry c va a l
  let s := if own then s.noteTlb e else s
  if s.impl.walkCache then s.tlbInsertFor c e else s

/-- Whether a walk-cache entry serves a walk. -/
def State.walkHit (s : State) (c : Ctx) (va : Bool) (a : W64) (e : TlbEnt) : Bool :=
  !e.last && e.world == c.world && e.s1.isSome == va && e.covers a && (c.world != .nsEL1 || !s.s2p || e.vmid == s.vmidTag c) &&
    (!va || c.world.one || e.asid == some (Cd.asid c.cd))

/-- The walk starts at a table that the walk cache holds, or at its starting table, by a draw. -/
def walkLookup (c : Ctx) (va own : Bool) (a : W64) : Tr (Option Leaf) := do
  let hits ← Tr.asks fun s => if s.impl.walkCache then s.tlb.filter (s.walkHit c va a) else []
  if hits.isEmpty then pure none
  else
    let x ← Tr.draw
    match hits[(fld x 0 64).toNat % (hits.length + 1)]? with
    | none => pure none
    | some e =>
      Tr.modify fun s => if own then s.useTlb.noteTlb e else s.useTlb
      pure (if va then e.s1 else e.s2)

/-- The fields of a CD that a TLB entry may keep and that count after the walk (22_structures_cd.md R758): AA64, HA, HD, WXN,
UWXN, PAN, MAIR. -/
def cdKept : StructWord := maskOf 512 36 2 ||| maskOf 512 40 4 ||| maskOf 512 192 64
/-- The fields of an STE likewise (21_structures_ste.md R628): S2AA64, S2PTW, S2HD, S2HA. -/
def steKept : StructWord := maskOf 512 179 1 ||| maskOf 512 182 3

/-- The fields of a CD that decide by which input addresses an entry is found, likewise: TxSZ, TGx, TBI, AA64. -/
def cdRegion : StructWord := maskOf 512 0 8 ||| maskOf 512 16 8 ||| maskOf 512 38 2 ||| maskOf 512 41 1

/-- The effective VA that tags an entry; a VA outside the tables has none. -/
def State.effVa (s : State) (c : Ctx) (va : W64) : Option W64 := (s.s1Select c.world c.cd va).map fun t => t.2.2

/-- The entries that a VA finds by the TxSZ and TBI that they were made with, where those differ from the CD's (22 R758). -/
def State.keptHits (s : State) (c : Ctx) (va : W64) : List (W64 × TlbEnt) :=
  s.tlb.filterMap fun e =>
    let cd := mergeMask cdRegion c.cd e.cd
    if cd == c.cd then none
    else (s.effVa { c with cd := cd } va).bind fun ia => if s.tlbHit c true false ia e then some (ia, e) else none

/-- The lookup of a VA: the effective VA and the entry. The entries that the VA finds by the TxSZ and TBI which they kept match beside
those that it finds by the CD's, or do not, by a draw; of several matches one is taken as R1960 says. A VA that lies outside the tables
and finds no entry is a Translation fault. -/
def tlbLookupVa (c : Ctx) (va : W64) : Tr (Option (W64 × TlbEnt)) := do
  let kept ← Tr.asks fun s => s.keptHits c va
  let x ← if kept.isEmpty then pure 0 else Tr.draw
  let kept := if bit x 511 then kept else []
  let own ← match ← Tr.asks fun s => s.effVa c va with
    | none => if kept.isEmpty then Tr.fail (Flt.st1 .translation) else pure []
    | some ia => do
      let hits ← tlbHits c true ia
      pure (hits.map fun e => (ia, e))
  chooseHit (Flt.of .tlbConflict) (kept ++ own.filter fun h => !kept.any fun k => k.2 == h.2)

/-- The SIF that counts with a hit: that of the entry or that of the configuration, by a draw where they differ (12 R358). -/
def keptSif (c : Ctx) (e : TlbEnt) : Tr Bool := do
  if e.sif == c.regs.sif then pure e.sif
  else
    let x ← Tr.draw
    pure (if bit x 511 then e.sif else c.regs.sif)

/-- The context of a hit: those fields as the entry keeps them or as the structures hold them now, by a draw where they differ
(20_memory.md R490). -/
def keptCtx (c : Ctx) (e : TlbEnt) : Tr Ctx := do
  let cd := mergeMask cdKept c.cd e.cd
  let ste := mergeMask steKept c.ste e.ste
  if (cd == c.cd || e.s1.isNone) && (ste == c.ste || e.s2.isNone) then pure c
  else
    let x ← Tr.draw
    pure (if bit x 511 then { c with cd := if e.s1.isSome then cd else c.cd, ste := if e.s2.isSome then ste else c.ste } else c)

/-! ### Stage 2 (23 R808, R840, R853) -/

/-- F_WALK_EABT of a stage 2 descriptor, with the purpose of the translation as its class (61 R1820). -/
def eabtS2 (e : StructWord) (cls : FClass) (pa : W64) : Flt :=
  { Flt.of .walkEabt with s2 := true, cls := cls, fetchAddr := pa, aa32 := !Ste.s2aa64 e }

/-- The stage 2 walk parameters of an STE (21 R601 to R613). -/
def State.s2Cfg (s : State) (passive : Bool) (e : StructWord) : WalkCfg :=
  { base := Ste.s2ttb s.v31 e, insize := s.s2InputSize e, g := (Ste.s2gran e).getD 12, start := (s2StartLevel e).getD 1,
    ps := s.s2psEff e, big := Ste.s2endi e, attrs := walkAttrs (Ste.s2ir0 e) (Ste.s2or0 e) (Ste.s2sh0 e), had := true,
    ns := true, secure := false, ha := Ste.s2aa64 e && Ste.s2ha e, affd := Ste.s2affd e,
    plainAttrs := !bit (Ste.s2ir0 e) 0 || !bit (Ste.s2or0 e) 0, wide := s.v31 && decide (s.oas = 52),
    passive := passive, passiveReport := s.impl.atosHttuiAfFault }

/-- The memory type of a stage 2 leaf is Device (21 R610). -/
def Leaf.s2Device (l : Leaf) : Bool := (memattrDecode (fld l.desc 2 4)).isDevice

/-- Stage 2 permissions for a purpose: a structure or a descriptor is not fetched from Device memory with S2PTW (21 R610). -/
def State.s2PermsFor (s : State) (cls : FClass) (e : StructWord) (l : Leaf) (priv : Bool) : Perms :=
  if Ste.s2ptw e && Ste.cfgS1 e && cls != .inn && l.s2Device then Perms.none else s.s2Perms e l priv

/-- The entries whose own S2T0SZ admits an IPA that the STE's does not may still match, by a draw (21 R628). -/
def keptIpa (c : Ctx) (ipa : W64) : Tr (List TlbEnt) := do
  let hits ← Tr.asks fun s => s.tlb.filter fun e => s.tlbHit c false false ipa e && !addrOutside ipa (s.s2InputSize e.ste)
  let x ← if hits.isEmpty then pure 0 else Tr.draw
  pure (if bit x 511 then hits else [])

/-- `stage2_translate` (R867): the leaf for an IPA, from the TLB or by a walk. A walk for a structure or a descriptor on the way is a
walk that was begun, too (51 R1409). -/
def stage2Translate (c : Ctx) (ipa : W64) (acc : Acc) (cls : FClass) : Tr Leaf := do
  let s0 ← Tr.asks id
  let fault := fun k => Flt.st2 k cls ipa (!acc.wr)
  let cfg := s0.s2Cfg c.passive c.ste
  let cfg := { cfg with passiveReport := cfg.passiveReport && !c.later }
  let outside := addrOutside ipa cfg.insize
  let hits ← if outside then keptIpa c ipa else tlbHits c false ipa
  let hit ← chooseHit (s2Conflict ipa) hits
  let l ← match hit with
    | none => pure none
    | some x => found s0 fault x
  match l with
  | some l => pure l
  | none => if outside then Tr.fail (fault .translation) else miss s0 fault cfg
where
  /-- The leaf of a hit; none where the descriptor must be updated. -/
  found (s0 : State) (fault : FKind → Flt) (x : TlbEnt) : Tr (Option Leaf) := do
    match x.s2 with
    | none => pure none
    | some l =>
      let k ← keptCtx c x
      let p := s0.s2PermsFor cls k.ste l acc.priv
      if acc.dirties p then pure none
      else
      Tr.modify State.useTlb
      if acc.ok p && !acc.grantsNone p then
        if cls == .inn then Tr.modify fun s => s.noteTlb x
        pure (some l)
      else Tr.fail (acc.denied p (fault .permission))
  miss (s0 : State) (fault : FKind → Flt) (cfg : WalkCfg) : Tr Leaf := do
    Tr.modify State.beginWalk
    let port : DescPort :=
      { read := fun a _ => readDescPa c.sec c.sid (eabtS2 c.ste cls) true a cfg.attrs
        write := fun a _ old d => writeDescPa c.sec c.sid (eabtS2 c.ste cls) cfg.big true a old d cfg.attrs }
    let cached ← walkLookup c false (cls == .inn) ipa
    let perms := fun l => s0.s2PermsFor cls c.ste l acc.priv
    let l ← walk cfg port acc perms fault (fun l s => s.walkNote c false (cls == .inn) ipa l) cached ipa
    if acc.grantsNone (perms l) then Tr.fail (fault .permission)
    else
      Tr.modify fun s => s.tlbInsertFor c (s.tlbEntry c ipa none (some l))
      pure l

/-- The physical address of an IPA through a stage 2 leaf, truncated to the OAS (R808). -/
def State.s2Out (s : State) (l : Leaf) (ipa : W64) : W64 := truncTo (l.apply ipa) s.oas

/-- The attributes of a stage 2 leaf (24 R980). -/
def Leaf.s2Attrs (l : Leaf) : Attrs := Machine.s2Attrs (fld l.desc 2 4) (fld l.desc 8 2)

/-- Where a structure or a stage 1 descriptor at an address of the stage's output side lies: with stage 2 it is translated
for the access and its attributes combine (R822). -/
def structPa (c : Ctx) (a : W64) (acc : Acc) (cls : FClass) (attrs : Attrs) : Tr (W64 × Attrs) := do
  if Ste.cfgS2 c.ste then
    let l ← stage2Translate c a acc cls
    let pa ← Tr.asks fun s => s.s2Out l a
    pure (pa, combineAttrs attrs l.s2Attrs)
  else pure (a, attrs)

/-! ### Stage 1 (23 R803, R807, R851, R852) -/

/-- F_WALK_EABT of a stage 1 descriptor: S2 == 0, CLASS == TT (61 R1820). -/
def eabtS1 (cd : StructWord) (pa : W64) : Flt := { Flt.of .walkEabt with cls := .tt, fetchAddr := pa, aa32 := !Cd.aa64 cd }

/-- The stage 1 walk parameters of a table of a CD (22 R706 to R738). -/
def State.s1Cfg (s : State) (c : Ctx) (x : Bool) (insize : Nat) : WalkCfg :=
  let g := cdGran c.cd x
  { base := Cd.ttb s.v31 c.cd x, insize := insize, g := g, start := startLevel insize g, ps := s.ipsEff c.cd, big := Cd.endi c.cd,
    attrs := walkAttrs (Cd.ir c.cd x) (Cd.or c.cd x) (Cd.sh c.cd x), had := s.hadImpl && Cd.had c.cd x,
    ns := c.sec == .ns || Cd.nscfg c.cd x, secure := c.sec == .s, ha := Cd.aa64 c.cd && Cd.ha c.cd, affd := Cd.affd c.cd,
    plainAttrs := !bit (Cd.ir c.cd x) 0 || !bit (Cd.or c.cd x) 0, wide := s.v31 && decide (s.oas = 52),
    passive := c.passive || c.hold1, passiveReport := s.impl.atosHttuiAfFault && !c.hold1 }

/-- How stage 1 reaches its descriptors: at physical addresses, or at IPAs that stage 2 translates, for a write where the
descriptor is updated; with a draw a Writable Clean stage 2 page that is otherwise accessible becomes dirty in anticipation (25
R883, R886, U122). -/
def s1Port (c : Ctx) (cfg : WalkCfg) : DescPort :=
  { read := fun a ns => do
      let ahead ← if Ste.cfgS2 c.ste && Ste.s2hd c.ste && cfg.ha && !c.passive then (do let x ← Tr.draw; pure (bit x 511)) else pure false
      if ahead then Tr.modify fun s => (stage2Translate c a { Acc.fetch with wr := true } .tt s).2
      let (pa, attrs) ← structPa c a Acc.fetch .tt cfg.attrs
      readDescPa c.sec c.sid (eabtS1 c.cd) ns pa attrs
    write := fun a ns old d => do
      let (pa, attrs) ← structPa c a { Acc.fetch with wr := true } .tt cfg.attrs
      writeDescPa c.sec c.sid (eabtS1 c.cd) cfg.big ns pa old d attrs }

/-- `stage1_translate` by a walk (R867): the leaf for a VA. With EPDx no walk begins. -/
def stage1Walk (c : Ctx) (va : W64) (acc : Acc) : Tr (W64 × Leaf) := do
  let s0 ← Tr.asks id
  match s0.s1Select c.world c.cd va with
  | none => Tr.fail (Flt.st1 .translation)
  | some (x, insize, ia) =>
    if epdEff c.world c.cd x then Tr.fail (Flt.st1 .translation)
    else
      Tr.modify State.beginWalk
      let cfg := s0.s1Cfg c x insize
      let cached ← walkLookup c true true ia
      let l ← walk cfg (s1Port c cfg) acc (fun l => s1Perms c.world c.cd l acc.priv) Flt.st1
        (fun l s => s.walkNote c true true ia l) cached ia
      pure (ia, l)

/-- A VA through stage 1 alone, whether or not stage 2 follows (50_atos.md R1327): the effective VA, the leaf, the CD used and the
SIF that counts. -/
def stage1Only (c : Ctx) (va : W64) (acc : Acc) : Tr (W64 × Leaf × StructWord × Bool) := do
  match ← tlbLookupVa c va with
  | none => miss
  | some (ia, e) =>
    match e.s1 with
    | none => miss
    | some l1 =>
      let k ← keptCtx c e
      let sif ← keptSif c e
      let p1 := s1Perms c.world k.cd l1 acc.priv
      if acc.dirties p1 then miss
      else if acc.ok p1 then pure (ia, l1, k.cd, sif)
      else Tr.fail (acc.denied p1 (Flt.st1 .permission))
where
  miss : Tr (W64 × Leaf × StructWord × Bool) := do
    let (ia, l1) ← stage1Walk c va acc
    pure (ia, l1, c.cd, c.regs.sif)

/-- The result of a translation: the address that leaves, the effective input address and the IPA, the leaves used, the
structures whose fields count for them, and the SIF that counts (12 R358). -/
structure XRes where
  pa : W64
  ia : W64
  ipa : W64
  cd : StructWord
  ste : StructWord
  l1 : Option Leaf
  l2 : Option Leaf
  sif : Bool
  deriving DecidableEq, Repr, Inhabited

/-- What stage 2 is asked for: of a request that only asks, what stage 1 grants and no more (25 R890, 26 R914). That stage 1 is
marked Dirty although stage 2 then gives no write is the model's choice (log entry 45, DESIGN CHOICE). -/
def Acc.second (acc : Acc) (p1 : Perms) : Acc :=
  if acc.soft then { acc with wr := acc.wr && p1.w, cap := p1, cleanW := acc.split } else acc

/-- A nested walk whose final stage 2 step faults, with the stage 1 descriptor not updated: the fault, or nothing where that
step does not fault (25 R886: the update is permitted, not required). -/
def heldFault (c : Ctx) (va : W64) (acc : Acc) : Tr Unit := fun s =>
  let c' := { c with hold1 := true }
  match stage1Walk c' va acc s with
  | (.error _, _) => (.ok (), s)
  | (.ok (ia, l1), s') =>
    let p1 := s1Perms c.world c.cd l1 acc.priv
    if acc.grantsNone p1 then (.ok (), s)
    else
      match stage2Translate c.final (l1.apply ia) (acc.second p1) .inn s' with
      | (.error f, s') => (.error f, s')
      | (.ok _, _) => (.ok (), s)

/-- A VA through stage 1 and, where the STE says so, stage 2 (R830 steps 4 and 5): from the TLB, or by walks whose result
enters it. -/
def vaTranslate (c : Ctx) (va : W64) (acc : Acc) : Tr XRes := do
  let s0 ← Tr.asks id
  match ← tlbLookupVa c va with
  | none => miss s0
  | some (ia, e) =>
    match e.s1 with
    | none => miss s0
    | some l1 =>
      let k ← keptCtx c e
      let sif ← keptSif c e
      let p1 := s1Perms c.world k.cd l1 acc.priv
      let ipa := l1.apply ia
      if acc.dirties p1 then miss s0
      else if acc.grantsNone p1 then Tr.fail (Flt.st1 .permission)
      else if !acc.ok p1 then Tr.fail (acc.denied p1 (Flt.st1 .permission))
      else
        match e.s2 with
        | none =>
          Tr.modify fun s => s.useTlb.noteTlb e
          pure { pa := truncTo ipa s0.oas, ia := ia, ipa := ipa, cd := k.cd, ste := k.ste, l1 := some l1, l2 := none, sif := sif }
        | some l2 =>
          let acc2 := acc.second p1
          let p2 := s0.s2Perms k.ste l2 acc.priv
          if acc2.dirties p2 then miss s0
          else if !acc2.ok p2 || acc2.grantsNone p2 then Tr.fail (acc2.denied p2 (Flt.st2 .permission .inn ipa (!acc.wr)))
          else
            Tr.modify fun s => s.useTlb.noteTlb e
            pure { pa := s0.s2Out l2 ipa, ia := ia, ipa := ipa, cd := k.cd, ste := k.ste, l1 := some l1, l2 := some l2, sif := sif }
where
  miss (s0 : State) : Tr XRes := do
    let nested := Ste.cfgS2 c.ste
    let held ← if nested && Cd.ha c.cd && !c.passive then (do let x ← Tr.draw; pure (bit x 511)) else pure false
    if held then heldFault c va acc
    let (ia, l1) ← stage1Walk c va acc
    let ipa := l1.apply ia
    let p1 := s1Perms c.world c.cd l1 acc.priv
    if acc.grantsNone p1 then Tr.fail (Flt.st1 .permission)
    else if nested then
      let l2 ← stage2Translate c.final ipa (acc.second p1) .inn
      Tr.modify fun s => s.tlbInsertFor c.final (s.tlbEntry c ia (some l1) (some l2))
      pure { pa := s0.s2Out l2 ipa, ia := ia, ipa := ipa, cd := c.cd, ste := c.ste, l1 := some l1, l2 := some l2, sif := c.regs.sif }
    else
      Tr.modify fun s => s.tlbInsertFor c (s.tlbEntry c ia (some l1) none)
      pure { pa := truncTo ipa s0.oas, ia := ia, ipa := ipa, cd := c.cd, ste := c.ste, l1 := some l1, l2 := none, sif := c.regs.sif }

end Sys2Proof.Machine
end

