-- ==== Sys2Proof/Machine/Lookup.lean ====
section
/-! DEFINITION. Configuration lookup: the Stream table, the choice of a Context Descriptor, its fetch, and the configuration
cache (23_translation.md R810 to R824, 20_memory.md R470, R477, R486). -/
namespace Sys2Proof.Machine

/-- A structure enters CfgCache unless the implementation has none; it replaces an entry of the same place. -/
def State.cfgInsert (s : State) (e : CfgEnt) : State :=
  if s.impl.cfgCacheOn && s.smmuen e.sec then
    { s with cfgCache := s.cfgCache.filter (fun x =>
        !(x.kind == e.kind && x.sec == e.sec && (x.sid == e.sid || e.kind == .ste || e.kind == .l1std) &&
          x.lo == e.lo && x.hi == e.hi)) ++ [e] }
  else s

/-- The cached Stream table structures that serve a StreamID. -/
def State.cfgSteHits (s : State) (kind : CfgKind) (sec : Sec) (sid : BitVec 32) : List CfgEnt :=
  s.cfgCache.filter fun e => e.kind == kind && e.sec == sec && decide (e.lo ≤ sid.toNat) && decide (sid.toNat ≤ e.hi)

/-- The cached CD table structures of a stream that serve a SubstreamID. -/
def State.cfgCdHits (s : State) (kind : CfgKind) (sec : Sec) (sid : BitVec 32) (idx : Nat) : List CfgEnt :=
  s.cfgCache.filter fun e => e.kind == kind && e.sec == sec && e.sid == sid && decide (e.lo ≤ idx) && decide (idx ≤ e.hi)

/-- A structure that was read enters CfgCache: a usable one, and one that is invalid or ILLEGAL where the implementation caches
structures in any state (20_memory.md R477, 21_structures_ste.md R622). -/
def State.cfgKeep (s : State) (usable : Bool) (e : CfgEnt) : State :=
  if usable || s.impl.cfgCacheInvalid then s.cfgInsert e else s

/-- The register fields that a configuration cache may hold, as they are now (10_state.md R150). -/
def State.cfgRegs (s : State) (sec : Sec) : CfgRegs :=
  { table := fld (s.iface sec).cr1 6 6, e2h := s.e2h, nsstalld := bit s.s.cr0Eff 9, sif := s.sif,
    atschk := bit s.ns.cr0Eff 4 }

/-- Those fields for a fetch: E2H is the old or the new one, by a draw, from a write of CR2 until SMMUEN has completed its Update to
1 (11 R232, U42). -/
def freshRegs (sec : Sec) : Tr CfgRegs := do
  let s ← Tr.asks id
  if s.e2hOpen then
    let x ← Tr.draw
    pure { s.cfgRegs sec with e2h := bit x 511 }
  else pure (s.cfgRegs sec)

/-- The machine as a structure read with those fields sees it. -/
def State.view (s : State) (sec : Sec) (r : CfgRegs) : State :=
  let s := s.setIface sec { s.iface sec with cr1 := setFld (s.iface sec).cr1 6 r.table }
  { s with ns := { s.ns with cr2Eff := setBit s.ns.cr2Eff 0 r.e2h, cr0Eff := setBit s.ns.cr0Eff 4 r.atschk },
           s := { s.s with cr0Eff := setBit (setBit s.s.cr0Eff 9 r.nsstalld) 5 r.sif } }

/-- The register fields that count for a cached structure: each as it was at the fetch or as it is now, by a draw where they
differ (10_state.md R150), but ATSCHK always as it was at the fetch (26 R907, R916). -/
def hitRegs (sec : Sec) (old : CfgRegs) : Tr CfgRegs := do
  let now ← freshRegs sec
  let now := { now with atschk := old.atschk }
  if old == now then pure now
  else
    let x ← Tr.draw
    pure { table := if bit x 0 then old.table else now.table, e2h := if bit x 1 then old.e2h else now.e2h,
           nsstalld := if bit x 2 then old.nsstalld else now.nsstalld, sif := if bit x 3 then old.sif else now.sif,
           atschk := old.atschk }

/-- A structure of `n` bytes is read for a stream: event 5 of the counters, and the read of an STE or CD where it is one (51 R1409). -/
def State.structEvent (s : State) (sec : Sec) (sid : BitVec 32) (n : Nat) : State :=
  (if n = 64 then s.beginFetch else s).pmu 5 (some (sec, sid))

/-- A read of the Stream table for a stream, which the counters see, with the attributes of CR1.TABLE_* in `r`: truncated to the OAS, or F_STE_FETCH, when out of
range (20 R470 case 5); an abort is F_STE_FETCH (61 R1812). -/
def readSte (sec : Sec) (sid : BitVec 32) (r : CfgRegs) (a : W64) (n : Nat) : Tr Nat := do
  let s ← Tr.asks id
  let bad := fun (x : W64) => { Flt.of .steFetch with fetchAddr := x }
  if addrOutside a s.oas && !s.impl.oorStePtrTruncate then Tr.fail (bad a)
  else
    let pa := truncTo a s.oas
    if !(← spend) then Tr.fail (bad pa)
    Tr.modify fun s => s.structEvent sec sid n
    match ← Tr.lift fun s => s.structRead sec .ste sec.isNs pa.toNat n ((s.view sec r).iface sec).tableAttrs with
    | some v => pure v
    | none => Tr.fail (bad pa)

/-- The L1STD of a StreamID, from the cache or from memory (R815), with the register fields that go with it. -/
def getL1std (sec : Sec) (sid : BitVec 32) : Tr (W64 × CfgRegs) := do
  let s ← Tr.asks id
  match s.cfgSteHits .l1std sec sid with
  | e :: _ =>
    let r ← hitRegs sec e.regs
    Tr.modify fun s => s.useCfg e
    pure (fld e.data 0 64, r)
  | [] =>
    let split := s.strtabSplit sec
    let i := sid.toNat / 2 ^ split
    let r ← freshRegs sec
    let v ← readSte sec sid r (s.strtabBase sec + BitVec.ofNat 64 (8 * i)) 8
    let d := BitVec.ofNat 64 v
    let e : CfgEnt := { kind := .l1std, sec := sec, sid := 0, lo := i * 2 ^ split, hi := i * 2 ^ split + 2 ^ split - 1,
                        data := BitVec.ofNat 512 v, regs := r }
    Tr.modify fun s => (s.cfgKeep (l1stdOk d sid.toNat split) e).noteCfg e
    pure (d, r)

/-- The address of the STE of a StreamID (R814, R815), with the register fields that go with the table. -/
def steAddr (sec : Sec) (sid : BitVec 32) : Tr (W64 × CfgRegs) := do
  let s ← Tr.asks id
  if s.strtab2 sec then
    let (d, r) ← getL1std sec sid
    let split := s.strtabSplit sec
    if l1stdOk d sid.toNat split then pure (l1stdPtr s.v31 d + BitVec.ofNat 64 (64 * (sid.toNat % 2 ^ split)), r)
    else Tr.fail (Flt.of .badStreamId)
  else
    let r ← freshRegs sec
    pure (s.strtabBase sec + BitVec.ofNat 64 (64 * sid.toNat), r)

/-- An STE may be used: V == 1 and not ILLEGAL (R818). -/
def State.steUsable (s : State) (sec : Sec) (r : CfgRegs) (e : StructWord) : Bool := Ste.v e && !(s.view sec r).steIllegal sec e

/-- The StreamIDs that a cached STE serves: its own, or the span of CONT within the table (21 R574); of one that is invalid or ILLEGAL
CONT is ignored (R563, R565). -/
def State.steSpan (s : State) (sec : Sec) (sid : BitVec 32) (r : CfgRegs) (e : StructWord) : Nat × Nat :=
  if s.impl.steCont && s.steUsable sec r e then
    let n := 2 ^ Ste.cont e
    let lo := sid.toNat / n * n
    (lo, min (lo + n - 1) (2 ^ min (s.strtabLog2 sec) (s.sidSize sec) - 1))
  else (sid.toNat, sid.toNat)

/-- An STE that may not be used is C_BAD_STE (R818). -/
def checkSte (sec : Sec) (r : CfgRegs) (e : StructWord) : Tr Unit := do
  let ok ← Tr.asks fun s => s.steUsable sec r e
  if ok then pure () else Tr.fail (Flt.of .badSte)

/-- The STE of a StreamID is read from memory and cached. ATSCHK is that of the fetch, whatever a cached L1STD was fetched under (26
R907, R916). -/
def fetchSte (sec : Sec) (sid : BitVec 32) : Tr (StructWord × CfgRegs) := do
  let (a, r) ← steAddr sec sid
  let chk ← Tr.asks fun s => bit s.ns.cr0Eff 4
  let r := { r with atschk := chk }
  let v ← readSte sec sid r a 64
  let e : StructWord := BitVec.ofNat 512 v
  Tr.modify fun s =>
    let span := s.steSpan sec sid r e
    let x : CfgEnt := { kind := .ste, sec := sec, sid := sid, lo := span.1, hi := span.2, data := e, regs := r }
    (s.cfgKeep (s.steUsable sec r e) x).noteCfg x
  pure (e, r)

/-- The bits of an STE by which two cached ones differ: those of its defined fields but CONT (21 R574), not the IMPLEMENTATION DEFINED
ones (R597), and no reserved ones where these are ignored (R551). Res S/W, which the SMMU ignores (R578), does not count either; a field
that is IGNORED for the value of another one does (log entry 33, DESIGN CHOICE). -/
def State.steBits (s : State) : StructWord :=
  ~~~(maskOf 512 77 4 ||| maskOf 512 84 4 ||| maskOf 512 116 12 ||| maskOf 512 144 16 ||| maskOf 512 256 16 |||
    if s.impl.structRes0Check then 0 else Ste.res0 s.v31)

/-- The cached STE of a StreamID, if there is one. Several that differ are a conflict or any one of them is used, by a draw (21
R574). -/
def cachedSte (sec : Sec) (sid : BitVec 32) : Tr (Option CfgEnt) := do
  let s ← Tr.asks id
  match s.cfgSteHits .ste sec sid with
  | [] => pure none
  | c :: cs =>
    let e ← if cs.all fun x => x.data &&& s.steBits == c.data &&& s.steBits then pure c
      else conflictOr s.impl.cfgConflictLast (Flt.of .cfgConflict) c cs
    Tr.modify fun s => s.useCfg e
    pure (some e)

/-- A new operation begins: nothing is used yet. -/
def State.freshTrail (s : State) : State := { s with trail := { Trail.empty with budget := s.trail.budget, past := s.trail.past } }

/-- The misses of an operation of a stream that is over (51 R1409): event 2 where a walk began and no entry of the TLB was used, event 3
where an STE or CD was read and no structure of the configuration cache was used. -/
def State.countMisses (s : State) (sec : Sec) (sid : BitVec 32) : State :=
  let src := some (sec, sid)
  let s := if s.trail.walked && !s.trail.tlbUsed then s.pmu 2 src else s
  if s.trail.fetched && !s.trail.cfgUsed then s.pmu 3 src else s

/-- The end of a walk: a conflict that gave way to the other events of the transaction and met none (93 U83). -/
def endWalk : Tr Unit := do
  match ← Tr.asks fun s => s.trail.conflict with
  | none => pure ()
  | some f => Tr.fail f

/-- `get_ste` (R818) with the register fields that go with it (11 R215). -/
def getSte (sec : Sec) (sid : BitVec 32) : Tr (StructWord × CfgRegs) := do
  Tr.modify State.freshTrail
  match ← cachedSte sec sid with
  | some c =>
    let r ← hitRegs sec c.regs
    checkSte sec r c.data
    pure (c.data, r)
  | none =>
    let ok ← Tr.asks fun s => s.sidInRange sec sid
    if !ok then Tr.fail (Flt.of .badStreamId)
    else
      let (e, r) ← fetchSte sec sid
      checkSte sec r e
      pure (e, r)

/-- What `cd_select` finds: no stage 1, or the CD at an index (R820). -/
inductive CdSel where
  | bypass
  | cd (idx : Nat)
  deriving DecidableEq, Repr, Inhabited

/-- `cd_select` (R820). -/
def cdSelect (e : StructWord) (ssv : Bool) (ssid : BitVec 20) : Tr CdSel := do
  let s ← Tr.asks id
  let sub := s.subEnabled e
  let bad := { Flt.of .badSubstreamId with ssid := some (if ssv then ssid else 0) }
  if ssv && (!sub || decide (2 ^ Ste.s1cdmax e ≤ ssid.toNat)) then Tr.fail bad
  else if !Ste.cfgS1 e then pure .bypass
  else if !sub then pure (.cd 0)
  else if !ssv then
    (if Ste.s1dss e = 1 then pure .bypass
     else if Ste.s1dss e = 2 then pure (.cd 0)
     else Tr.fail (Flt.of .streamDisabled))
  else if ssid = 0 && Ste.s1dss e = 2 then Tr.fail (Flt.of .streamDisabled)
  else pure (.cd ssid.toNat)

/-- `s1c_attrs` (R824, 21 R571). -/
def steS1cAttrs (e : StructWord) : Attrs := s1cAttrs (Ste.s1cir e) (Ste.s1cor e) (Ste.s1csh e)

/-- The calculated address of a CD or an L1CD outside the range of its address space (20 R470 cases 1 to 4): it is used as it is,
truncated, or `bad` is raised; a fetch fault reports the whole address (R471). -/
def oorPtr (e : StructWord) (a : W64) (bad : Flt) : Tr W64 := do
  let s ← Tr.asks id
  if Ste.cfgS2 e then
    if !addrOutside a s.ias then pure a
    else match s.impl.oorCdIpa with
      | .badStruct => Tr.fail bad
      | .s2FaultFull => pure a
      | .truncate => if s.v31 then pure a else pure (truncTo a s.ias)
  else if !addrOutside a s.oas then pure a
  else if s.v31 then Tr.fail bad
  else match s.impl.oorCdPtr with
    | .fetchFault => Tr.fail { Flt.of .cdFetch with fetchAddr := a, whole := true }
    | .badStruct => Tr.fail bad
    | .truncate => pure (truncTo a s.oas)

/-- `struct_read` of CD tables (R822), which the counters see; an abort is F_CD_FETCH (61 R1818). -/
def readCd (c : Ctx) (a : W64) (n : Nat) : Tr Nat := do
  let (pa, attrs) ← structPa c a Acc.fetch .cd (steS1cAttrs c.ste)
  let oas ← Tr.asks State.oas
  let bad := { Flt.of .cdFetch with fetchAddr := truncTo pa oas }
  if !(← spend) then Tr.fail bad
  Tr.modify fun s => s.structEvent c.sec c.sid n
  match ← Tr.lift fun s => s.structRead c.sec .cd c.sec.isNs (truncTo pa oas).toNat n attrs with
  | some v => pure v
  | none => Tr.fail bad

/-- log2 of the CDs of a leaf table: 64 with 4KB leaves, 1024 with 64KB leaves (R821, 21 R567). -/
def l1cdBits (e : StructWord) : Nat := if Ste.s1fmt e = 1 then 6 else 10

/-- The table that S1ContextPtr points to has two levels (21 R567). -/
def State.cdTwoLevel (s : State) (e : StructWord) : Bool := s.subEnabled e && (Ste.s1fmt e == 1#2 || Ste.s1fmt e == 2#2)

/-- `fetch_l1cd` (R823), from the cache or from memory; the descriptor is valid. -/
def getL1cd (c : Ctx) (idx : Nat) : Tr W64 := do
  let s ← Tr.asks id
  let bad := { Flt.of .badSubstreamId with ssid := some (BitVec.ofNat 20 idx) }
  match s.cfgCdHits .l1cd c.sec c.sid idx with
  | x :: _ =>
    Tr.modify fun s => s.useCfg x
    if l1cdV (fld x.data 0 64) then pure (fld x.data 0 64) else Tr.fail bad
  | [] =>
    let bits := l1cdBits c.ste
    let max := Ste.s1cdmax c.ste
    let i := if max ≤ bits then 0 else idx / 2 ^ bits
    let p := Ste.s1ptr s.v31 c.ste
    let p := if max > bits + 3 then alignDown p (max - bits + 3) else p
    let a ← oorPtr c.ste (p + BitVec.ofNat 64 (8 * i)) (Flt.of .badSte)
    let v ← readCd c a 8
    let d := BitVec.ofNat 64 v
    let x : CfgEnt := { kind := .l1cd, sec := c.sec, sid := c.sid, lo := i * 2 ^ bits, hi := i * 2 ^ bits + 2 ^ bits - 1,
                        data := BitVec.ofNat 512 v, regs := c.regs }
    Tr.modify fun s => (s.cfgKeep (l1cdV d) x).noteCfg x
    if l1cdV d then pure d else Tr.fail bad

/-- `cd_addr` (R821). -/
def cdAddr (c : Ctx) (idx : Nat) : Tr W64 := do
  let s ← Tr.asks id
  if s.cdTwoLevel c.ste then
    let d ← getL1cd c idx
    let bits := l1cdBits c.ste
    oorPtr c.ste (l1cdPtr s.v31 d (bits = 10) + BitVec.ofNat 64 (64 * (idx % 2 ^ bits)))
      { Flt.of .badSubstreamId with ssid := some (BitVec.ofNat 20 idx) }
  else
    let p := Ste.s1ptr s.v31 c.ste
    oorPtr c.ste (if s.subEnabled c.ste then alignDown p (Ste.s1cdmax c.ste + 6) + BitVec.ofNat 64 (64 * idx) else p)
      (Flt.of .badSte)

/-- A CD may be used: V == 1 and not ILLEGAL (R824). -/
def State.cdUsable (s : State) (c : Ctx) (d : StructWord) : Bool :=
  Cd.v d && !(s.view c.sec c.regs).cdIllegal c.sec c.world c.ste d

/-- A CD that may not be used is C_BAD_CD (R824). -/
def checkCd (c : Ctx) (d : StructWord) : Tr StructWord := do
  let ok ← Tr.asks fun s => s.cdUsable c d
  if ok then pure d else Tr.fail (Flt.of .badCd)

/-- The CD at an index is read from memory and cached. -/
def fetchCd (c : Ctx) (idx : Nat) : Tr StructWord := do
  let a ← cdAddr c idx
  let v ← readCd c a 64
  let d : StructWord := BitVec.ofNat 512 v
  let x : CfgEnt := { kind := .cd, sec := c.sec, sid := c.sid, lo := idx, hi := idx, data := d, regs := c.regs }
  Tr.modify fun s => (s.cfgKeep (s.cdUsable c d) x).noteCfg x
  pure d

/-- `get_cd` (R824). -/
def getCd (c : Ctx) (idx : Nat) : Tr StructWord := do
  let hits ← Tr.asks fun s => s.cfgCdHits .cd c.sec c.sid idx
  match hits with
  | x :: _ =>
    Tr.modify fun s => s.useCfg x
    checkCd c x.data
  | [] =>
    let d ← fetchCd c idx
    checkCd c d

/-- The context of a stream whose STE is known; without a world (bypass) the tag is not used. -/
def State.ctx (s : State) (sec : Sec) (sid : BitVec 32) (e : StructWord) (regs : CfgRegs) : Ctx :=
  { sec := sec, sid := sid, ste := e, world := ((s.view sec regs).streamWorld sec e).getD .nsEL1, cd := 0, regs := regs }

/-- A speculative fetch of a reachable structure of a stream (20 R477), where the implementation makes such fetches: of the STE,
and with an index of a CD that a cached or a fetched STE reaches. A cached STE serves whatever the size of the table is now (R476). -/
def prefetchCfg (sec : Sec) (sid : BitVec 32) (ssid : Option (BitVec 20)) : Tr Unit := do
  Tr.modify State.freshTrail
  let held ← cachedSte sec sid
  let inside ← Tr.asks fun s => s.sidInRange sec sid
  let (e, r) ← match held with
    | some c => pure (c.data, c.regs)
    | none => if inside then fetchSte sec sid else Tr.fail (Flt.of .badStreamId)
  match ssid with
  | none => pure ()
  | some x =>
    let s ← Tr.asks id
    if s.steUsable sec r e && Ste.enabled e && Ste.cfgS1 e && (!s.subEnabled e || decide (x.toNat < 2 ^ Ste.s1cdmax e)) then
      let _ ← fetchCd (s.ctx sec sid e r) (if s.subEnabled e then x.toNat else 0)

/-- The step of R477; a failure has no effect (R486). -/
def State.cfgPrefetch (s : State) (sec : Sec) (sid : BitVec 32) (ssid : Option (BitVec 20)) : State :=
  if s.impl.cfgAnyTime && s.smmuen sec then (prefetchCfg sec sid ssid s).2 else s

end Sys2Proof.Machine
end

