-- ==== Sys2Proof/Machine/Translate.lean ====
section
/-! DEFINITION. The path of a client transaction (23_translation.md R830, R842, R850 to R857; 26_ats.md R908; 24_attributes.md
R965 to R1037) and the outcome of a fault (60_exceptions.md R1670 to R1692). -/
namespace Sys2Proof.Machine

/-- A transaction that is being translated; `early` holds its stalled form while the SMMU retries it without having been asked
to (60 R1683): nothing is recorded then, and a new stall leaves it as it was. -/
structure Job where
  t : Txn
  early : Option Stall
  deriving DecidableEq, Repr, Inhabited

/-- The direction of a class: RCI, DR and CMOs are reads, W-DCP and atomics writes (24 R1000, R1033, R1036). -/
def Cls.rw (c : Cls) (rw : RW) : RW :=
  match c with
  | .rci => .read
  | .dr => .read
  | .cmo _ => .read
  | .cmoOther => .read
  | .nwDcp => .read
  | .wDcp => .write
  | .atomic => .write
  | .plain => rw
  | .exclusive => rw
  | .dvm => rw
  | .barrier => rw

/-- The direction of a transaction. -/
def Txn.dir (t : Txn) : RW := t.cls.rw t.rw

/-- The attributes that reach the SMMU with a transaction: those of PCIe traffic are constant, cacheable and shareable (26 R913);
Write-Back and the domain `Impl.pcieInner` names are the model's choice (log entry 45, DESIGN CHOICE). -/
def Txn.supplied (p : Impl) (t : Txn) : InAttrs :=
  if t.pcie then { t.attrs with mt := some (.normal .wb .wb), sh := some (if p.pcieInner then .ish else .osh), hi := none, ho := none }
  else t.attrs

/-- The attributes on input: defaults for what is missing; a PCIe transaction without a PASID is unprivileged Data (26 R912);
writes are Data (23 R850, 24 R955, R956). -/
def Txn.inAttrs (p : Impl) (t : Txn) : Attrs :=
  let a := addDefaults (t.supplied p)
  let a := if t.pcie && !t.ssv then { a with inst := false, priv := false } else a
  if t.dir = .write then { a with inst := false } else a

/-- The permissions a transaction asks for (23 R850, 24 R1003, R1004, R1033, R1036). -/
def Txn.acc (t : Txn) (i : Attrs) : Acc :=
  if t.cls = .nwDcp then { rd := false, wr := false, ex := false, priv := i.priv, soft := false, any := true }
  else if t.cls = .atomic then { rd := true, wr := true, ex := false, priv := i.priv, soft := false, any := false }
  else if t.dir = .write then { rd := false, wr := true, ex := false, priv := i.priv, soft := false, any := false }
  else { rd := !i.inst, wr := false, ex := i.inst, priv := i.priv, soft := false, any := false }

/-- What a record says of a transaction whose attributes are `i`. -/
def Txn.evCtx (t : Txn) (i : Attrs) : EvCtx :=
  { sid := t.sid, ssv := t.ssv, ssid := t.ssid, addr := t.addr, rnw := t.dir = .read, ind := i.inst, pnu := i.priv }

/-- A termination with an abort; an NW-DCP is answered with success (24 R1004). -/
def State.abortTxn (s : State) (t : Txn) : State := s.emit (if t.cls = .nwDcp then .noOp t.id else .abort t.id)

/-- No record is made for a speculative transaction, an NW-DCP, or an early retry (60 R1666, R1683, 24 R1004). -/
def Job.silent (j : Job) : Bool := j.t.spec || j.t.cls = .nwDcp || j.early.isSome

/-- The RnW of an atomic's Permission fault when it had write but not read permission: 1, in SMMUv3.0 any value
(23 R855, U111). -/
def State.rnwOf (s : State) (t : Txn) (f : Flt) : Bool :=
  if t.cls = .atomic && f.kind = .permission && f.noRead then (if s.v31 then true else bit s.free 511) else t.dir = .read

/-- The record of a fault of a transaction is handed to the pending events (60 R1651); a stall record takes two draws, so that
`State.draw` numbers it and its stall alone. -/
def State.recordFault (s : State) (j : Job) (i : Attrs) (mev : Bool) (f : Flt) (stag : Option (BitVec 16)) : State :=
  if j.silent then s
  else
    let c := { j.t.evCtx i with rnw := s.rnwOf j.t f }
    let ev := evRecord (!s.v31) s.oas s.impl.eventReason (Config.freeValue (s.draw + 1)) c f stag
    s.drawn.drawn.recordEvent j.t.sec { ev := ev, stag := stag, mev := mev, serial := s.draw }

/-- A configuration error, or a fault that is never configurable: abort and record (23 R830). C_BAD_STREAMID is recorded
only with CR2.RECINVSID (61 R1811). The answer leaves in this step, before the record can be visible: 60 R1668 orders the two in no way
(log entry 45, DESIGN CHOICE). -/
def State.refuseTxn (s : State) (j : Job) (i : Attrs) (mev : Bool) (f : Flt) : State :=
  let s := s.abortTxn j.t
  if f.kind = .badStreamId && !bit (s.iface j.t.sec).cr2Eff 1 then s else s.recordFault j i mev f none

/-- A STAG that no unacknowledged record of the stream holds (60 R1681). -/
def State.freshStag (s : State) (sec : Sec) (sid : BitVec 32) : BitVec 16 :=
  let used := fun (n : Nat) => s.stags.any fun y => y.names sec sid (BitVec.ofNat 16 n)
  BitVec.ofNat 16 (((List.range (s.stags.length + 1)).find? fun n => !used n).getD 0)

/-- The recorded stall that makes a new one a duplicate (60 R1682): same stream, SubstreamID, page, privilege, marking, type. The page is
the 4KB frame of the input address, and privilege and marking are those on input, before the overrides of the STE; a stalled
transaction for which something was commanded already suppresses none (log entry 45, DESIGN CHOICE). -/
def State.dupStall (s : State) (t : Txn) : Option (BitVec 16) :=
  if s.impl.suppressDupStall then
    (s.stalled.find? fun x => x.stag.isSome && x.act.isNone && x.txn.sec == t.sec && x.txn.sid == t.sid && x.txn.ssv == t.ssv &&
      (!t.ssv || x.txn.ssid == t.ssid) && fld x.txn.addr 12 52 == fld t.addr 12 52 && x.txn.dir == t.dir &&
      (x.txn.inAttrs s.impl).priv == (t.inAttrs s.impl).priv &&
      (x.txn.inAttrs s.impl).inst == (t.inAttrs s.impl).inst).bind (·.stag)
  else none

/-- `stall` (60 R1680). -/
def State.stallTxn (s : State) (j : Job) (i : Attrs) (mev : Bool) (f : Flt) : State :=
  match j.early with
  | some x => { s with stalled := s.stalled ++ [x] }
  | none =>
    match s.dupStall j.t with
    | some p =>
      let x : Stall := { txn := j.t, stag := none, parent := some p, recorded := false, stale := false, act := none, serial := s.draw }
      { s with stalled := s.stalled ++ [x] }
    | none =>
      let tag := s.freshStag j.t.sec j.t.sid
      let x : Stall := { txn := j.t, stag := some tag, parent := none, recorded := false, stale := false, act := none, serial := s.draw }
      let use : StagUse := { sec := j.t.sec, sid := j.t.sid, tag := tag, serial := s.draw }
      { s with stalled := s.stalled ++ [x], stags := s.stags ++ [use] }.recordFault j i mev f (some tag)

/-- A stalling configuration taken as a terminating one for a device (60 R1676). -/
def State.demote (s : State) (t : Txn) : Bool :=
  s.stallModel t.sec = 0 && s.impl.stallDemote.any fun r => r.sec == t.sec && decide (r.lo ≤ t.sid.toNat) && decide (t.sid.toNat ≤ r.hi)

/-- No further transaction can stall: the stall capacity is used up (60 R1686), or as many stall records as IDR5.STALL_MAX says
are without an acknowledgement (11 R207). -/
def State.stallFull (s : State) : Bool :=
  decide (s.impl.stallCapacity ≤ s.stalled.length) || decide ((fld s.idr5 16 16).toNat ≤ s.stags.length)

/-- `fault` and `fault_outcome` (23 R830, 60 R1672, R1674). A transaction that is to stall while none can is held (60 R1686). -/
def State.faultTxn (s : State) (j : Job) (i : Attrs) (c : Ctx) (f : Flt) : State :=
  let mev := Ste.mev c.ste
  if !f.kind.isTrf || f.fixedAbort then s.refuseTxn j i mev f
  else if j.t.spec || j.t.cls = .nwDcp then s.abortTxn j.t
  else
    let stall := (if f.s2 then Ste.s2s c.ste else Cd.s c.cd) && !(s.view c.sec c.regs).demote j.t
    let log := if f.s2 then Ste.s2r c.ste else Cd.r c.cd
    if stall then
      (if j.early.isNone && s.stallFull then { s with inFlight := s.inFlight ++ [{ txn := j.t, stage := .held }] }
       else s.stallTxn j i mev f)
    else
      let s := if f.s2 || Cd.a c.cd then s.abortTxn j.t else s.emit (.razwi j.t.id)
      if log then s.recordFault j i mev f none else s

/-- The override fields of GBPA (11 R233, 12 R365). -/
def gbpaOverrides (g : W32) : Overrides :=
  { mtcfg := bit g 4, memattr := fld g 0 4, shcfg := fld g 12 2, alloccfg := fld g 8 4, instcfg := fld g 18 2, privcfg := fld g 16 2,
    nscfg := fld g 14 2 }

/-- `replace_attrs` for a transaction; PCIe streams may be exempt from the type overrides (24 R957). -/
def State.override (s : State) (o : Overrides) (t : Txn) (i : Attrs) : Attrs :=
  replaceAttrs o (s.typesOvr && (!t.pcie || s.impl.pcieAttrOvr)) s.permsOvr t.sec t.dir i

/-- `sif_violation` (12 R358) with the SIF that counts: a Secure access that would leave as a Non-secure instruction fetch. -/
def sifViolation (sif : Bool) (sec : Sec) (i : Attrs) : Bool := sif && sec == .s && i.inst && i.ns

/-- A transaction meets a rule of P_UUT (93 U82). -/
def UutRule.meets (p : Impl) (r : UutRule) (t : Txn) : Bool :=
  r.cls.all (fun c => c == t.cls) && r.rw.all (fun d => d == t.dir) &&
  r.streams.all (fun x => x.sec == t.sec && decide (x.lo ≤ t.sid.toNat) && decide (t.sid.toNat ≤ x.hi)) &&
  r.mt.all (fun m => m == (t.inAttrs p).mt) && r.minSize.all (fun n => decide (n ≤ t.size)) &&
  r.crosses.all (fun n => t.addr.toNat / 2 ^ n != (t.addr.toNat + t.size - 1) / 2 ^ n) &&
  r.translated.all (fun b => b == t.translated)

/-- A transaction of a kind that is unsupported (24 R1030, R1036, 93 U82). -/
def State.uut (s : State) (t : Txn) : Bool :=
  t.uut || s.impl.uutRules.any (fun r => r.meets s.impl t) || (t.cls = .atomic && s.impl.farAtomics = .uut)

/-- The refusal of a transaction of an unsupported kind (23 R830 step 0, 26 R908). -/
def State.refuseUut (s : State) (j : Job) : State :=
  if j.t.translated then s.abortTxn j.t else s.refuseTxn j (j.t.inAttrs s.impl) false (Flt.of .uut)

/-- A translated transaction goes downstream; the counters see it (51 R1409). -/
def State.passed (s : State) (t : Txn) (f : Fwd) : State :=
  let s := (s.emit (.forward t.id f.sec f.sid f.cls f.rw t.size f.pa f.attrs)).pmu 1 (some (f.sec, f.sid))
  if f.ats && s.ats then s.pmu 7 (some (f.sec, f.sid)) else s

/-- `forward` (23 R830, 24 R959, R990, R1003): the output class, address and attributes. The transaction waits to be passed
downstream, with the configuration and the translations it used (10_state.md R154); one that was retried early goes at once.
That the class is decided on the attributes after No_snoop is the model's choice (R990, R1005; log entry 45, DESIGN CHOICE). -/
def State.forwardTxn (s : State) (j : Job) (pa : W64) (i : Attrs) (ste : StructWord) (translated permW permAny : Bool)
    (cfg : List CfgEnt) (tlb : List TlbEnt) : State :=
  let t := j.t
  let a := finishAttrs s.impl t.noSnoop (ensureConsistent (if t.sec = .ns then { i with ns := true } else i))
  if s.impl.uutLast && s.uut t then s.refuseUut j
  else
    match outClass s.impl s.v31 translated (Ste.dre ste) (Ste.dcp ste) permW permAny a t.cls with
    | .fwd c =>
      let f : Fwd := { sec := t.sec, sid := t.sid, cls := c, rw := t.dir, pa := pa.toNat, attrs := a, ats := t.translated }
      if j.early.isSome then { s.passed t f with inFlight := s.inFlight ++ [{ txn := t, stage := .issued f cfg tlb }] }
      else { s with inFlight := s.inFlight ++ [{ txn := t, stage := .ready f cfg tlb }] }
    | .noOp => s.emit (.noOp t.id)
    | .terminate => s.emit (.abort t.id)

/-- Global bypass (23 R805, R830 step 1, 24 R965). -/
def State.bypassTxn (s : State) (j : Job) (i : Attrs) : State :=
  let t := j.t
  let g := (s.iface t.sec).gbpaEff
  let a := s.override (gbpaOverrides g) t i
  if bit g 20 || addrOutside t.addr s.oas || sifViolation s.sif t.sec a then s.abortTxn t
  else s.forwardTxn j t.addr a 0 false false false [] []

/-- The permissions of all stages together (26 R909, 24 R1003); with `cleanW` a Writable Clean stage 2 descriptor counts as writable
(25 R890). -/
def State.finalPerms (s : State) (c : Ctx) (r : XRes) (priv : Bool) (cleanW : Bool := false) : Perms :=
  let p1 := (r.l1.map fun l => s1Perms c.world r.cd l priv).getD ⟨true, true, true, false⟩
  let p2 := (r.l2.map fun l => s.s2Perms r.ste l priv).getD ⟨true, true, true, false⟩
  ⟨p1.r && p2.r, p1.w && (p2.w || (cleanW && p2.clean)), p1.x && p2.x, false⟩

/-- The attributes after the stages (24 R975, R980); NS of a Secure stream is that of the translation (23 R852). -/
def State.xlatAttrs (s : State) (c : Ctx) (r : XRes) (i : Attrs) : Attrs :=
  let a := match r.l1 with
    | some l =>
      let (mt, hi, ho) := mairDecode s.impl.mairReservedNGnRnE (Cd.mair r.cd (fld l.desc 2 3))
      s1AttrsReplace i mt (shDecode (fld l.desc 8 2)) hi ho (c.sec == .ns || l.ns)
    | none => i
  match r.l2 with
  | some l => combineAttrs a l.s2Attrs
  | none => a

/-- An IPA through stage 2 alone (R830 step 5). -/
def ipaTranslate (c : Ctx) (ipa : W64) (acc : Acc) : Tr XRes := do
  let l ← stage2Translate c.final ipa acc .inn
  let pa ← Tr.asks fun s => s.s2Out l ipa
  pure { pa := pa, ia := ipa, ipa := ipa, cd := c.cd, ste := c.ste, l1 := none, l2 := some l, sif := c.regs.sif }

/-- The stage 1 Address Size fault of a bypassed stage, whose outcome is fixed (23 R805, 60 R1672). -/
def bypassAddrSize : Flt := { Flt.of .addrSize with fixedAbort := true }

/-- The context of a stream whose stage 1 is skipped: as though Config[0] == 0 (23 R820). -/
def Ctx.noS1 (c : Ctx) : Ctx := { c with ste := setBit c.ste 1 false }

/-- The translations that a transaction used, as the entries that a TLB would hold: of its VA, of its IPA, and those that its walks
went through (10_state.md R154, 20_memory.md R480). -/
def State.usedTlb (s : State) (c : Ctx) (r : XRes) : List TlbEnt :=
  (if r.l1.isSome then [s.tlbEntry c r.ia r.l1 r.l2] else []) ++
    (if r.l2.isSome then [s.tlbEntry c r.ipa none r.l2] else []) ++ s.trail.tlb

/-- A SIF violation of what leaves after its translation: the SIF in effect counts where stage 1 is bypassed, the one that goes with
the translation where it is not (12 R358). -/
def State.sifBars (s : State) (sec : Sec) (r : XRes) (a : Attrs) : Bool :=
  sifViolation (if r.l1.isNone then s.sif else r.sif) sec a

/-- The output of a transaction after its translation: SIF, a conflict that gave way to other events (93 U83), then the forward
(R830 step 6). Where F_UUT gives way as well, the conflict that was met first is reported and F_UUT is not, which P_CONFLICT_PRIORITY
leaves open (log entry 33, DESIGN CHOICE). -/
def State.finishTxn (s : State) (j : Job) (c : Ctx) (i : Attrs) (r : XRes) : State :=
  let a := s.xlatAttrs c r i
  let translated := r.l1.isSome || r.l2.isSome
  let p := s.finalPerms c r i.priv
  if s.sifBars j.t.sec r a then s.faultTxn j i c { Flt.st1 .permission with fixedAbort := r.l1.isNone }
  else
    match s.trail.conflict with
    | some f => s.faultTxn j i c f
    | none =>
      s.forwardTxn j r.pa a c.ste translated p.w (!s.impl.nwDcpCombined || p.r || p.w || p.x) s.trail.cfg (s.usedTlb c r)

/-- Steps 4 to 6 of R830 for a transaction whose STE enables traffic. -/
def State.translateTxn (s : State) (j : Job) (c : Ctx) (sel : CdSel) (i : Attrs) : State :=
  let t := j.t
  match sel with
  | .cd idx =>
    match getCd c idx s with
    | (.error f, s) => s.faultTxn j i c f
    | (.ok cd, s) =>
      let c := { c with cd := cd }
      match vaTranslate c t.addr (t.acc i) s with
      | (.error f, s) => s.faultTxn j i c f
      | (.ok r, s) => s.finishTxn j c i r
  | .bypass =>
    if Ste.cfgS2 c.ste then
      if addrOutside t.addr s.ias then s.faultTxn j i c bypassAddrSize
      else
        match ipaTranslate c.noS1 t.addr (t.acc i) s with
        | (.error f, s) => s.faultTxn j i c f
        | (.ok r, s) => s.finishTxn j c i r
    else
      s.finishTxn j c i { pa := truncTo t.addr s.oas, ia := t.addr, ipa := t.addr, cd := 0, ste := c.ste, l1 := none, l2 := none,
                          sif := s.sif }

/-- A transaction with the SMMU enabled that is not Translated (R830 steps 3 to 6). -/
def State.lookupTxn (s : State) (j : Job) (i : Attrs) : State :=
  let t := j.t
  match getSte t.sec t.sid s with
  | (.error f, s) => s.refuseTxn j i false f
  | (.ok (ste, regs), s) =>
    if !Ste.enabled ste then s.abortTxn t
    else
      match cdSelect ste t.ssv t.ssid s with
      | (.error f, s) => s.refuseTxn j i (Ste.mev ste) f
      | (.ok sel, s) =>
        let i := s.override (Ste.overrides ste) t i
        let c := s.ctx t.sec t.sid ste regs
        if !Ste.cfgS1 ste && !Ste.cfgS2 ste && addrOutside t.addr s.oas then s.faultTxn j i c bypassAddrSize
        else s.translateTxn j c sel i

/-- The attribute of a Translated transaction (26 R919): its input attribute, a fixed one, or, where the implementation encodes
attributes into ATS, the one that it brings; one that brings none keeps its input attribute (log entry 45, DESIGN CHOICE). -/
def State.atsAttrs (s : State) (t : Txn) : Attrs :=
  let i := t.inAttrs s.impl
  match s.impl.atsAttrs with
  | .input => i
  | .fixed mt sh => Attrs.normalise { i with mt := mt, sh := sh }
  | .untranslated =>
    match t.coded with
    | some a => Attrs.normalise { i with mt := a.mt, sh := a.sh, hi := a.hi, ho := a.ho }
    | none => i

/-- `bypass_translated` (26 R908, R919). -/
def State.bypassTranslated (s : State) (j : Job) (cfg : List CfgEnt) : State :=
  let t := j.t
  if addrOutside t.addr s.oas && !s.impl.atsTranslatedTruncate then s.abortTxn t
  else s.forwardTxn j (truncTo t.addr s.oas) (s.atsAttrs t) 0 false false false cfg []

/-- F_TRANSL_FORBIDDEN (26 R908). -/
def State.forbidTxn (s : State) (j : Job) (mev : Bool) : State :=
  (s.abortTxn j.t).recordFault j (j.t.inAttrs s.impl) mev (Flt.of .translForbidden) none

/-- `effective_EATS` (26 R907), with the ATSCHK that goes with the configuration. -/
def effEats (sec : Sec) (ste : StructWord) (atschk : Bool) : BitVec 2 :=
  if sec = .s || (!Ste.cfgS1 ste && !Ste.cfgS2 ste) || Ste.eats ste = 3 then 0
  else if Ste.eats ste = 2 && !atschk then 0
  else Ste.eats ste

/-- Stage 2 of a Translated transaction of a Split-stage stream (26 R908): it is checked with the STE's overrides; its faults are
reported without a SubstreamID, unprivileged and as data (R944). It stays the transaction that was accepted, for which an ATS
invalidation may wait (42 R1203). -/
def State.splitTxn (s : State) (j : Job) (c : Ctx) : State :=
  let t := { j.t with ssv := false, ssid := 0 }
  let bare := { j with t := t }
  let o := Ste.overrides c.ste
  let plain := { t.inAttrs s.impl with inst := false, priv := false }
  let i := if s.permsOvr && t.dir = .read then { plain with inst := applyInstcfg o.instcfg plain.inst } else plain
  let i := if s.permsOvr && s.xnx then { i with priv := applyPrivcfg o.privcfg i.priv } else i
  match ipaTranslate c.noS1 t.addr (t.acc i) s with
  | (.error f, s) => s.faultTxn bare plain c f
  | (.ok r, s) =>
    let p := s.finalPerms c r i.priv
    let a := { s.atsAttrs t with inst := i.inst, priv := i.priv }
    let a := combineAttrs a ((r.l2.map Leaf.s2Attrs).getD a)
    match s.trail.conflict with
    | some f => if f.kind = .cfgConflict then s.abortTxn t else s.faultTxn bare plain c f
    | none => s.forwardTxn j r.pa a c.ste true p.w (p.r || p.w || p.x) s.trail.cfg (s.usedTlb c r)

/-- `translated_transaction` (26 R908). -/
def State.translatedTxn (s : State) (j : Job) : State :=
  let t := j.t
  if t.sec = .s || !s.smmuen .ns then s.forbidTxn j false
  else if !bit s.ns.cr0Eff 4 then s.bypassTranslated j []
  else
    match getSte .ns t.sid s with
    | (.error _, s) => s.abortTxn t
    | (.ok (ste, regs), s) =>
      let c := s.ctx .ns t.sid ste regs
      if !Ste.enabled ste then s.abortTxn t
      else if effEats .ns ste regs.atschk = 0 then s.forbidTxn j (Ste.mev ste)
      else if effEats .ns ste regs.atschk = 1 then
        (if s.trail.conflict.isSome then s.abortTxn t else s.bypassTranslated j s.trail.cfg)
      else s.splitTxn j c

/-- A transaction that is terminated silently before any lookup: DVM operations and barriers, CMOs without support
(24 R1031, R1032), a speculative write (25 R893). -/
def State.silentKind (s : State) (t : Txn) : Bool :=
  t.cls = .dvm || t.cls = .barrier || t.cls = .cmoOther ||
  (match t.cls with | .cmo _ => !s.v31 | _ => false) || (t.spec && t.dir = .write)

/-- `transaction` (23 R830), but for what lies between translation and the answer. One that is looked up counts its misses when that
is over (51 R1409). -/
def State.runTxn (s : State) (j : Job) : State :=
  let t := j.t
  if s.silentKind t then s.abortTxn t
  else if s.uut t && !s.impl.uutLast then s.refuseUut j
  else if t.translated then (s.freshTrail.translatedTxn j).countMisses t.sec t.sid
  else if !s.smmuen t.sec then s.bypassTxn j (t.inAttrs s.impl)
  else (s.lookupTxn j (t.inAttrs s.impl)).countMisses t.sec t.sid

/-! ### The transactions in flight (10_state.md R154, 20_memory.md R452, 00_scope.md R12) -/

/-- A client transaction is accepted: without Secure support every stream is Non-secure, and without ATS no transaction is
Translated. Configurations of counter groups that were changed before do not count for it (51_pmcg.md R1405). -/
def State.transaction (s : State) (t : Txn) : State :=
  let t := { t with sec := if s.secureImpl then t.sec else .ns, translated := t.translated && s.ats }
  { s with inFlight := s.inFlight ++ [{ txn := t, stage := .accepted }], pmcgPast := s.livePast }

/-- The n-th transaction in flight is translated; in Service Failure Mode it is terminated (60 R1706). -/
def State.process (s : State) (n : Nat) : State :=
  match s.inFlight[n]? with
  | none => s
  | some x =>
    if x.stage == .accepted || x.stage == .held then
      let s := { s with inFlight := s.inFlight.eraseIdx n }
      if s.sfm then s.abortTxn x.txn else s.doFor x.txn fun s => s.runTxn { t := x.txn, early := none }
    else s

/-- The n-th transaction in flight is passed downstream; in Service Failure Mode it is terminated. -/
def State.release (s : State) (n : Nat) : State :=
  match s.inFlight[n]? with
  | none => s
  | some x =>
    match x.stage with
    | .ready f cfg tlb =>
      if s.sfm then { s with inFlight := s.inFlight.eraseIdx n }.abortTxn x.txn
      else { s with inFlight := s.inFlight.set n { x with stage := .issued f cfg tlb } }.doFor x.txn fun s => s.passed x.txn f
    | _ => s

/-- Memory performs a transaction: a write stores its data, a read answers what is there, an atomic does both, the value it stores
being its own matter. A hint and a maintenance operation answer nothing. -/
def State.perform (s : State) (t : Txn) (f : Fwd) : State :=
  let ns := f.attrs.ns
  let old := s.load ns f.pa t.size
  if t.cls = .atomic then
    ({ s.agentStore ns f.pa (freeBytes s.draw t.size) with draw := s.draw + t.size / 64 + 1 }).emit (.response t.id false old)
  else
    match f.cls with
    | .nwDcp => s.emit (.response t.id false [])
    | .cmo _ => s.emit (.response t.id false [])
    | _ =>
      if f.rw = .write then (s.agentStore ns f.pa (t.data.take t.size)).emit (.response t.id false [])
      else s.emit (.response t.id false old)

/-- The memory system answers the n-th transaction in flight, and the answer is relayed to the client. A downstream abort is no
event of the SMMU (60 R1667). -/
def State.respond (s : State) (n : Nat) (r : MemResp) : State :=
  match s.inFlight[n]? with
  | none => s
  | some x =>
    match x.stage with
    | .issued f _ _ =>
      let s := { s with inFlight := s.inFlight.eraseIdx n }
      match r with
      | .ok => s.perform x.txn f
      | .data bs => s.emit (.response x.txn.id false bs)
      | .abort => s.emit (.response x.txn.id true [])
    | _ => s

/-! ### The end of a stall (60 R1680 to R1684, R1691) -/

/-- What was commanded for the stalled transaction at a position is carried out: a retried one is as though it had just arrived; a
stale one is retried once the queue is writable (60 R1665, 43 R1244). In Service Failure Mode it is terminated (R1706). -/
def State.resolveStall (s : State) (n : Nat) : State :=
  match s.stalled[n]? with
  | none => s
  | some x =>
    let gone := { s with stalled := s.stalled.eraseIdx n }
    if s.sfm then gone.abortTxn x.txn
    else
    match x.act with
    | some .retry => gone.transaction x.txn
    | some .abort => gone.abortTxn x.txn
    | some .razwi => gone.emit (.razwi x.txn.id)
    | none =>
      if x.stale && s.eventqWritable x.txn.sec then
        let s := match x.stag with
          | some t => gone.ackStag x.txn.sec x.txn.sid t
          | none => gone
        s.transaction x.txn
      else s

/-- The pending record of a stalled transaction is dropped; its STAG was never seen. -/
def State.dropRecord (s : State) (x : Stall) : State :=
  let s := s.setEvents x.txn.sec ((s.events x.txn.sec).filter fun e => !e.isOf x.txn.sec x)
  match x.stag with
  | some t => s.ackStag x.txn.sec x.txn.sid t
  | none => s

/-- An early retry of the stalled transaction at a position (60 R1683). One whose record is still pending, or was dropped at a
CMD_SYNC, is retried as though it had just arrived: what it meets now replaces the record (R1665; that a success discards the record
is one of the permitted outcomes, log entry 24), and so is a duplicate whose record was suppressed. One whose record was written, or
that awaits a termination, makes no other. One that awaits the retry that was commanded, and one without a tag that awaits its
termination, is left alone. -/
def State.earlyRetry (s : State) (n : Nat) : State :=
  if !s.impl.earlyRetry || s.sfm then s
  else
    match s.stalled[n]? with
    | none => s
    | some x =>
      let gone := { s with stalled := s.stalled.eraseIdx n }
      match x.stag, x.act with
      | _, some .retry => s
      | some _, none =>
        if x.stale || (s.events x.txn.sec).any (fun e => e.isOf x.txn.sec x) then (gone.dropRecord x).runTxn { t := x.txn, early := none }
        else gone.runTxn { t := x.txn, early := some x }
      | some _, some _ => gone.runTxn { t := x.txn, early := some x }
      | none, none => gone.runTxn { t := x.txn, early := none }
      | none, some _ => s

/-- The stalled transaction at a position is withdrawn by its client or by the system (10 R152); its STAG is used until it is
acknowledged (60 R1681). That a record of it which is not yet written is still written is the model's choice (log entry 45,
DESIGN CHOICE); where it was dropped at a CMD_SYNC none will be, and the STAG is free (log entry 17, DEDUCED). -/
def State.withdraw (s : State) (n : Nat) : State :=
  match s.stalled[n]? with
  | none => s
  | some x =>
    let gone := { s with stalled := s.stalled.eraseIdx n }
    if x.stale && x.act.isNone then gone.dropRecord x else gone

/-- An Update of SMMUEN to 0 (11 R220): every stalled transaction of the interface is marked to be terminated with an abort
and every STAG of it is free. -/
def State.dropStalls (s : State) (q : Sec) : State :=
  { s with stalled := s.stalled.map fun x => if x.txn.sec == q then { x with act := some .abort, stag := none, parent := none } else x
           stags := s.stags.filter fun y => y.sec != q }

end Sys2Proof.Machine
end

