-- ==== Sys2Proof/Machine/Ats.lean ====
section
/-! DEFINITION. ATS Translation Requests (26_ats.md R902 to R918) and the completion of Invalidate Requests (42_cmd_ats_pri.md
R1203, 60_exceptions.md R1748). -/
namespace Sys2Proof.Machine

/-- The smallest translation unit as log2 (R906). -/
def State.stuLog2 (s : State) : Nat := if bit s.idr5 4 then 12 else if bit s.idr5 5 then 14 else 16

/-- The answer to a request leaves the SMMU. -/
def State.atsAnswer (s : State) (t : AtsReq) (r : AtsResp) : State := s.emit (.atsResponse t.id r)

/-- Exe and Priv of a request; without a PASID both are 0 (R905 step 4). -/
def AtsReq.exeReq (t : AtsReq) : Bool := t.ssv && t.exe
def AtsReq.privReq (t : AtsReq) : Bool := t.ssv && t.priv

/-- Success without any permission, of one STU (R905, R906), with an unspecified address; its Priv is the one asked for, as R905
says, or 0, as the last row of R911 prints it (log entry 40). -/
def State.atsDenied (s : State) (t : AtsReq) : State :=
  s.drawn.atsAnswer t (.success (fld s.free 0 64) s.stuLog2 false false false (t.privReq && !s.impl.atsDeniedPrivZero)
    false false false none)

/-- UR with F_BAD_ATS_TREQ on the Event queue of a Security state (R905, 61 R1814); `mev` is STE.MEV where an STE was read. -/
def State.atsRefused (s : State) (t : AtsReq) (mev : Bool) : State :=
  let c : EvCtx := { sid := t.sid, ssv := t.ssv, ssid := t.ssid, addr := t.addr, rnw := true, ind := t.exeReq, pnu := t.privReq }
  (s.drawn.atsAnswer t .ur).recordEvent t.sec
    { ev := evBadAtsTreq s.free c true (!t.nw) t.exeReq t.privReq t.span, stag := none, mev := mev }

/-- The answer to a fault on the way: a Translation-related fault is an access that is denied, anything else a Completer
Abort (R905). -/
def State.atsFault (s : State) (t : AtsReq) (f : Flt) : State := if f.kind.isTrf then s.atsDenied t else s.atsAnswer t .ca

/-- What a request asks of the translation (R905 step 4, R909): read, write unless NW, the effective privilege. -/
def State.atsAcc (s : State) (t : AtsReq) (ste : StructWord) (split : Bool) : Acc :=
  let o := Ste.overrides ste
  { rd := true, wr := !t.nw, ex := false, priv := if s.permsOvr then applyPrivcfg o.privcfg t.privReq else t.privReq, soft := true,
    any := false, inst := if s.permsOvr then o.instcfg else 0, exe := t.exeReq,
    split := split }

/-- The size of a translation (R906, 50_atos.md R1341): that of the smaller stage, of the page or block itself. -/
def XRes.log2 (r : XRes) : Nat :=
  match r.l1, r.l2 with
  | some x, some y => min x.size y.size
  | some x, none => x.size
  | none, some y => y.size
  | none, none => 12

/-- The Untranslated read that a request stands for: it has the constant input attributes of PCIe traffic (R913). -/
def AtsReq.untranslated (t : AtsReq) : Txn :=
  { id := t.id, sec := t.sec, sid := t.sid, ssv := t.ssv, ssid := t.ssid, addr := t.addr, size := 1, data := [], rw := .read,
    attrs := { mt := none, sh := none, hi := none, ho := none, inst := none, priv := none, ns := none }, cls := .plain, spec := false,
    translated := false, pcie := true, noSnoop := false, uut := false }

/-- The attribute that a Translation Completion carries where the implementation encodes attributes into ATS (R919): the one that an
Untranslated transaction would have; with split-stage ATS the one that goes into stage 2. How it is encoded is outside the spec: here it
stands beside the address (log entry 45, DESIGN CHOICE). -/
def State.atsCoded (s : State) (t : AtsReq) (c : Ctx) (split : Bool) (r : XRes) : Option Attrs :=
  if s.impl.atsAttrs = .untranslated then
    let u := t.untranslated
    let i := s.override (Ste.overrides c.ste) u (u.inAttrs s.impl)
    some (ensureConsistent (s.xlatAttrs c (if split then { r with l2 := none } else r) i))
  else none

/-- Steps 8 and 9 (R905, R909, R941): the granted permissions and the returned address; split-stage ATS returns the IPA. With NW
write permission is granted or not (R909), but of the identity mapping always (R940). A conflict that gave way to other events is
answered as a conflict is (93 U83). -/
def State.atsGrant (s : State) (t : AtsReq) (c : Ctx) (acc : Acc) (split : Bool) (r : XRes) : State :=
  let identity := r.l1.isNone && r.l2.isNone
  let g := acc.grant (s.finalPerms c r acc.priv split)
  let w := g.2.1 && (identity || !t.nw || s.impl.atsNwGrantW)
  if s.trail.conflict.isSome then s.atsAnswer t .ca
  else if !g.1 && !w && !g.2.2 then s.atsDenied t
  else
    let n := if identity then s.impl.atsIdentityLog2 else r.log2
    let a := if split then r.ipa else r.pa
    s.atsAnswer t (.success (alignDown a n) n g.1 w g.2.2 t.privReq false false false (s.atsCoded t c split r))

/-- Steps 5 to 7 (R905), and the answer. -/
def State.atsTranslate (s : State) (t : AtsReq) (ste : StructWord) (c : Ctx) (sel : CdSel) (split : Bool) : State :=
  let acc := s.atsAcc t ste split
  match sel with
  | .cd idx =>
    match getCd c idx s with
    | (.error f, s) => s.atsFault t f
    | (.ok cd, s) =>
      let c := { c with cd := cd }
      match vaTranslate c t.addr acc s with
      | (.error f, s) => s.atsFault t f
      | (.ok r, s) => s.atsGrant t c acc split r
  | .bypass =>
    if Ste.cfgS2 ste then
      if addrOutside t.addr s.ias then s.atsDenied t
      else
        match ipaTranslate c.noS1 t.addr (acc.second Perms.all) s with
        | (.error f, s) => s.atsFault t f
        | (.ok r, s) => s.atsGrant t c acc split r
    else
      s.atsGrant t c acc split { pa := truncTo t.addr s.oas, ia := t.addr, ipa := t.addr, cd := 0, ste := ste, l1 := none, l2 := none,
                                 sif := s.sif }

/-- The context of a request: with split-stage ATS the updates of the final stage 2 descriptor are made now or left to the
Translated transaction, by a draw (25 R890, U123). -/
def State.atsCtx (s : State) (t : AtsReq) (ste : StructWord) (regs : CfgRegs) (split : Bool) : Ctx × State :=
  let c := s.ctx .ns t.sid ste regs
  if split then ({ c with later := bit s.free 511 }, s.drawn) else (c, s)

/-- Steps 3 to 9 of a request (R905). -/
def State.atsLookup (s : State) (t : AtsReq) : State :=
  match getSte .ns t.sid s with
  | (.error _, s) => s.atsAnswer t .ca
  | (.ok (ste, regs), s) =>
    if !Ste.enabled ste then s.atsAnswer t .ur
    else if effEats .ns ste regs.atschk = 0 then s.atsRefused t (Ste.mev ste)
    else
      match cdSelect ste t.ssv t.ssid s with
      | (.error _, s) => s.atsAnswer t .ca
      | (.ok sel, s) =>
        let split : Bool := effEats .ns ste regs.atschk = 2
        let (c, s) := s.atsCtx t ste regs split
        s.atsTranslate t ste c sel split

/-- `translation_request` (R905); without ATS there is no such interface (R902). One that is looked up counts its misses (51 R1409). -/
def State.atsRequest (s : State) (t : AtsReq) : State :=
  let t := { t with sec := if s.secureImpl then t.sec else .ns }
  if !s.ats then s else
  let s := (s.pmu 1 (some (t.sec, t.sid))).pmu 6 (some (t.sec, t.sid))
  if s.sfm then s.atsAnswer t .ca
  else if t.sec = .s || !s.smmuen .ns then s.atsRefused t false
  else (s.atsLookup t).countMisses t.sec t.sid

/-- The endpoint completes the n-th outstanding Invalidate Request of a Command queue (42 R1203); ignored with
SMMUEN == 0 (11 R219). A CMD_SYNC still waits for the Translated transactions of the stream that are under way: they carry no
untranslated address, so all of them are waited for (42 R1203 corner case 7; log entry 8, DESIGN CHOICE). -/
def State.atcComplete (s : State) (q : Sec) (n : Nat) : State :=
  match (s.atc q)[n]? with
  | none => s
  | some r =>
    if !s.smmuen .ns then s
    else
      let s := s.setAtc q ((s.atc q).eraseIdx n)
      let l := s.inFlight.filter fun f => f.txn.translated && f.txn.sec == .ns && f.txn.sid == r.sid
      if l.isEmpty then s
      else { s with pendingInval := s.pendingInval ++ [{ origin := some q, scope := .atc r.sid, subset := none, wait := some l }] }

/-- The n-th outstanding Invalidate Request of a Command queue times out (60 R1748). -/
def State.atcTimeout (s : State) (q : Sec) (n : Nat) : State :=
  match (s.atc q)[n]? with
  | none => s
  | some r =>
    let s := s.setAtc q ((s.atc q).eraseIdx n)
    match q with
    | .ns => { s with atcNsLate := s.atcNsLate ++ [r] }
    | .s => { s with atcSLate := s.atcSLate ++ [r] }

end Sys2Proof.Machine
end

