-- ==== Sys2Proof/Machine/Atos.lean ====
section
/-! DEFINITION. Address translation operations (50_atos.md R1300 to R1350, 13_registers_queues.md R305 to R310). -/
namespace Sys2Proof.Machine

/-- The programming interface of a register group (R1300). -/
def AtosGroup.iface : AtosGroup → Sec
  | .gatos => .ns
  | .sGatos => .s
  | .vatos => .ns

/-- The registers of a group. -/
def State.atosRegs (s : State) : AtosGroup → AtosRegs
  | .gatos => s.ns.atos
  | .sGatos => s.s.atos
  | .vatos => s.vatos

def State.setAtosRegs (s : State) : AtosGroup → AtosRegs → State
  | .gatos, r => { s with ns := { s.ns with atos := r } }
  | .sGatos, r => { s with s := { s.s with atos := r } }
  | .vatos, r => { s with vatos := r }

/-- The operation in progress of a group (10_state.md R159). -/
def State.atosOp (s : State) : AtosGroup → Option AtosOp
  | .gatos => s.gatosOp
  | .sGatos => s.sGatosOp
  | .vatos => s.vatosOp

def State.setAtosOp (s : State) : AtosGroup → Option AtosOp → State
  | .gatos, o => { s with gatosOp := o }
  | .sGatos, o => { s with sGatosOp := o }
  | .vatos, o => { s with vatosOp := o }

/-- The result of a lookup (R1320). -/
inductive AtosRes where
  | ok (pa : W64) (log2 : Nat) (attr : BitVec 8) (sh : BitVec 2) (ns : Bool)
  | fault (code : BitVec 8) (reason : BitVec 2) (faddr : W64)
  deriving DecidableEq, Repr

/-- The codes of this facility's own errors (R1342). -/
def invReq : AtosRes := .fault 0xFF 0 0
def invStage : AtosRes := .fault 0xFE 0 0
def internalErr : AtosRes := .fault 0xFD 0 0

/-- The fields of the captured request (13 R307, R308, 12 R394). -/
def AtosOp.type (o : AtosOp) : BitVec 2 := fld o.addr 10 2
def AtosOp.ssv (o : AtosOp) : Bool := bit o.sid 52
def AtosOp.ssid (o : AtosOp) : BitVec 20 := fld o.sid 32 20
def AtosOp.stream (o : AtosOp) : BitVec 32 := fld o.sid 0 32
def AtosOp.input (o : AtosOp) : W64 := alignDown o.addr 12
/-- The request is for a Secure stream (R1307). -/
def AtosOp.secure (g : AtosGroup) (o : AtosOp) : Bool := g = .sGatos && bit o.sid 53

/-- The access that a request stands for (R1326). -/
def AtosOp.acc (o : AtosOp) : Acc :=
  let rd := bit o.addr 8
  let ind := rd && bit o.addr 7
  { rd := rd && !ind, wr := !rd, ex := ind, priv := bit o.addr 9, soft := false, any := false }

/-- INV_REQ (R1321). -/
def State.atosInvReq (s : State) (g : AtosGroup) (o : AtosOp) : Bool :=
  o.type = 0 || (o.type = 1 && !s.s1p) || (o.type = 2 && (g = .vatos || !s.s2p || o.ssv)) ||
    (o.type = 3 && (g = .vatos || !(s.s1p && s.s2p)))

/-- INV_STAGE at point B (R1322): Config[2] == 0 is one, whatever its other bits. -/
def atosInvStage (g : AtosGroup) (o : AtosOp) (ste : StructWord) : Bool :=
  !Ste.enabled ste || (!Ste.cfgS1 ste && !Ste.cfgS2 ste) || (o.type = 1 && !Ste.cfgS1 ste) ||
    (o.type = 2 && (!Ste.cfgS2 ste || o.secure g)) || (o.type = 3 && (!(Ste.cfgS1 ste && Ste.cfgS2 ste) || o.secure g))

/-- A VATOS request reaches only NS-EL1 streams of the selected VMID (R1330). -/
def State.vatosDenied (s : State) (g : AtosGroup) (o : AtosOp) (sec : Sec) (ste : StructWord) (regs : CfgRegs) : Bool :=
  let n := if bit s.idr0 18 then 16 else 8
  g = .vatos && !((s.view sec regs).streamWorld sec ste == some .nsEL1 && truncTo (Ste.s2vmid ste) n == truncTo (fld o.sel 0 16) n)

/-- REASON of a fault at stage 2 (R1343). -/
def FClass.reason : FClass → BitVec 2
  | .cd => 1
  | .tt => 2
  | .inn => 3

/-- A fault as the result of a request of a TYPE (R1343): a stage 1 request reports a stage 2 failure of a fetch as an
abort of that fetch; only a full request gives REASON and FADDR for a Translation-related fault at stage 2. -/
def atosFault (type : BitVec 2) (f : Flt) : AtosRes :=
  let walk := f.kind = .walkEabt
  if type = 1 && f.s2 && (f.kind.isTrf || walk) then
    .fault (if f.cls = .cd then FKind.cdFetch.num else FKind.walkEabt.num) 0 0
  else if type = 2 && (f.kind.isTrf || walk) then .fault f.kind.num 3 0
  else if type = 3 && f.s2 && f.kind.isTrf then .fault f.kind.num f.cls.reason f.ipa
  else if type = 3 && f.s2 && walk then .fault f.kind.num f.cls.reason 0
  else .fault f.kind.num 0 0

/-- The running attributes before any stage: the identity of combine (24 R958). -/
def weakAttrs : Attrs :=
  { mt := .normal .wb .wb, sh := .nsh, hi := .weak, ho := .weak, inst := false, priv := false, ns := true }

/-- A successful result with its attributes, which are consistent (R1341, 24 R959). -/
def atosSuccess (pa : W64) (log2 : Nat) (a : Attrs) (ns : Bool) : AtosRes :=
  let a := ensureConsistent a
  .ok pa log2 (mairEncode a.mt a.hi a.ho) (shEncode a.sh) ns

/-- A translated address with the attributes of the stages that were asked for, without STE overrides (R1341). Where S1DSS makes a
request for both stages bypass stage 1 they are those of stage 2 alone (log entry 45, DESIGN CHOICE). -/
def State.atosOk (s : State) (c : Ctx) (r : XRes) : AtosRes :=
  let ns := c.sec == .ns || (match r.l1 with
    | some l => l.ns
    | none => true)
  atosSuccess r.pa r.log2 (s.xlatAttrs c r weakAttrs) ns

/-- The attributes that the implementation gives a bypassed stage 1 (R1323). -/
def atosBypassAttrs (p : Impl) : Attrs :=
  let (mt, hi, ho) := mairDecode p.mairReservedNGnRnE p.atosBypassAttr
  Attrs.normalise { weakAttrs with mt := mt, sh := shDecode p.atosBypassSh, hi := hi, ho := ho }

/-- The Address Size fault of a bypassed stage 1 (R1323, R1343). -/
def State.atosAddrSize (s : State) (type : BitVec 2) : AtosRes :=
  .fault FKind.addrSize.num (if type = 2 && !s.v31 then s.impl.atosS2AddrSizeReason else 0) 0

/-- An instruction request on a Secure stream whose output is Non-secure is barred by SIF, as such a transaction is (12 R358, R1326,
R1350). -/
def atosSif (c : Ctx) (o : AtosOp) (sif ns : Bool) : Bool :=
  sifViolation sif c.sec { weakAttrs with inst := o.acc.ex, ns := ns }

/-- Stage 2 alone (R1327). -/
def State.atosStage2 (s : State) (c : Ctx) (o : AtosOp) : AtosRes × State :=
  if addrOutside o.input s.ias then (s.atosAddrSize o.type, s)
  else
    match ipaTranslate c.noS1 o.input o.acc s with
    | (.error f, s) => (atosFault o.type f, s)
    | (.ok r, s) => (s.atosOk c r, s)

/-- Stage 1, alone or followed by stage 2 (R1323 to R1327). -/
def State.atosStage1 (s : State) (c : Ctx) (o : AtosOp) : AtosRes × State :=
  match cdSelect c.ste o.ssv o.ssid s with
  | (.error f, s) => (atosFault o.type f, s)
  | (.ok .bypass, s) =>
    if o.type = 3 then s.atosStage2 c o
    else if addrOutside o.input s.ias then (s.atosAddrSize o.type, s)
    else if atosSif c o s.sif s.impl.atosBypassNs then (atosFault o.type (Flt.st1 .permission), s)
    else (atosSuccess o.input s.impl.atosBypassLog2 (atosBypassAttrs s.impl) s.impl.atosBypassNs, s)
  | (.ok (.cd idx), s) =>
    match getCd c idx s with
    | (.error f, s) => (atosFault o.type f, s)
    | (.ok cd, s) =>
      let c := { c with cd := cd }
      if o.type = 3 then
        match vaTranslate c o.input o.acc s with
        | (.error f, s) => (atosFault o.type f, s)
        | (.ok r, s) => (s.atosOk c r, s)
      else
        match stage1Only c o.input o.acc s with
        | (.error f, s) => (atosFault o.type f, s)
        | (.ok (ia, l, cd, sif), s) =>
          let ipa := l.apply ia
          let out := if Ste.cfgS2 c.ste then ipa else truncTo ipa s.oas
          if atosSif c o sif l.ns then (atosFault o.type (Flt.st1 .permission), s)
          else (s.atosOk c { pa := out, ia := ia, ipa := ipa, cd := cd, ste := c.ste, l1 := some l, l2 := none, sif := sif }, s)

/-- A result is none where a conflict gave way to the other events of the operation and met none (93 U83). -/
def State.atosSettle (s : State) (type : BitVec 2) (r : AtosRes) : AtosRes :=
  match r, s.trail.conflict with
  | .ok .., some f => atosFault type f
  | r, _ => r

/-- `atos_translate` (R1320, R1344, R1306). INV_STAGE of a Secure request for stage 2 may be found before the configuration
is read, by a draw of its own (R1322). -/
def State.atosTranslate (s : State) (g : AtosGroup) (o : AtosOp) : AtosRes × State :=
  let sec : Sec := if o.secure g then .s else .ns
  let early := o.secure g && o.type != 1
  let d := s.free
  if s.atosInvReq g o then (invReq, s) else
  let s := if early then s.drawn else s
  if early && bit d 511 then (invStage, s)
  else if !s.smmuen sec then (internalErr, s)
  else
    match getSte sec o.stream s with
    | (.error f, s) => (atosFault 0 f, s)
    | (.ok (ste, regs), s) =>
      if s.vatosDenied g o sec ste regs then (.fault FKind.badSte.num 0 0, s)
      else if atosInvStage g o ste then (invStage, s)
      else
        let c := { s.ctx sec o.stream ste regs with passive := bit o.addr 6 }
        let (r, s) := if o.type = 2 then s.atosStage2 c o else s.atosStage1 c o
        (s.atosSettle o.type r, s)

/-- `encode_par` (R1341, R1343, 13 R309, R310). -/
def State.encodePar (s : State) (g : AtosGroup) : AtosRes → W64
  | .ok pa n attr sh ns =>
    let size := place 64 (1#1) (n - 1)
    let a := if n ≤ 12 then alignDown pa 12 else alignDown pa n ||| size
    place 64 attr 56 ||| (a &&& maskOf 64 12 (if s.v31 then 40 else 36)) ||| placeBit 64 (decide (12 < n)) 11 |||
      placeBit 64 (g = .sGatos && ns) 10 ||| place 64 sh 8
  | .fault code reason faddr =>
    (faddr &&& maskOf 64 12 (if s.v31 then 40 else 36)) ||| place 64 code 4 ||| place 64 reason 1 ||| 1

/-- The end of an operation (R1305): PAR, then RUN; PAR is UNKNOWN, at each read anew, when a register of the group was written
meanwhile (13 R306). -/
def State.atosFinish (s : State) (g : AtosGroup) (o : AtosOp) (r : AtosRes) : State :=
  let par := if o.spoiled then (s.atosRegs g).par else s.encodePar g r
  let s := if o.spoiled then s.setUnknown (.par g) else s.setKnown (.par g)
  (s.setAtosRegs g { s.atosRegs g with ctrl := 0, par := par }).setAtosOp g none

/-- `atos_run` (R1305). -/
def State.atosRun (s : State) (g : AtosGroup) : State :=
  match s.atosOp g with
  | none => s
  | some o =>
    let (r, s) := s.atosTranslate g o
    s.atosFinish g o r

/-- A write of RUN == 1 (R1305, 13 R306): with SMMUEN == 0 it is ignored or only stored, by a draw. -/
def State.atosStart (s : State) (g : AtosGroup) : State :=
  let r := s.atosRegs g
  let i := s.iface g.iface
  if bit i.cr0 0 && bit i.cr0Ack 0 then
    (s.setAtosRegs g { r with ctrl := 1 }).setAtosOp g
      (some { sid := r.sid, addr := r.addr, sel := if g = .vatos then s.vatosSel else 0, spoiled := false })
  else if bit s.free 511 then s.drawn
  else s.drawn.setAtosRegs g { r with ctrl := 1 }

/-- A write of a CTRL register: while an operation runs it is ignored or only stored, by a draw (13 R306). A write of 0 while none
runs, which might change the flag (13 R305), clears a RUN that was only stored (log entry 43, DESIGN CHOICE). -/
def State.writeAtosCtrl (s : State) (g : AtosGroup) (run : Bool) : State :=
  let r := s.atosRegs g
  if (s.atosOp g).isSome then
    (if bit s.free 511 then s.drawn else s.drawn.setAtosRegs g { r with ctrl := placeBit 32 run 0 })
  else if run then s.atosStart g
  else s.setAtosRegs g { r with ctrl := 0 }

/-- The machine with a bound on the accesses of the walk in progress, or with none. -/
def State.withBudget (s : State) (n : Option Nat) : State := { s with trail := { s.trail with budget := n } }

/-- An operation ends with INTERNAL_ERR (R1345): it did nothing, or its walks were performed up to some access, with any of the
updates of descriptors among them (13 R306 case 3), and nothing of them is kept in the TLB (R1311). -/
def State.atosError (s : State) (g : AtosGroup) : State :=
  match s.atosOp g with
  | none => s
  | some o =>
    let d := s.free
    let s := s.drawn
    if bit d 510 then s.atosFinish g o internalErr
    else (((s.withBudget (some (fld d 0 8).toNat)).atosTranslate g o).2.withBudget none).atosFinish g o internalErr

/-- SMMUEN becomes 0 during an operation: it completes, or ends with INTERNAL_ERR, by a draw (13 R306, R1345). A RUN that was only
stored stays. -/
def State.atosAbandon (s : State) (g : AtosGroup) : State :=
  if (s.atosOp g).isNone then s
  else if bit s.free 511 then s.drawn.atosRun g
  else s.drawn.atosError g

end Sys2Proof.Machine
end

