-- ==== Sys2Proof/Machine/Pri.lean ====
section
/-! DEFINITION. PRI messages, page request hints, IMPLEMENTATION DEFINED events and Service Failure Mode (60_exceptions.md R1706,
R1750 to R1763, 61_event_records.md R1827, R1828). -/
namespace Sys2Proof.Machine

/-- Why a PRI message is not written (R1751). -/
inductive PriDrop where
  | failure
  | overflow
  deriving DecidableEq, Repr

/-- A PRG Response is owed (10_state.md R157). -/
def State.prgResponse (s : State) (m : Ppr) (pasid : Option (BitVec 20)) (code : BitVec 4) : State :=
  { s with pendingPri := s.pendingPri ++ [.response m.sid pasid m.prgi code] }

/-- The STE whose PPAR an automatic response depends on (R1755); no event is recorded. What the check reads enters the configuration
cache only where a structure may be fetched into it at any time: it serves no transaction or request (10_state.md R150). -/
def State.ppar (s : State) (sid : BitVec 32) : Option Bool × State :=
  if !s.smmuen .ns then (none, s)
  else
    let (r, t) := getSte .ns sid s
    let t := if s.impl.cfgAnyTime then t else { t with cfgCache := s.cfgCache }
    match r with
    | .error _ => (none, t)
    | .ok (e, _) => (some (Ste.ppar e), t)

/-- The automatic response of an overflow to a last request (R1754, R1755, R1762). -/
def State.priOverflowResponse (s : State) (m : Ppr) : State :=
  match m.pasid with
  | none => s.prgResponse m none 0b0000
  | some p =>
    if !s.pasids then
      (if s.impl.priOvfSteCheck then
         (match s.ppar m.sid with
          | (none, s) => s.prgResponse m none 0b1111
          | (some _, s) => s.prgResponse m none 0b0000)
       else s.prgResponse m none 0b0000)
    else if bit s.idr3 5 then s.prgResponse m (some p) 0b0000
    else
      match s.ppar m.sid with
      | (none, s) => s.prgResponse m none 0b1111
      | (some use, s) => s.prgResponse m (if use then some p else none) 0b0000

/-- `pri_drop` (R1762): a Stop marker is dropped silently (R1760; log entry 45, DEDUCED, for the interrupt of R1763), and so is a
request without L at an overflow; one with L is answered, and with LO raises the interrupt. -/
def State.priDrop (s : State) (m : Ppr) (why : PriDrop) : State :=
  if m.isStop s.pasids then s
  else match why with
    | .failure => s.prgResponse m none 0b1111
    | .overflow =>
      if !m.last then s
      else
        let s := s.priOverflowResponse m
        if bit s.priqCfg.cfg2 31 then s.priqIrq else s

def State.priqFull (s : State) : Bool := qFull s.priqProd s.priqCons s.priqs

/-- A received message is to be written, not dropped (R1751). -/
def State.priWritable (s : State) (m : Ppr) : Bool :=
  !(s.secureImpl && m.sec = .s) && s.priqen && !s.ns.gerrActive .priqAbt && !s.sfm &&
    bit s.priqProd 31 == bit s.priqCons 31 && !s.priqFull

/-- While the indexes of the PRI queue are inconsistent the SMMU produces an entry or does nothing, by a draw (20 R459). -/
def State.priHolds (s : State) (m : Ppr) : Bool :=
  s.priWritable m && qInconsistent s.priqProd s.priqCons s.priqs && bit s.free 511

/-- The place of the next entry of the PRI queue; an UNKNOWN one while the indexes are inconsistent (20 R459). -/
def State.priqIndex (s : State) : Nat × State :=
  if qInconsistent s.priqProd s.priqCons s.priqs then (s.free.toNat % 2 ^ s.priqs, s.drawn)
  else (qIndex s.priqProd s.priqs, s)

/-- `pri_write` (R1752, R1757, R1763). -/
def State.priWrite (s : State) (m : Ppr) : State :=
  let qs := s.priqs
  let wasEmpty := qEmpty s.priqProd s.priqCons qs
  let (idx, s) := s.priqIndex
  let pa := s.queueBase s.priqBase (qs + 4) + 16 * idx
  let (ok, s) := s.drawn.busWrite .ns .priq true pa (leBytes 16 (m.encode s.pasids (fld s.free 0 20)).toNat) (s.ns.queueAttrs s.priqBase)
  if !ok && s.impl.priqAbortSync then (s.gerrorActivate .ns .priqAbt).priDrop m .failure
  else
    let s := { s with priqProd := qInc s.priqProd qs }
    let s := if ok then s else s.gerrorActivate .ns .priqAbt
    if (if bit s.priqCfg.cfg2 31 then m.last else wasEmpty) then s.priqIrq else s

/-- A PRI message is received (10_state.md R157). -/
def State.priReceive (s : State) (m : Ppr) : State :=
  if s.pri then { s with pendingPri := s.pendingPri ++ [.received m] } else s

/-- `pri_receive` (R1751): what becomes of a received message. -/
def State.priAccept (s : State) (m : Ppr) : State :=
  if (s.secureImpl && m.sec = .s) || !s.priqen || s.ns.gerrActive .priqAbt || s.sfm then s.priDrop m .failure
  else if bit s.priqProd 31 != bit s.priqCons 31 then s.priDrop m .overflow
  else if s.priqFull then
    { s with priqProd := overflowToggle s.priqProd s.priqCons }.priDrop m .overflow
  else s.priWrite m

/-- A last request may not overtake an earlier one of its stream that is still waiting (R1753). -/
def State.priBehind (s : State) (n : Nat) (m : Ppr) : Bool :=
  m.last && (s.pendingPri.take n).any fun x =>
    match x with
    | .received e => e.sid == m.sid && e.sec == m.sec
    | .response .. => false

/-- The n-th received message is written, answered or dropped, in an order that R1753 leaves open but for a last request; the n-th
owed response is sent. -/
def State.takePri (s : State) (n : Nat) : State :=
  let gone := { s with pendingPri := s.pendingPri.eraseIdx n }
  match s.pendingPri[n]? with
  | none => s
  | some (.received m) =>
    if s.priBehind n m then s
    else if s.priHolds m then s.drawn
    else gone.priAccept m
  | some (.response sid pasid prgi code) => gone.emit (.prgResponse sid pasid prgi code)

/-- The SMMU reads the n-th entry of an enabled Event queue, for whatever reason; an abort is EVENTQ_ABT_ERR (R1660, R1661). -/
def State.readEventq (s : State) (q : Sec) (n : Nat) : State :=
  let i := s.iface q
  let qs := s.eventqs q
  if s.eventqen q && !s.sfm then
    match s.busRead q .eventq q.isNs (s.queueBase i.eventqBase (qs + 5) + 32 * (n % 2 ^ qs)) 32 (i.queueAttrs i.eventqBase) with
    | (some _, s) => s
    | (none, s) => s.gerrorActivate q .eventqAbt
  else s

/-- The SMMU reads the n-th entry of an enabled PRI queue, likewise (R1757). -/
def State.readPriq (s : State) (n : Nat) : State :=
  if s.priqen && !s.sfm then
    match s.busRead .ns .priq true (s.queueBase s.priqBase (s.priqs + 4) + 16 * (n % 2 ^ s.priqs)) 16 (s.ns.queueAttrs s.priqBase) with
    | (some _, s) => s
    | (none, s) => s.gerrorActivate .ns .priqAbt
  else s

/-- The SMMU writes any content into the n-th empty location of an Event queue that it may write: until PROD covers it, the location
holds UNKNOWN data (20 R462). An abort is EVENTQ_ABT_ERR (R1660; log entry 28). -/
def State.writeEventq (s : State) (q : Sec) (n : Nat) : State :=
  let i := s.iface q
  let qs := s.eventqs q
  if s.eventqWritable q && qUsed i.eventqProd i.eventqCons qs + n < 2 ^ qs then
    let pa := s.queueBase i.eventqBase (qs + 5) + 32 * ((qPos i.eventqProd qs + n) % 2 ^ qs)
    let (ok, s) := s.drawn.busWrite q .eventq q.isNs pa (freeBytes s.draw 32) (i.queueAttrs i.eventqBase)
    if ok then s else s.gerrorActivate q .eventqAbt
  else s

/-- The SMMU writes any content into the n-th empty location of the PRI queue, likewise (20 R462, R1757). -/
def State.writePriq (s : State) (n : Nat) : State :=
  let qs := s.priqs
  if s.priqen && !s.ns.gerrActive .priqAbt && !s.sfm && bit s.priqProd 31 == bit s.priqCons 31 &&
      qUsed s.priqProd s.priqCons qs + n < 2 ^ qs then
    let pa := s.queueBase s.priqBase (qs + 4) + 16 * ((qPos s.priqProd qs + n) % 2 ^ qs)
    let (ok, s) := s.drawn.busWrite .ns .priq true pa (freeBytes s.draw 16) (s.ns.queueAttrs s.priqBase)
    if ok then s else s.gerrorActivate .ns .priqAbt
  else s

/-- A page request hint (61 R1827): its record and nothing else. -/
def State.pageHint (s : State) (sec : Sec) (sid : BitVec 32) (ssv : Bool) (ssid : BitVec 20) (addr : W64) (span : BitVec 8)
    (flags : BitVec 6) : State :=
  let sec := if s.secureImpl then sec else .ns
  s.drawn.recordEvent sec { ev := evPageRequest s.free sid ssv ssid addr span flags, stag := none, mev := false }

/-- An IMPLEMENTATION DEFINED event 0xE0 to 0xEF with the content the implementation gives it, if it provides that event
(61 R1828, P_IMPDEF_EVENTS). -/
def State.impdefEvent (s : State) (sec : Sec) (n : BitVec 4) (payload : BitVec 248) : State :=
  let sec := if s.secureImpl then sec else .ns
  let ev : EvWord := place 256 payload 8 ||| place 256 n 0 ||| place 256 (0xE#4) 4
  if s.impl.impdefEvents.contains n then s.recordEvent sec { ev := ev, stag := none, mev := false } else s

/-- Entry to Service Failure Mode (60 R1706): one error of type UEU or UC is recorded (52 R1507, R1511). -/
def State.enterSfm (s : State) : State :=
  let s := { s with sfm := true }
  let d := s.impl.rasSfm
  let s := s.rasDetect d.group d.record { d.err with typ := if d.err.typ = .ueu then .ueu else .uc }
  let s := s.gerrorActivate .ns .sfm
  if s.secureImpl then s.gerrorActivate .s .sfm else s

end Sys2Proof.Machine
end

