-- ==== Sys2Proof/Machine/Prefetching.lean ====
section
/-! DEFINITION. What the SMMU does for an accepted prefetch request, at a step of its own (40_cmd_prefetch_cfgi.md R1100 to
R1106): the accesses of a speculative read, without a record and without an effect when they fail. -/
namespace Sys2Proof.Machine

/-- The access of a prefetch, which permissions never stop, so that it fills the TLB as an access of any privilege, of data or of an
instruction, would. That it is otherwise an unprivileged data read, to which the overrides of the STE do not apply, is the
model's choice (R1106; log entry 45, DESIGN CHOICE). -/
def Acc.prefetch : Acc :=
  { rd := true, wr := false, ex := false, priv := false, soft := true, any := false, bare := true }

/-- The k-th address of a request; none where the arithmetic would wrap (R1106, 92 D20). -/
def Prefetch.addrAt (p : Prefetch) (k : Nat) : Option W64 :=
  match p.addr with
  | none => none
  | some (a, size, stride) =>
    let x := a.toNat + k * 2 ^ (12 + stride)
    if k < 2 ^ size && x < 2 ^ 64 then some (BitVec.ofNat 64 x) else none

/-- The translation of one address, as far as it succeeds. -/
def State.prefetchTranslate (s : State) (c : Ctx) (sel : CdSel) (a : Option W64) : State :=
  match sel with
  | .cd idx =>
    match getCd c idx s with
    | (.error _, s) => s
    | (.ok cd, s) =>
      match a with
      | none => s
      | some a => (vaTranslate { c with cd := cd } a Acc.prefetch s).2
  | .bypass =>
    match a with
    | none => s
    | some a =>
      if Ste.cfgS2 c.ste && !addrOutside a s.ias then (ipaTranslate c.noS1 a Acc.prefetch s).2 else s

/-- One prefetch: the configuration of the stream, and the translation of one address. A SubstreamID for a stream without
substreams is taken as none, or the request has no effect on the translation, by a draw (R1102). -/
def State.prefetchOne (s : State) (p : Prefetch) (a : Option W64) : State :=
  if !s.smmuen p.sec then s
  else
    match getSte p.sec p.sid s with
    | (.error _, s) => s
    | (.ok (ste, regs), s) =>
      if !Ste.enabled ste then s
      else
        let lone := p.ssid.isSome && Ste.s1cdmax ste == 0
        let take := lone && bit s.free 511
        match cdSelect ste (p.ssid.isSome && !take) (p.ssid.getD 0) (if lone then s.drawn else s) with
        | (.error _, s) => s
        | (.ok sel, s) => s.prefetchTranslate (s.ctx p.sec p.sid ste regs) sel a

/-- The SMMU performs the k-th address of the n-th request, or its configuration alone. -/
def State.prefetch (s : State) (n k : Nat) : State :=
  match s.prefetches[n]? with
  | none => s
  | some p => s.prefetchOne p (p.addrAt k)

/-- The SMMU drops the n-th request: it was carried out, or will not be (R1104). -/
def State.dropPrefetch (s : State) (n : Nat) : State := { s with prefetches := s.prefetches.eraseIdx n }

/-! ### Reading ahead and replacement (20_memory.md R464, 10_state.md R150, R151) -/

/-- The SMMU reads the n-th submitted command of a queue ahead of its execution (20 R464). A read that aborts leaves nothing: it
counts as CERROR_ABT only when the SMMU meets it at CONS (log entry 43, DESIGN CHOICE). -/
def State.fetchCmd (s : State) (q : Sec) (n : Nat) : State :=
  let i := s.iface q
  let qs := s.cmdqs q
  let used := qUsed i.cmdqProd i.cmdqCons qs
  let pos := (qPos i.cmdqCons qs + n) % 2 ^ (qs + 1)
  if s.cmdqen q && !i.gerrActive .cmdq && !s.sfm && n < used && used ≤ 2 ^ qs &&
      !(s.cmdCache.any fun x => x.1 == q && x.2.1 == pos) then
    match s.busRead q .cmdq q.isNs (s.cmdAddr q (pos % 2 ^ qs)) 16 (i.queueAttrs i.cmdqBase) with
    | (none, s) => s
    | (some w, s) => { s with cmdCache := s.cmdCache ++ [(q, pos, BitVec.ofNat 128 w)] }
  else s

/-- Commands read ahead are dropped when the queue stops (20 R464). -/
def State.dropCmds (s : State) (q : Sec) : State := { s with cmdCache := s.cmdCache.filter fun x => x.1 != q }

/-- The SMMU replaces the n-th cached structure; the n-th cached translation. -/
def State.evictCfg (s : State) (n : Nat) : State := { s with cfgCache := s.cfgCache.eraseIdx n }
def State.evictTlb (s : State) (n : Nat) : State := { s with tlb := s.tlb.eraseIdx n }

end Sys2Proof.Machine
end

