-- ==== Sys2Proof/Machine/Updates.lean ====
section
/-! DEFINITION. The handshakes of CR0, CR2, GBPA, IRQ_CTRL and S_INIT (11_registers_ns.md R212 to R241, 12_registers_secure.md
R356 to R369), reset and power-off (70_reset_and_hazards.md R1900 to R1932, 52_ras.md R1550, R1575). -/
namespace Sys2Proof.Machine

/-- The bits of the field of CR0 or IRQ_CTRL whose lowest bit is `f`: VMW has three, every other field one. -/
def ctrlMask (f : Nat) : W32 := if f = 6 then maskOf 32 6 3 else maskOf 32 f 1

/-- A physical address field from bit `n` up to the OAS (R250, 13 R280). -/
def State.paMask (s : State) (n : Nat) : W64 := maskOf 64 n (min s.oas (if s.v31 then 52 else 48) - n)

/-- The fields of CR0 that are implemented, by their lowest bit (11 R210, 12 R356). -/
def State.cr0Fields (s : State) : Sec → List Nat
  | .ns => [0, 2, 3] ++ (if s.pri then [1] else []) ++ (if s.ats then [4] else []) ++ (if bit s.idr0 17 then [6] else [])
  | .s => [0, 2, 3, 5] ++ (if fld s.sidr0 24 2 = 0 then [9] else [])

/-- The fields of IRQ_CTRL that are implemented (11 R240, 12 R371). -/
def State.irqFields (s : State) : Sec → List Nat
  | .ns => if s.pri then [0, 1, 2] else [0, 2]
  | .s => [0, 2]

/-- A Command queue whose PROD was misused (20 R460). -/
def State.setWedged (s : State) (q : Sec) (b : Bool) : State :=
  match q with
  | .ns => { s with cmdqNsWedged := b }
  | .s => { s with cmdqSWedged := b }

def State.wedged (s : State) : Sec → Bool
  | .ns => s.cmdqNsWedged
  | .s => s.cmdqSWedged

/-- The ATOS groups of an interface. -/
def atosGroups : Sec → List AtosGroup
  | .ns => [.gatos, .vatos]
  | .s => [.sGatos]

/-- SMMUEN becomes 1 (R220, 12 R369): PTM and RECINVSID take effect, RUN is cleared; an INV_ALL under way may come to nothing. -/
def State.smmuenOn (s : State) (q : Sec) : State :=
  let s := s.setIface q { s.iface q with cr2Eff := mergeMask (maskOf 32 1 2) (s.iface q).cr2Eff (s.iface q).cr2 }
  let s := (atosGroups q).foldl (fun s g => s.setAtosRegs g { s.atosRegs g with ctrl := 0 }) s
  if s.sInit then { s.drawn with sInit := bit s.free 511 } else s

/-- The Update of SMMUEN to 1 is complete: all of CR2 has taken effect, and E2H is known again (R220, R231, R232). -/
def State.smmuenDone (s : State) (q : Sec) : State :=
  { s.setIface q { s.iface q with cr2Eff := (s.iface q).cr2 } with e2hWritten := s.e2hWritten && decide (q = Sec.s) }

/-- SMMUEN becomes 0 (R220): stalled transactions are to be aborted, ATOS operations end. -/
def State.smmuenOff (s : State) (q : Sec) : State :=
  (atosGroups q).foldl (fun s g => s.atosAbandon g) (s.dropStalls q)

/-- The side effects of a field of CR0 that changes to a value (R214 to R220). -/
def State.cr0Effects (s : State) (q : Sec) (f : Nat) (on : Bool) : State :=
  if f = 0 then (if on then s.smmuenOn q else s.smmuenOff q)
  else if f = 2 && !on then s.setEvents q ((s.events q).filter fun e => e.stag.isSome)
  else if f = 3 && !on then ((s.showCons q).dropCmds q).setWedged q false
  else s

/-- A written field of CR0 takes effect. -/
def State.cr0InEffect (s : State) (q : Sec) (f : Nat) : State :=
  let i := s.iface q
  let m := ctrlMask f
  if i.cr0 &&& m = i.cr0Eff &&& m then s
  else
    let s := s.cr0Effects q f (bit i.cr0 f)
    s.setIface q { s.iface q with cr0Eff := mergeMask m (s.iface q).cr0Eff i.cr0 }

/-- A written field of CR0 takes effect before its Update completes (R212). The queue enables do so only with it: a queue is
enabled as CR0ACK says (30 R1061, 60 R1652). -/
def State.effectCr0 (s : State) (q : Sec) (f : Nat) : State :=
  if f = 2 || f = 3 || !(s.cr0Fields q).contains f then s else s.cr0InEffect q f

/-- The Update of a field of CR0 completes (R212). That of SMMUEN to 1 has its effects then, also where the new value was in effect
before (R220, R231, 13 R306). -/
def State.updateCr0 (s : State) (q : Sec) (f : Nat) : State :=
  let m := ctrlMask f
  if !(s.cr0Fields q).contains f || (s.iface q).cr0 &&& m = (s.iface q).cr0Ack &&& m then s
  else
    let on := f = 0 && bit (s.iface q).cr0 0
    let s := if on && bit (s.iface q).cr0Eff 0 then s.smmuenOn q else s.cr0InEffect q f
    let s := if on then s.smmuenDone q else s
    s.setIface q { s.iface q with cr0Ack := mergeMask m (s.iface q).cr0Ack (s.iface q).cr0 }

/-- A written field of IRQ_CTRL takes effect (R240). -/
def State.effectIrqCtrl (s : State) (q : Sec) (f : Nat) : State :=
  let i := s.iface q
  if (s.irqFields q).contains f then s.setIface q { i with irqCtrlEff := mergeMask (ctrlMask f) i.irqCtrlEff i.irqCtrl } else s

/-- The source that a field of IRQ_CTRL enables. -/
def irqFieldSrc (q : Sec) (f : Nat) : IrqSrc := if f = 0 then .gerror q else if f = 1 then .priq else .eventq q

/-- The Update of a field of IRQ_CTRL completes (R240, R241): one to 0 when no interrupt of the source waits to be delivered. -/
def State.updateIrqCtrl (s : State) (q : Sec) (f : Nat) : State :=
  let s := s.effectIrqCtrl q f
  let i := s.iface q
  if !(s.irqFields q).contains f || (!bit i.irqCtrl f && s.irqs.any fun x => x.src == irqFieldSrc q f) then s
  else s.setIface q { i with irqCtrlAck := mergeMask (ctrlMask f) i.irqCtrlAck i.irqCtrl }

/-- PTM and RECINVSID of a written CR2 take effect (R231); E2H only with the Update of SMMUEN to 1 (R232). -/
def State.updateCr2 (s : State) (q : Sec) : State :=
  let i := s.iface q
  s.setIface q { i with cr2Eff := mergeMask (maskOf 32 1 2) i.cr2Eff i.cr2 }

/-- A written GBPA takes effect; its Update completes (R234). -/
def State.effectGbpa (s : State) (q : Sec) : State :=
  let i := s.iface q
  s.setIface q { i with gbpaEff := i.gbpa &&& ~~~(maskOf 32 31 1) }

def State.updateGbpa (s : State) (q : Sec) : State :=
  if bit (s.iface q).gbpa 31 then
    let s := s.effectGbpa q
    s.setIface q { s.iface q with gbpa := setBit (s.iface q).gbpa 31 false }
  else s

/-- INV_ALL completes (12 R368): nothing is cached any more. -/
def State.invAll (s : State) : State := { s with cfgCache := [], tlb := [], sInit := false, steLog := s.steLog ++ [.cleared] }
def State.completeInit (s : State) : State := if s.sInit then s.invAll else s

/-- A written IRQ_CTRL of a PMCG takes effect (51 R1450, 11 R212). -/
def State.pmcgIrqEffect (s : State) (n : Nat) : State := { s with pmcgs := s.pmcgs.modify n Pmcg.effectIrq }

/-- The Update of IRQEN of a PMCG completes (51 R1450): one to 0 when no interrupt of the group waits to be delivered. -/
def State.pmcgIrqAck (s : State) (n : Nat) : State :=
  match s.pmcgs[n]? with
  | none => s
  | some g =>
    if !bit g.irqCtrl 0 && s.irqs.any (fun x => x.src == .pmcg n) then s
    else { s with pmcgs := s.pmcgs.set n g.ackIrq }

/-! ### Reset and power -/

/-- The bits of a queue's base register, of STRTAB_BASE and of STRTAB_BASE_CFG that exist (13 R280, R282, R285; 10 R107). -/
def State.queueMask (s : State) : W64 := maskOf 64 62 1 ||| s.paMask 5 ||| maskOf 64 0 5
def State.strtabMask (s : State) : W64 := maskOf 64 62 1 ||| s.paMask 6
def State.strtabCfgMask (s : State) : W32 := maskOf 32 0 6 ||| (if fld s.idr0 27 2 = 0 then 0 else maskOf 32 16 2 ||| maskOf 32 6 5)

/-- The fixed values of the preset registers of an interface, which has parameters of its own (11 R226, R227, 12 R378, 13 R281,
R286, R298; 93 U221; log entry 3). -/
def State.presetIface (s : State) (q : Sec) (i : Iface) : Iface :=
  let (base, cfg, cr1t) := match q with
    | .ns => s.impl.tablesPreset
    | .s => s.impl.sTablesPreset
  let (cmdq, eventq, cr1q) := match q with
    | .ns => (s.impl.queuesPreset.1, s.impl.queuesPreset.2.1, s.impl.queuesPreset.2.2.2)
    | .s => s.impl.sQueuesPreset
  let tm : W32 := maskOf 32 6 6
  let qm : W32 := maskOf 32 0 6
  let i := if s.tablesPreset then
      { i with strtabBase := base &&& s.strtabMask, strtabCfg := cfg &&& s.strtabCfgMask, cr1 := mergeMask tm i.cr1 cr1t,
               cr1Read := mergeMask tm i.cr1Read cr1t } else i
  if s.queuesPreset then
    { i with cmdqBase := cmdq &&& s.queueMask, eventqBase := eventq &&& s.queueMask, cr1 := mergeMask qm i.cr1 cr1q,
             cr1Read := mergeMask qm i.cr1Read cr1q } else i

/-- The RAS records after a reset (52 R1575): Cold, ED, AV, V and MV are 0 and the "any value" cells 0 (92 D81); after an
error recovery reset only the implemented bits of ERRCTLR other than ED take any value, of each record its own. -/
def RasRec.erReset (free : BitVec 512) (r : RasRec) : RasRec :=
  { r with ctlr := mergeMask (errctlrMask r.feature &&& ~~~1) r.ctlr (fld free 0 64) }

/-- The groups after an error recovery reset, from draw `d` on. -/
def rasErReset (d : Nat) (l : List RasGroup) : List RasGroup :=
  l.mapIdx fun i g => { g with recs := g.recs.mapIdx fun k r => r.erReset (Config.freeValue (d + 56 * i + k)) }

/-- The SMMU after a reset (70 R1901, R1902): what is cached is the implementation's (log entry 9); the implementation, memory,
what left the SMMU and the inputs to come stay; the transactions in flight are lost. -/
def State.resetTo (s : State) (cold : Bool) : State :=
  let z := { State.reset with
    impl := s.impl, ids := s.ids, mem := s.mem, internal := s.internal, agenda := s.agenda, out := s.out, draw := s.draw,
    meanwhile := s.meanwhile, fetchOrder := s.fetchOrder, cfgCache := s.impl.resetCfg, tlb := s.impl.resetTlb,
    ns := s.presetIface .ns (Iface.reset (s.impl.gbpaReset &&& gbpaMask .ns) (s.impl.cr2PtmReset && bit s.idr0 5)),
    s := s.presetIface .s (Iface.reset (s.impl.sGbpaReset &&& gbpaMask .s) (s.impl.sCr2PtmReset && bit s.idr0 5)),
    priqBase := if s.queuesPreset then s.impl.queuesPreset.2.2.1 &&& s.queueMask else 0,
    pmcgs := s.pmcgs.map Pmcg.resetRegs }
  if cold then { z with ras := s.ras.map fun g => { g with recs := g.recs.map RasRec.coldReset } }
  else { z with ras := rasErReset z.draw s.ras, draw := z.draw + 56 * s.ras.length }

/-- No command of a queue is unconsumed: it is disabled or empty. -/
def State.cmdqIdle (s : State) (q : Sec) : Bool :=
  !s.cmdqen q || qEmpty (s.iface q).cmdqProd (s.iface q).cmdqCons (s.cmdqs q)

/-- The premises of power-off (70 R1931), which both drivers have requested: no transaction is in flight but stalled ones, and no
command or invalidation is unconsumed or incomplete. -/
def State.offReady (s : State) : Bool :=
  s.inFlight.isEmpty && s.cmdqIdle .ns && s.cmdqIdle .s && s.pendingInval.isEmpty && s.atcNs.isEmpty && s.atcS.isEmpty &&
    s.atcNsLate.isEmpty && s.atcSLate.isEmpty && !s.sInit

/-- Power-off (70 R1931), where its premises hold: every stalled transaction is aborted. -/
def State.powerOff (s : State) : State :=
  if s.offReady then { (s.stalled.foldl (fun s x => s.abortTxn x.txn) s) with stalled := [], off := true } else s

end Sys2Proof.Machine
end

