-- ==== Sys2Proof/Machine/Regs.lean ====
section
/-! DEFINITION. The register map and register accesses (10_state.md R100 to R113, 11_registers_ns.md, 12_registers_secure.md,
13_registers_queues.md). -/
namespace Sys2Proof.Machine

/-- A word of a register: its interface, its name, whether it is the upper half of a 64-bit register. -/
structure RegLoc where
  sec : Sec
  reg : Reg
  hi : Bool
  deriving DecidableEq, Repr

/-- The 64-bit registers (R102). -/
def Reg.wide : Reg → Bool
  | .gerrorCfg0 => true
  | .strtabBase => true
  | .cmdqBase => true
  | .eventqBase => true
  | .eventqCfg0 => true
  | .priqBase => true
  | .priqCfg0 => true
  | .atosSid _ => true
  | .atosAddr _ => true
  | .atosPar _ => true
  | _ => false

/-- The registers that both interfaces have at the same offset (R102); Secure ones count from 0x8000. -/
def sharedRegs (g : AtosGroup) : List (Nat × Reg) :=
  [(0x20, .cr0), (0x24, .cr0ack), (0x28, .cr1), (0x2C, .cr2), (0x44, .gbpa), (0x48, .agbpa), (0x50, .irqCtrl),
   (0x54, .irqCtrlAck), (0x60, .gerror), (0x64, .gerrorn), (0x68, .gerrorCfg0), (0x70, .gerrorCfg1), (0x74, .gerrorCfg2),
   (0x80, .strtabBase), (0x88, .strtabCfg), (0x90, .cmdqBase), (0x98, .cmdqProd), (0x9C, .cmdqCons), (0xA0, .eventqBase),
   (0xB0, .eventqCfg0), (0xB8, .eventqCfg1), (0xBC, .eventqCfg2), (0x100, .atosCtrl g), (0x108, .atosSid g),
   (0x110, .atosAddr g), (0x118, .atosPar g)]

/-- The registers of the Non-secure interface alone (R102). -/
def nsRegs : List (Nat × Reg) :=
  [(0x00, .idr 0), (0x04, .idr 1), (0x08, .idr 2), (0x0C, .idr 3), (0x10, .idr 4), (0x14, .idr 5), (0x18, .idr 6),
   (0x1C, .idr 7), (0x40, .statusr), (0xC0, .priqBase), (0xD0, .priqCfg0), (0xD8, .priqCfg1), (0xDC, .priqCfg2),
   (0x180, .vatosSel)]

/-- The registers of the Secure interface alone (R102), from 0x8000. -/
def sRegs : List (Nat × Reg) :=
  [(0x00, .sidr 0), (0x04, .sidr 1), (0x08, .sidr 2), (0x0C, .sidr 3), (0x10, .sidr 4), (0x3C, .sInit), (0xA8, .eventqProd),
   (0xAC, .eventqCons)]

/-- The registers of Page 1, and the offsets of Page 0 that may alias them (R104). -/
def page1Regs : List (Nat × Reg) :=
  [(0xA8, .eventqProd), (0xAC, .eventqCons), (0xC8, .priqProd), (0xCC, .priqCons)]

/-- The registers of the VATOS page (12 R403). -/
def vatosRegs : List (Nat × Reg) :=
  [(0xA00, .atosCtrl .vatos), (0xA08, .atosSid .vatos), (0xA10, .atosAddr .vatos), (0xA18, .atosPar .vatos)]

/-- The register at a word offset of a table. -/
def findReg (l : List (Nat × Reg)) (sec : Sec) (off : Nat) : Option RegLoc :=
  match l.find? fun x => x.1 == off || (x.2.wide && x.1 + 4 == off) with
  | some (o, r) => some { sec := sec, reg := r, hi := o != off }
  | none => none

/-- A word of Page 0 (R102, R103): an offset without a register is RAZ/WI (R105). -/
def State.page0 (s : State) (off : Nat) : Option RegLoc :=
  if 0x8000 ≤ off then findReg (sharedRegs .sGatos ++ sRegs) .s (off - 0x8000)
  else if 0xFD0 ≤ off ∧ off ≤ 0xFFC then some { sec := .ns, reg := .idReg off, hi := false }
  else match findReg (sharedRegs .gatos ++ nsRegs) .ns off with
    | some l => some l
    | none => if s.impl.page0ShadowAlias then findReg page1Regs .ns off else none

/-- The word of a register at an offset of the whole map (R100, R101, R104). -/
def State.regAt (s : State) (off : Nat) : Option RegLoc :=
  let vatos := s.vatosOff
  if off < 0x10000 then s.page0 off
  else if off < 0x20000 then
    match findReg page1Regs .ns (off - 0x10000) with
    | some l => some l
    | none => if s.impl.page1Undef = .aliasPage0 then s.page0 (off - 0x10000) else none
  else if bit s.idr0 20 && vatos ≤ off && off < vatos + 0x10000 then findReg vatosRegs .ns (off - vatos)
  else none

/-- The Security check of an access (R106): an SMMU_S_* register is reached by Secure accesses alone. -/
def State.reaches (s : State) (acc : Sec) (l : RegLoc) : Bool :=
  l.sec = .ns || (s.secureImpl && (acc = .s || (l.reg = .sInit && s.impl.sInitNsAccess)))

/-- Registers of an absent feature are Reserved (13 R298, R305, 12 R403). -/
def State.present (s : State) (r : Reg) : Bool :=
  match r with
  | .priqBase => s.pri
  | .priqProd => s.pri
  | .priqCons => s.pri
  | .priqCfg0 => s.pri
  | .priqCfg1 => s.pri
  | .priqCfg2 => s.pri
  | .atosCtrl g => bit s.idr0 15 && (g != .vatos || bit s.idr0 20)
  | .atosSid g => bit s.idr0 15 && (g != .vatos || bit s.idr0 20)
  | .atosAddr g => bit s.idr0 15 && (g != .vatos || bit s.idr0 20)
  | .atosPar g => bit s.idr0 15 && (g != .vatos || bit s.idr0 20)
  | .vatosSel => bit s.idr0 20
  | _ => true

/-! ### Reads -/

/-- SMMU_IDR0 as it reads: STALL_MODEL is a function of Secure state (11 R201). -/
def State.readIdr0 (s : State) : W32 := setFld s.idr0 24 (s.stallModel .ns)

/-- The identification registers 0x000 to 0x01C and 0x8000 to 0x8010. -/
def State.readIdr (s : State) (n : Nat) : W32 :=
  match n with
  | 0 => s.readIdr0
  | 1 => s.idr1
  | 2 => s.idr2
  | 3 => s.idr3
  | 4 => s.ids.idr4
  | 5 => s.idr5
  | 6 => s.iidr
  | _ => s.aidr

def State.readSidr (s : State) (n : Nat) : W32 :=
  match n with
  | 0 => s.sidr0
  | 1 => s.sidr1
  | 2 => 0
  | 3 => s.sidr3
  | _ => s.ids.sidr4

/-- A software-owned index register: bits above the implemented size are UNKNOWN (13 R289, R293). -/
def State.readSwIndex (s : State) (x : W32) (max : Nat) : W32 × State :=
  if max < 19 then (mergeMask (maskOf 32 (max + 1) (19 - max)) x (fld s.free 0 32), s.drawn) else (x, s)

/-- An SMMU-owned index register: bits [19:QS+1] read as zero (13 R287, R294). -/
def readHwIndex (x : W32) (qs : Nat) : W32 := x &&& ~~~(maskOf 32 (qs + 1) (19 - qs))

/-- CMDQ_CONS: RD as software sees it (13 R288); ERR is UNKNOWN while CMDQ_ERR is not active (13 R287). -/
def State.readCmdqCons (s : State) (q : Sec) : W32 × State :=
  let i := s.iface q
  let x := setFld (readHwIndex i.cmdqSeen (s.cmdqs q)) 24 (fld i.cmdqCons 24 7)
  if i.gerrActive .cmdq then (x, s) else (setFld x 24 (fld s.free 0 7), s.drawn)

/-- A transaction that holds configuration or translations that it used (10_state.md R154). -/
def Flight.holds (f : Flight) : Bool :=
  match f.stage with
  | .ready _ _ _ => true
  | .issued _ _ _ => true
  | _ => false

/-- STATUSR.DORMANT (R236, 70 R1933): 1 only if nothing is cached and nothing in progress, and then by a draw. -/
def State.readStatusr (s : State) : W32 × State :=
  let empty := s.cfgCache.isEmpty && s.tlb.isEmpty && s.prefetches.isEmpty && s.cmdCache.isEmpty && !s.inFlight.any Flight.holds
  if bit s.idr0 8 && empty then (placeBit 32 (bit s.free 511) 0, s.drawn) else (0, s)

/-- GBPA: MemAttr reads as UNKNOWN where types cannot be overridden (R233). The other fields read as they were written where
ATTR_TYPES_OVR or ATTR_PERMS_OVR is 0: zero would be permitted as well (R233, 12 R365; log entry 43, DESIGN CHOICE). -/
def State.readGbpa (s : State) (q : Sec) : W32 × State :=
  let g := (s.iface q).gbpa
  if s.typesOvr then (g, s) else (setFld g 0 (fld s.free 0 4), s.drawn)

/-- PAR is UNKNOWN while RUN == 1 or SMMUEN == 0 (50 R1340), and after an operation that was disturbed (13 R306). -/
def State.readPar (s : State) (g : AtosGroup) : W64 × State :=
  let r := s.atosRegs g
  if bit r.ctrl 0 || (s.atosOp g).isSome || !s.smmuen g.iface || s.unknown.contains (.par g) then (fld s.free 0 64, s.drawn) else (r.par, s)

/-- A 32-bit register as a 64-bit value. -/
def ext (x : W32) : W64 := x.setWidth 64
def extP (x : W32 × State) : W64 × State := (ext x.1, x.2)

/-- The value that a register holds for a read. -/
def State.heldReg (s : State) (q : Sec) (r : Reg) : W64 × State :=
  let i := s.iface q
  match r with
  | .idr n => (ext (s.readIdr n), s)
  | .sidr n => (ext (s.readSidr n), s)
  | .idReg off => (ext ((s.ids.idBlock.lookup off).getD 0), s)
  | .cr0 => (ext i.cr0, s)
  | .cr0ack => (ext i.cr0Ack, s)
  | .cr1 => (ext i.cr1Read, s)
  | .cr2 => (ext i.cr2, s)
  | .statusr => extP s.readStatusr
  | .gbpa => extP (s.readGbpa q)
  | .agbpa => (0, s)
  | .sInit => (placeBit 64 s.sInit 0, s)
  | .irqCtrl => (ext i.irqCtrl, s)
  | .irqCtrlAck => (ext i.irqCtrlAck, s)
  | .gerror => (ext i.gerror, s)
  | .gerrorn => (ext i.gerrorn, s)
  | .gerrorCfg0 => (i.gerrorCfg.cfg0, s)
  | .gerrorCfg1 => (ext i.gerrorCfg.cfg1, s)
  | .gerrorCfg2 => (ext i.gerrorCfg.cfg2, s)
  | .strtabBase => (i.strtabBase, s)
  | .strtabCfg => (ext i.strtabCfg, s)
  | .cmdqBase => (i.cmdqBase, s)
  | .cmdqProd => extP (s.readSwIndex i.cmdqProd (min (fld s.idr1 21 5).toNat 19))
  | .cmdqCons => extP (s.readCmdqCons q)
  | .eventqBase => (i.eventqBase, s)
  | .eventqProd => (ext (readHwIndex i.eventqProd (s.eventqs q)), s)
  | .eventqCons => extP (s.readSwIndex i.eventqCons (min (fld s.idr1 16 5).toNat 19))
  | .eventqCfg0 => (i.eventqCfg.cfg0, s)
  | .eventqCfg1 => (ext i.eventqCfg.cfg1, s)
  | .eventqCfg2 => (ext i.eventqCfg.cfg2, s)
  | .priqBase => (s.priqBase, s)
  | .priqProd => (ext (readHwIndex s.priqProd s.priqs), s)
  | .priqCons => extP (s.readSwIndex s.priqCons (min (fld s.idr1 11 5).toNat 19))
  | .priqCfg0 => (s.priqCfg.cfg0, s)
  | .priqCfg1 => (ext s.priqCfg.cfg1, s)
  | .priqCfg2 => (ext s.priqCfg.cfg2, s)
  | .atosCtrl g => (ext (s.atosRegs g).ctrl, s)
  | .atosSid g => ((s.atosRegs g).sid, s)
  | .atosAddr g => ((s.atosRegs g).addr, s)
  | .atosPar g => s.readPar g
  | .vatosSel => (ext s.vatosSel, s)

/-! ### Implemented bits -/

/-- The bits of a register that a write stores (11 to 13); the others are RES0 (10 R107). -/
def State.writeMask (s : State) (q : Sec) (r : Reg) : W64 :=
  let cfg0 : W64 := if s.msi q then s.paMask 2 else 0
  let cfg1 : W64 := if s.msi q then maskOf 64 0 32 else 0
  let cfg2 : W64 := if s.msi q then maskOf 64 0 6 else 0
  let sids : Nat := if q = .s then max (s.sidSize .ns) (s.sidSize .s) else s.sidSize .ns
  let ssid : W64 := maskOf 64 32 s.ssidSize ||| (if s.ssidSize = 0 then 0 else maskOf 64 52 1)
  match r with
  | .cr1 => maskOf 64 0 12
  | .cr2 => (if bit s.idr0 5 then maskOf 64 2 1 else 0) ||| maskOf 64 1 1 |||
      (if q = .ns && s.hyp then maskOf 64 0 1 else 0)
  | .gbpa => (gbpaMask q).setWidth 64
  | .gerrorCfg0 => cfg0
  | .gerrorCfg1 => cfg1
  | .gerrorCfg2 => cfg2
  | .eventqCfg0 => cfg0
  | .eventqCfg1 => cfg1
  | .eventqCfg2 => cfg2
  | .priqCfg0 => cfg0
  | .priqCfg1 => cfg1
  | .priqCfg2 => cfg2 ||| maskOf 64 31 1
  | .strtabBase => s.strtabMask
  | .strtabCfg => s.strtabCfgMask.setWidth 64
  | .cmdqBase => s.queueMask
  | .eventqBase => s.queueMask
  | .priqBase => s.queueMask
  | .cmdqProd => maskOf 64 0 20
  | .cmdqCons => maskOf 64 24 7 ||| maskOf 64 0 20
  | .eventqProd => maskOf 64 31 1 ||| maskOf 64 0 20
  | .eventqCons => maskOf 64 31 1 ||| maskOf 64 0 20
  | .priqProd => maskOf 64 31 1 ||| maskOf 64 0 20
  | .priqCons => maskOf 64 31 1 ||| maskOf 64 0 20
  | .atosSid g => (if g = .sGatos then maskOf 64 53 1 else 0) ||| ssid ||| maskOf 64 0 sids
  | .atosAddr _ => maskOf 64 6 58
  | .vatosSel => maskOf 64 0 (if bit s.idr0 18 then 16 else 8)
  | _ => 0

/-- The value a register reads as: what it holds, or any value since a write that its guard forbade (R251, 13 R281). -/
def State.readReg (s : State) (q : Sec) (r : Reg) : W64 × State :=
  if s.unknown.contains (.smmu q r) then (fld s.free 0 64 &&& s.writeMask q r, s.drawn) else s.heldReg q r

/-- One word read through the map by an access of a Security state (R106); what is not reached reads 0. -/
def State.readWord (s : State) (acc : Sec) (off : Nat) : W32 × State :=
  match s.regAt off with
  | none => (0, s)
  | some l =>
    if s.reaches acc l && s.present l.reg then
      let (v, s) := s.readReg l.sec l.reg
      (if l.hi then hi32 v else lo32 v, s)
    else (0, s)

/-! ### Storing -/

/-- The bits of an index register above the old wrap flag are UNKNOWN when its queue grows (13 R287). -/
def resizeIndex (old new : Nat) (free : W32) (x : W32) : W32 :=
  if old < new then mergeMask (maskOf 32 (old + 1) (19 - old)) x free else x

/-- The Stream table of an interface is placed anew (43 R1233). -/
def State.moveStrtab (s : State) (q : Sec) : State := { s with steLog := s.steLog ++ [.moved q] }

/-- A stored value of a plain register, with the index registers of a queue whose size changes: each gets bits of its own. A non-zero
value written to bits [19:QS+1] of CMDQ_PROD, EVENTQ_CONS or PRIQ_CONS, which might be stored (13 R289, R293, R299), always is, up to
the largest queue that the SMMU supports (log entry 43, DESIGN CHOICE). -/
def State.storeReg (s : State) (q : Sec) (r : Reg) (v : W64) : State :=
  let i := s.iface q
  let v := v &&& s.writeMask q r
  let w := lo32 v
  let f := fld s.free 0 32
  let g := fld s.free 32 32
  match r with
  | .cr1 => s.setIface q { i with cr1 := w, cr1Read := w }
  | .cr2 => s.setIface q { i with cr2 := w }
  | .gerrorCfg0 => s.setIface q { i with gerrorCfg := { i.gerrorCfg with cfg0 := v } }
  | .gerrorCfg1 => s.setIface q { i with gerrorCfg := { i.gerrorCfg with cfg1 := w } }
  | .gerrorCfg2 => s.setIface q { i with gerrorCfg := { i.gerrorCfg with cfg2 := w } }
  | .strtabBase => (s.moveStrtab q).setIface q { i with strtabBase := v }
  | .strtabCfg => (s.moveStrtab q).setIface q { i with strtabCfg := w }
  | .cmdqBase =>
    let t := s.setIface q { i with cmdqBase := v }
    if s.cmdqs q < t.cmdqs q then
      t.drawn.setIface q { i with cmdqBase := v, cmdqProd := resizeIndex (s.cmdqs q) (t.cmdqs q) f i.cmdqProd,
                                  cmdqCons := resizeIndex (s.cmdqs q) (t.cmdqs q) g i.cmdqCons
                                  cmdqSeen := resizeIndex (s.cmdqs q) (t.cmdqs q) g i.cmdqSeen }
    else t
  | .cmdqProd => s.setIface q { i with cmdqProd := w }
  | .cmdqCons => s.setIface q { i with cmdqCons := w, cmdqSeen := w }
  | .eventqBase =>
    let t := s.setIface q { i with eventqBase := v }
    if s.eventqs q < t.eventqs q then
      t.drawn.setIface q { i with eventqBase := v, eventqProd := resizeIndex (s.eventqs q) (t.eventqs q) f i.eventqProd,
                                  eventqCons := resizeIndex (s.eventqs q) (t.eventqs q) g i.eventqCons }
    else t
  | .eventqProd => s.setIface q { i with eventqProd := w }
  | .eventqCons => s.setIface q { i with eventqCons := w }
  | .eventqCfg0 => s.setIface q { i with eventqCfg := { i.eventqCfg with cfg0 := v } }
  | .eventqCfg1 => s.setIface q { i with eventqCfg := { i.eventqCfg with cfg1 := w } }
  | .eventqCfg2 => s.setIface q { i with eventqCfg := { i.eventqCfg with cfg2 := w } }
  | .priqBase =>
    let t := { s with priqBase := v }
    if s.priqs < t.priqs then
      { t.drawn with priqProd := resizeIndex s.priqs t.priqs f s.priqProd
                     priqCons := resizeIndex s.priqs t.priqs g s.priqCons }
    else t
  | .priqProd => { s with priqProd := w }
  | .priqCons => { s with priqCons := w }
  | .priqCfg0 => { s with priqCfg := { s.priqCfg with cfg0 := v } }
  | .priqCfg1 => { s with priqCfg := { s.priqCfg with cfg1 := w } }
  | .priqCfg2 => { s with priqCfg := { s.priqCfg with cfg2 := w } }
  | .atosSid g => s.setAtosRegs g { s.atosRegs g with sid := v }
  | .atosAddr g => s.setAtosRegs g { s.atosRegs g with addr := v }
  | .vatosSel => { s with vatosSel := w }
  | _ => s

/-! ### Guards (10 R113) -/

/-- A field of CR0 or of IRQ_CTRL is set, or its Update is under way (11 R213). -/
def State.cr0Set (s : State) (q : Sec) (f : Nat) : Bool := bit (s.iface q).cr0 f || bit (s.iface q).cr0Ack f
def State.irqSet (s : State) (q : Sec) (f : Nat) : Bool := bit (s.iface q).irqCtrl f || bit (s.iface q).irqCtrlAck f

/-- The guard of a plain register forbids a write (R113). -/
def State.guarded (s : State) (q : Sec) (r : Reg) : Bool :=
  match r with
  | .gerrorCfg0 => s.irqSet q 0
  | .gerrorCfg1 => s.irqSet q 0
  | .gerrorCfg2 => s.irqSet q 0
  | .strtabBase => s.cr0Set q 0
  | .strtabCfg => s.cr0Set q 0
  | .cmdqBase => s.cr0Set q 3
  | .cmdqCons => s.cr0Set q 3
  | .eventqBase => s.cr0Set q 2
  | .eventqProd => s.cr0Set q 2
  | .eventqCfg0 => s.irqSet q 2
  | .eventqCfg1 => s.irqSet q 2
  | .eventqCfg2 => s.irqSet q 2
  | .priqBase => s.cr0Set .ns 1
  | .priqProd => s.cr0Set .ns 1
  | .priqCfg0 => s.irqSet .ns 1
  | .priqCfg1 => s.irqSet .ns 1
  | .priqCfg2 => s.irqSet .ns 1
  | _ => false

/-- The register is fixed by a preset and read-only (13 R281, R286, R298). -/
def State.presetReg (s : State) (r : Reg) : Bool :=
  match r with
  | .strtabBase => s.tablesPreset
  | .strtabCfg => s.tablesPreset
  | .cmdqBase => s.queuesPreset
  | .eventqBase => s.queuesPreset
  | .priqBase => s.queuesPreset
  | _ => false

/-- A write of a plain register (R113): one that the guard forbids is ignored or stores any value, by a draw, and the reads that
follow return any value until the register is written properly (U63, U64). -/
def State.writePlain (s : State) (q : Sec) (r : Reg) (v : W64) : State :=
  if s.presetReg r then s
  else if s.guarded q r then
    (if bit s.free 511 then s.drawn else s.drawn.storeReg q r (fld s.free 0 64)).setUnknown (.smmu q r)
  else (s.storeReg q r v).setKnown (.smmu q r)

/-! ### Registers with effects of their own -/

/-- A written field of CR0 (R212). One whose Update is under way and is written with another value (R213): the write is
ignored, or stored; then the Update completes with the first value, or goes on with the new one. -/
def State.writeCr0Field (q : Sec) (w : W32) (s : State) (f : Nat) : State :=
  let i := s.iface q
  let m := ctrlMask f
  let put := fun (s : State) => s.setIface q { s.iface q with cr0 := mergeMask m (s.iface q).cr0 w }
  if i.cr0 &&& m = w &&& m then s
  else if i.cr0 &&& m = i.cr0Ack &&& m then put s
  else if bit s.free 511 then s.drawn
  else if bit s.free 510 then put (s.drawn.updateCr0 q f)
  else put s.drawn

/-- A written field of IRQ_CTRL (R240). -/
def State.writeIrqField (q : Sec) (w : W32) (s : State) (f : Nat) : State :=
  let i := s.iface q
  let m := ctrlMask f
  let put := fun (s : State) => s.setIface q { s.iface q with irqCtrl := mergeMask m (s.iface q).irqCtrl w }
  if i.irqCtrl &&& m = w &&& m then s
  else if i.irqCtrl &&& m = i.irqCtrlAck &&& m then put s
  else if bit s.free 511 then s.drawn
  else if bit s.free 510 then put (s.drawn.updateIrqCtrl q f)
  else put s.drawn

/-- Fields of CR1 under one guard (R226, R227): ignored or applied when the guard is set, by a draw; ignored or only seen by reads
when preset. One that is applied takes effect at once: the spec leaves the moment before the disable open (log entry 43, DESIGN
CHOICE). -/
def State.writeCr1Part (s : State) (q : Sec) (m : W32) (preset guard : Bool) (w : W32) : State :=
  let i := s.iface q
  let put := fun (s : State) => s.setIface q { i with cr1 := mergeMask m i.cr1 w, cr1Read := mergeMask m i.cr1Read w }
  if preset then
    (if i.cr1Read &&& m = w &&& m then s
     else if bit s.free 511 then s.drawn
     else s.drawn.setIface q { i with cr1Read := mergeMask m i.cr1Read w })
  else if guard && i.cr1 &&& m ≠ w &&& m then (if bit s.free 511 then s.drawn else put s.drawn)
  else put s

def State.writeCr1 (s : State) (q : Sec) (w : W32) : State :=
  let queues := s.cr0Set q 3 || s.cr0Set q 2 || (q = .ns && s.cr0Set .ns 1)
  let s := s.writeCr1Part q (maskOf 32 6 6) s.tablesPreset (s.cr0Set q 0) w
  s.writeCr1Part q (maskOf 32 0 6) s.queuesPreset queues w

/-- CR2 is read-only with SMMUEN == 1; a write during an Update of SMMUEN is applied or ignored, by a draw (R231). From a write on
the effect of E2H is UNPREDICTABLE (R232). -/
def State.writeCr2 (s : State) (q : Sec) (v : W64) : State :=
  let i := s.iface q
  let put := fun (s : State) => { s.storeReg q .cr2 v with e2hWritten := s.e2hWritten || decide (q = Sec.ns) }
  if bit i.cr0 0 && bit i.cr0Ack 0 then s
  else if bit i.cr0 0 != bit i.cr0Ack 0 then (if bit s.free 511 then s.drawn else put s.drawn)
  else put s

/-- GBPA (R234): with Update the value is stored and its Update begins. During an Update the write is ignored, or the Update
ends with any value in effect; without Update it is ignored or stored. -/
def State.writeGbpa (s : State) (q : Sec) (w : W32) : State :=
  let i := s.iface q
  let m := lo32 (s.writeMask q .gbpa)
  let v := w &&& m
  if bit i.gbpa 31 then
    (if bit s.free 511 then s.drawn else s.drawn.setIface q { i with gbpa := v, gbpaEff := fld s.free 0 32 &&& m })
  else if bit w 31 then s.setIface q { i with gbpa := setBit v 31 true }
  else if bit s.free 511 then s.drawn
  else s.drawn.setIface q { i with gbpa := v }

/-- SMMU_S_INIT (12 R368, R369, U66): a write of 0 while the invalidation is outstanding stops it or lets it go on, by a draw. One that
goes on completes at the write itself, and INV_ALL reads 0 from then on; the spec says that its completion cannot be determined (log
entry 29, DESIGN CHOICE). -/
def State.writeSInit (s : State) (inv : Bool) : State :=
  if inv then
    (if s.cr0Set .ns 0 || s.cr0Set .s 0 then { s.drawn with sInit := s.sInit || bit s.free 511 } else { s with sInit := true })
  else if s.sInit then (if bit s.free 511 then { s.drawn with sInit := false } else s.drawn.invAll)
  else s

/-- CMDQ_PROD (13 R289): a move that submits more than there is space for, or goes back, while the queue is enabled without
an error, is a misuse (20 R460). -/
def State.writeCmdqProd (s : State) (q : Sec) (v : W64) : State :=
  let i := s.iface q
  let qs := s.cmdqs q
  let n := 2 ^ (qs + 1)
  let t := s.storeReg q .cmdqProd v
  let used := qUsed i.cmdqProd i.cmdqCons qs
  let moved := (qPos (t.iface q).cmdqProd qs + n - qPos i.cmdqProd qs) % n
  if s.cmdqen q && !i.gerrActive .cmdq && 2 ^ qs < used + moved then t.setWedged q true else t

/-- CMDQ_CONS (13 R288): ERR takes the written value or keeps its own, by a draw; a forbidden write is ignored, or the
register takes any value and commands may come from anywhere. -/
def State.writeCmdqCons (s : State) (q : Sec) (v : W64) : State :=
  let i := s.iface q
  if s.guarded q .cmdqCons then
    (if bit s.free 511 then s.drawn else (s.drawn.storeReg q .cmdqCons (fld s.free 0 64)).setWedged q true).setUnknown (.smmu q .cmdqCons)
  else
    let s := s.setKnown (.smmu q .cmdqCons)
    if fld v 24 7 = fld i.cmdqCons 24 7 then s.storeReg q .cmdqCons v
    else if bit s.free 511 then s.drawn.storeReg q .cmdqCons v
    else s.drawn.storeReg q .cmdqCons (setFld v 24 (fld i.cmdqCons 24 7))

/-- The content of a queue becomes UNKNOWN (20 R460). -/
def State.spoilQueue (s : State) (ns : Bool) (base n : Nat) : State :=
  { s.store false ns base (freeBytes s.draw n) with draw := s.draw + n / 64 + 1 }

/-- A CONS index that software moves by more than there are entries (20 R460). -/
def consMisuse (prod old new : W32) (qs : Nat) : Bool :=
  let n := 2 ^ (qs + 1)
  let used := qUsed prod old qs
  let moved := (qPos new qs + n - qPos old qs) % n
  decide (used < moved)

def State.writeEventqCons (s : State) (q : Sec) (v : W64) : State :=
  let i := s.iface q
  let qs := s.eventqs q
  let t := s.storeReg q .eventqCons v
  if s.eventqen q && consMisuse i.eventqProd i.eventqCons (t.iface q).eventqCons qs then
    t.spoilQueue q.isNs (s.queueBase i.eventqBase (qs + 5)) (2 ^ (qs + 5))
  else t

def State.writePriqCons (s : State) (v : W64) : State :=
  let qs := s.priqs
  let t := s.storeReg .ns .priqCons v
  if s.priqen && consMisuse s.priqProd s.priqCons t.priqCons qs then
    t.spoilQueue true (s.queueBase s.priqBase (qs + 4)) (2 ^ (qs + 4))
  else t

/-- CTRL.RUN of a group is 1, or its operation is under way. -/
def State.atosBusy (s : State) (g : AtosGroup) : Bool := bit (s.atosRegs g).ctrl 0 || (s.atosOp g).isSome

/-- SID, ADDR or VATOS_SEL of a group (13 R306, R311, 10 R113): while RUN is 1 the write is ignored, or stored, by a draw; the
operation that is under way then takes any value for it and PAR will be UNKNOWN. -/
def State.writeAtosArg (s : State) (g : AtosGroup) (busy : Bool) (q : Sec) (r : Reg) (v : W64) (spoil : W64 → AtosOp → AtosOp) : State :=
  if !busy then s.storeReg q r v
  else if bit s.free 511 then s.drawn
  else
    let t := s.drawn.storeReg q r v
    match s.atosOp g with
    | none => t
    | some o => t.setAtosOp g (some { spoil (fld s.free 0 64) o with spoiled := true })

/-- A write of a whole register value. -/
def State.writeReg (s : State) (q : Sec) (r : Reg) (v : W64) : State :=
  let w := lo32 v
  match r with
  | .cr0 => (s.cr0Fields q).foldl (State.writeCr0Field q w) s
  | .irqCtrl => (s.irqFields q).foldl (State.writeIrqField q w) s
  | .cr1 => s.writeCr1 q w
  | .cr2 => s.writeCr2 q v
  | .gbpa => s.writeGbpa q w
  | .sInit => s.writeSInit (bit w 0)
  | .gerrorn => s.ackGerror q w
  | .cmdqProd => s.writeCmdqProd q v
  | .cmdqCons => s.writeCmdqCons q v
  | .eventqCons => s.writeEventqCons q v
  | .priqCons => s.writePriqCons v
  | .atosCtrl g => s.writeAtosCtrl g (bit w 0)
  | .atosSid g => s.writeAtosArg g (s.atosBusy g) q r v fun x o => { o with sid := x }
  | .atosAddr g => s.writeAtosArg g (s.atosBusy g) q r v fun x o => { o with addr := x }
  | .vatosSel => s.writeAtosArg .vatos (s.atosBusy .vatos || s.atosBusy .gatos) q r v fun x o => { o with sel := lo32 x }
  | .idr _ => s
  | .sidr _ => s
  | .idReg _ => s
  | .cr0ack => s
  | .statusr => s
  | .agbpa => s
  | .irqCtrlAck => s
  | .gerror => s
  | .atosPar _ => s
  | .gerrorCfg0 => s.writePlain q r v
  | .gerrorCfg1 => s.writePlain q r v
  | .gerrorCfg2 => s.writePlain q r v
  | .strtabBase => s.writePlain q r v
  | .strtabCfg => s.writePlain q r v
  | .cmdqBase => s.writePlain q r v
  | .eventqBase => s.writePlain q r v
  | .eventqProd => s.writePlain q r v
  | .eventqCfg0 => s.writePlain q r v
  | .eventqCfg1 => s.writePlain q r v
  | .eventqCfg2 => s.writePlain q r v
  | .priqBase => s.writePlain q r v
  | .priqProd => s.writePlain q r v
  | .priqCfg0 => s.writePlain q r v
  | .priqCfg1 => s.writePlain q r v
  | .priqCfg2 => s.writePlain q r v

/-- The stored value of a 64-bit register, of which a write of one half keeps the other (R108). -/
def State.wideValue (s : State) (q : Sec) (r : Reg) : W64 :=
  let i := s.iface q
  match r with
  | .gerrorCfg0 => i.gerrorCfg.cfg0
  | .strtabBase => i.strtabBase
  | .cmdqBase => i.cmdqBase
  | .eventqBase => i.eventqBase
  | .eventqCfg0 => i.eventqCfg.cfg0
  | .priqBase => s.priqBase
  | .priqCfg0 => s.priqCfg.cfg0
  | .atosSid g => (s.atosRegs g).sid
  | .atosAddr g => (s.atosRegs g).addr
  | _ => 0

/-- One word written through the map by an access of a Security state (R106); what is not reached ignores it. -/
def State.writeWord (s : State) (acc : Sec) (off : Nat) (w : W32) : State :=
  match s.regAt off with
  | none => s
  | some l =>
    if s.reaches acc l && s.present l.reg then
      let v := if l.reg.wide then setWord64 (s.wideValue l.sec l.reg) (if l.hi then 4 else 0) w else ext w
      s.writeReg l.sec l.reg v
    else s

/-! ### Accesses (R108 to R111) -/

/-- The word offsets that an access spans. -/
def spanned (off size : Nat) : List Nat :=
  (List.range ((off % 4 + size + 3) / 4)).map fun k => off / 4 * 4 + 4 * k

/-- The access is of a supported size and aligned (R109). Sizes other than the two that must be supported are IMPLEMENTATION
DEFINED: none is (R108; log entry 43, DESIGN CHOICE). -/
def legalAccess (off size : Nat) : Bool := (size = 4 || size = 8) && off % size = 0

/-- The access reaches two adjacent 32-bit registers (R110). One that reaches a single 32-bit register and an undefined location,
of which the spec says nothing, is taken as such an access too (log entry 43, DESIGN CHOICE). -/
def State.pairAccess (s : State) (off size : Nat) : Bool :=
  let live := fun o => (s.regAt o).filter fun l => s.present l.reg
  size = 8 && (match live off, live (off + 4) with
    | none, none => false
    | some x, _ => !x.reg.wide
    | none, some _ => true)

/-- A read access over words that `rd` reads (R109, R110): its data, or an abort, leaves the SMMU. `pair` says that it reaches two
32-bit registers. -/
def State.readAccess (rd : Nat → State → W32 × State) (pair : Bool) (off size : Nat) (s : State) : State :=
  let both := fun (s : State) =>
    let (a, s) := rd off s
    let (b, s) := rd (off + 4) s
    s.emit (.regData (place 64 a 0 ||| place 64 b 32))
  let bad := fun (how : BadAccess) (observed : State → State) (s : State) =>
    match how with
    | .razwi => s.emit (.regData 0)
    | .abort => s.emit .regAbort
    | .observed => observed s
    | .onePart =>
      let hi := bit s.free 511
      let (v, s) := rd (if hi then off + 4 else off) s.drawn
      s.emit (.regData (place 64 v (if hi then 32 else 0)))
  if !legalAccess off size then
    bad s.impl.illegalAccess (fun s => s.drawn.emit (.regData (fld s.free 0 64))) s
  else if pair then bad s.impl.pair64Access both s
  else if size = 8 then both s
  else
    let (v, s) := rd off s
    s.emit (.regData (ext v))

/-- The Security check of a legal access (R106): a word that it reaches is of an SMMU_S_* register which is RAZ/WI to it. The check
comes before that of a pair of registers (R110). -/
def State.hiddenAccess (s : State) (acc : Sec) (off size : Nat) : Bool :=
  legalAccess off size && (spanned off size).any fun o => (s.regAt o).any fun l => !s.reaches acc l

/-- A register read. -/
def State.regRead (s : State) (acc : Sec) (off size : Nat) : State :=
  if s.hiddenAccess acc off size then s.emit (.regData 0)
  else s.readAccess (fun o s => s.readWord acc o) (s.pairAccess off size) off size

/-- The word offsets with, of a 64-bit register, both halves. -/
def wholeRegs (wide : Nat → Bool) (l : List Nat) : List Nat :=
  (l.flatMap fun o => if wide o then [o / 8 * 8, o / 8 * 8 + 4] else [o]).eraseDups

/-- Any value written to each word of the registers that an illegal access spans (R109). -/
def State.spoilWords (wr : Nat → W32 → State → State) : List Nat → State → State
  | [], s => s
  | o :: os, s => State.spoilWords wr os (wr o (fld s.free 0 32) s.drawn)

/-- The two halves of a 64-bit write, in the order a draw gives (R110). -/
def State.writeHalves (wr : Nat → W32 → State → State) (off : Nat) (v : W64) (s : State) : State :=
  if bit s.free 511 then wr off (lo32 v) (wr (off + 4) (hi32 v) s.drawn)
  else wr (off + 4) (hi32 v) (wr off (lo32 v) s.drawn)

/-- A 64-bit write that the implementation sees in two halves (R111): one now, the other after some of the inputs to come. -/
def State.writeSplit (wr : Nat → W32 → State → State) (later : Nat → W32 → Stimulus) (off : Nat) (v : W64) (s : State) : State :=
  let hi := bit s.free 511
  let k := (fld s.free 0 64).toNat % (s.agenda.length + 1)
  let rest := if hi then later off (lo32 v) else later (off + 4) (hi32 v)
  let s := if hi then wr (off + 4) (hi32 v) s.drawn else wr off (lo32 v) s.drawn
  { s with agenda := s.agenda.take k ++ rest :: s.agenda.drop k }

/-- A write access over words that `wr` writes (R109 to R111); `whole` is a 64-bit write of a 64-bit register as one write, `later`
the access that writes the other half at a later moment; `wide` says that an offset is of a 64-bit register. -/
def State.writeAccess (wide : Nat → Bool) (wr : Nat → W32 → State → State) (whole : State → State) (later : Nat → W32 → Stimulus) (pair : Bool)
    (off size : Nat) (v : W64) (s : State) : State :=
  if !legalAccess off size then
    match s.impl.illegalAccess with
    | .razwi => s
    | .abort => s.emit .regAbort
    | .observed => State.spoilWords wr (wholeRegs wide (spanned off size)) s
    | .onePart => State.spoilWords wr (wholeRegs wide (spanned off size)) s
  else if pair then
    match s.impl.pair64Access with
    | .razwi => s
    | .abort => s.emit .regAbort
    | .observed => s.writeHalves wr off v
    | .onePart => if bit s.free 511 then wr (off + 4) (hi32 v) s.drawn else wr off (lo32 v) s.drawn
  else if size = 8 then (if s.impl.reg64Atomic then whole s else s.writeSplit wr later off v)
  else wr off (lo32 v) s

/-- A 64-bit write of a 64-bit register that is one write (R111). -/
def State.writeWide (s : State) (acc : Sec) (off : Nat) (v : W64) : State :=
  match s.regAt off with
  | none => s
  | some l => if s.reaches acc l && s.present l.reg then s.writeReg l.sec l.reg v else s

/-- A register write. -/
def State.regWrite (s : State) (acc : Sec) (off size : Nat) (v : W64) : State :=
  if s.hiddenAccess acc off size then s
  else s.writeAccess (fun o => (s.regAt o).any fun l => l.reg.wide) (fun o w s => s.writeWord acc o w) (fun s => s.writeWide acc off v) (fun o w => .regWrite acc o 4 (ext w))
    (s.pairAccess off size) off size v

/-! ### The pages of the counter groups and of the RAS groups (51_pmcg.md R1440, 52_ras.md R1576) -/

/-- The word at an offset is half of a 64-bit register of a counter group (51 R1441). -/
def Pmcg.wideAt (g : Pmcg) (off : Nat) : Bool :=
  let o := off / 8 * 8
  (g.stride == 8 && (decide (off < 0x200) || (decide (0x600 ≤ off) && decide (off < 0x800)))) ||
    [0xC00, 0xC20, 0xC40, 0xC60, 0xC80, 0xCC0, 0xE20, 0xE28, 0xE58].contains o

/-- A 32-bit register of a counter group stands at an offset of a page. -/
def Pmcg.narrowAt (g : Pmcg) (page1 : Bool) (off : Nat) : Bool :=
  page1 == (g.reloc && pmcgRelocOff off) && !g.wideAt off &&
    (decide (off < 0x200) || (decide (0x400 ≤ off) && decide (off < 0x500)) || (decide (0x600 ≤ off) && decide (off < 0x800)) ||
      (decide (0xA00 ≤ off) && decide (off < 0xB00)) ||
      [0xD88, 0xDF8, 0xE00, 0xE04, 0xE50, 0xE54, 0xE60, 0xE64, 0xE68, 0xE70].contains off || (decide (0xFB0 ≤ off) && decide (off < 0x1000)))

/-- The access reaches two adjacent 32-bit registers of a counter group (10 R110). -/
def Pmcg.pairAccess (g : Pmcg) (page1 : Bool) (off size : Nat) : Bool :=
  size = 8 && (g.narrowAt page1 off || g.narrowAt page1 (off + 4))

/-- The MSI register of a counter group that an access reaches, by its offset (51 R1450). -/
def Pmcg.msiReg (g : Pmcg) (page1 : Bool) (acc : Sec) (off : Nat) : Option Nat :=
  if page1 || !g.msiImpl || g.hidden acc then none
  else if off / 8 * 8 = 0xE58 then some 0xE58
  else if off = 0xE60 ∨ off = 0xE64 then some off
  else none

/-- One word read from a counter group's page; of an MSI register, in the bits that exist, any value since a write that its guard forbade. -/
def State.pmcgReadWord (s : State) (n : Nat) (page1 : Bool) (acc : Sec) (off : Nat) : W32 × State :=
  match s.pmcgs[n]? with
  | none => (0, s)
  | some g =>
    match g.msiReg page1 acc off with
    | some r => if s.unknown.contains (.pmcg n r) then (fld s.free 0 32 &&& g.msiWordMask s.oas off, s.drawn) else (g.read32 page1 off acc, s)
    | none => (g.read32 page1 off acc, s)

/-- The page of a counter group at an address, and the offset in it: Page 1 only where counters are relocated (51 R1440). -/
def Pmcg.pageOff (g : Pmcg) (addr : Nat) : Option (Bool × Nat) :=
  if g.page0 ≤ addr ∧ addr < g.page0 + 4096 then some (false, addr - g.page0)
  else if g.reloc && decide (g.page1 ≤ addr) && decide (addr < g.page1 + 4096) then some (true, addr - g.page1)
  else none

/-- The counter group whose page an address lies in, with the page and the offset (51 R1400). -/
def State.pmcgAt (s : State) (addr : Nat) : Option (Nat × Pmcg × Bool × Nat) :=
  s.pmcgs.zipIdx.findSome? fun x => (x.1.pageOff addr).map fun y => (x.2, x.1, y)

/-- A read at an address of a counter group's page: the rules of R105 to R112 apply; a legal access to a group that is hidden from
it is RAZ/WI whatever it spans (51 R1448). Where no page is, it reads 0. -/
def State.pmcgRead (s : State) (acc : Sec) (addr size : Nat) : State :=
  match s.pmcgAt addr with
  | none => s.emit (.regData 0)
  | some (n, g, page1, off) =>
    if g.hidden acc && legalAccess off size then s.emit (.regData 0)
    else s.readAccess (fun o s => s.pmcgReadWord n page1 acc o) (g.pairAccess page1 off size) off size

/-- A write of IRQ_CTRL of a counter group (51 R1450): its Update follows. Where it is under way and another value is written (11
R213), the write is ignored, or stored; then the Update completes with the first value, or goes on with the new one. -/
def State.writePmcgIrq (s : State) (n : Nat) (g : Pmcg) (w : W32) : State :=
  let put := fun (s : State) => { s with pmcgs := s.pmcgs.modify n fun g => { g with irqCtrl := w &&& 1 } }
  if g.irqCtrl = w &&& 1 then s
  else if g.irqCtrl = g.irqCtrlAck then put s
  else if bit s.free 511 then s.drawn
  else if bit s.free 510 then put (s.drawn.pmcgIrqAck n)
  else put s.drawn

/-- One word written to a counter group's page; a forbidden MSI register write is ignored or stores any value, by a draw, and the
reads that follow return any value (51 R1450, 11 R251). A changed configuration of what is counted leaves the earlier one to the
transactions in flight (51 R1405). -/
def State.pmcgWriteWord (s : State) (n : Nat) (page1 : Bool) (acc : Sec) (off : Nat) (w : W32) : State :=
  match s.pmcgs[n]? with
  | none => s
  | some g =>
    if off = 0xE50 then (if page1 || g.hidden acc then s else s.writePmcgIrq n g w)
    else
    let bad := if bit s.free 511 then none else some (fld s.free 0 64)
    let (g', irq) := g.write32 s.impl s.oas bad page1 off acc w
    let s := { s.drawn with pmcgs := s.pmcgs.set n g' }
    let s := if g'.asWas g == g' then s else s.keepPast n g
    let s := match g.msiReg page1 acc off with
      | some r => if bit g.irqCtrl 0 || bit g.irqCtrlAck 0 then s.setUnknown (.pmcg n r) else s.setKnown (.pmcg n r)
      | none => s
    if irq then s.pmcgIrq n g' else s

/-- A write at an address of a counter group's page; where no page is, it has no effect. -/
def State.pmcgWrite (s : State) (acc : Sec) (addr size : Nat) (v : W64) : State :=
  match s.pmcgAt addr with
  | none => s
  | some (n, g, page1, off) =>
    let wr := fun o w (s : State) => s.pmcgWriteWord n page1 acc o w
    if g.hidden acc && legalAccess off size then s
    else s.writeAccess g.wideAt wr (fun s => wr (off + 4) (hi32 v) (wr off (lo32 v) s))
      (fun o w => .pmcgWrite acc (addr / 4096 * 4096 + o) 4 (ext w)) (g.pairAccess page1 off size) off size v

/-- The RAS group whose page an address lies in, and the offset (52 R1510). -/
def State.rasAt (s : State) (addr : Nat) : Option (Nat × RasGroup × Nat) :=
  (s.ras.zipIdx.find? fun x => decide (x.1.base ≤ addr) && decide (addr < x.1.base + 4096)).map fun x => (x.2, x.1, addr - x.1.base)

/-- An unsupported access to a RAS group raises the fault handling interrupt, or not, by a draw (52 R1555, U208): that of the node whose
record stands at the offset, else of the node of record 0, since the spec does not say of which node. It is one wired pulse in
either style of RAS interrupts (log entry 32, DESIGN CHOICE). -/
def State.rasOdd (s : State) (g : Nat) (x : RasGroup) (off : Nat) : State :=
  if bit s.free 510 then s.drawn.pushIrqs [.wired (.rasFhi g ((x.recs[off / 64]?.map RasRec.first).getD 0))] else s.drawn

/-- Each 64-bit register of a RAS group at an offset of the list takes any value of its own (52 R1555). -/
def State.rasSpoilAll (g : Nat) : List Nat → State → State
  | [], s => s
  | o :: os, s => State.rasSpoilAll g os { s.drawn with ras := s.ras.modify g (rasSpoil s.oas o (fld s.free 0 64)) }

/-- A read at an address of a RAS group's page (52 R1576): an unsupported one returns any value. Where no page is, it reads 0. -/
def State.rasRead (s : State) (acc : Sec) (addr size : Nat) : State :=
  match s.rasAt addr with
  | none => s.emit (.regData 0)
  | some (g, x, off) =>
    if x.secureOnly && acc = .ns then s.emit (.regData 0)
    else if !rasSupported x off size then (s.rasOdd g x off).emit (.regData (fld s.free 0 64))
    else
      let a := rasRead32 x off
      let b := if size = 8 then rasRead32 x (off + 4) else 0
      s.emit (.regData (place 64 a 0 ||| place 64 b 32))

/-- The 64-bit registers of a RAS group that an access touches, by their offsets. -/
def rasTouched (off size : Nat) : List Nat := (List.range ((off % 8 + size + 7) / 8)).map fun k => off / 8 * 8 + 8 * k

/-- A write at an address of a RAS group's page (52 R1576, U208): an unsupported one is ignored or sets the registers that it
touches to any value, with or without a fault handling interrupt. Where no page is, it has no effect. -/
def State.rasWrite (s : State) (acc : Sec) (addr size : Nat) (v : W64) : State :=
  match s.rasAt addr with
  | none => s
  | some (g, x, off) =>
    if x.secureOnly && acc = .ns then s
    else if rasSupported x off size then { s with ras := s.ras.set g (Machine.rasWrite s.oas off size v x) }
    else
      let t := s.rasOdd g x off
      if bit s.free 511 then t else State.rasSpoilAll g (rasTouched off size) t

end Sys2Proof.Machine
end

