-- ==== Sys2Proof/Machine/Run.lean ====
section
/-! DEFINITION. What one step does: taking a command from a queue (30_encoding.md R1061, 20_memory.md R459 to R464), and every
input and internal action of the agenda (log entry 6). -/
namespace Sys2Proof.Machine

/-- The outcome of a step. -/
abbrev Out := Host.Outcome State Fault Refusal

/-- A Command queue is processed (R1061): it exists, is enabled, without an error, not empty; not in Service Failure Mode
(60 R1706), not after a misuse (20 R460). -/
def State.cmdqReady (s : State) (q : Sec) : Bool :=
  (q == .ns || s.secureImpl) && s.cmdqen q && !(s.iface q).gerrActive .cmdq && !s.cmdqEmpty q && !s.sfm && !s.wedged q

/-- The command is executed for its queue. -/
def State.execute (s : State) (q : Sec) (w : CmdWord) : Out := exec (decode w) { s with curQ := q }

/-- The command at an index is read and executed; an abort of the read is CERROR_ABT (R1061, R1062). -/
def State.fetchRun (s : State) (q : Sec) (idx : Nat) : Out :=
  match s.busRead q .cmdq q.isNs (s.cmdAddr q idx) 16 ((s.iface q).queueAttrs (s.iface q).cmdqBase) with
  | (some w, s) => s.execute q (BitVec.ofNat 128 w)
  | (none, s) => .next ({ s with curQ := q }.cmdError .abt)

/-- The command at RD, from its copy if it was read ahead (20 R464). -/
def State.runHead (s : State) (q : Sec) : Out :=
  let i := s.iface q
  match s.cmdCache.find? fun x => x.1 == q && x.2.1 == qPos i.cmdqCons (s.cmdqs q) with
  | some (_, _, w) => s.execute q w
  | none => s.fetchRun q (qIndex i.cmdqCons (s.cmdqs q))

/-- `step_cmdq` (R1061). While the indexes are inconsistent nothing or the command at an UNKNOWN index is taken, by a draw
(20 R459). -/
def State.runCmdq (s : State) (q : Sec) : Out :=
  let i := s.iface q
  if !s.cmdqReady q then .next s
  else if qInconsistent i.cmdqProd i.cmdqCons (s.cmdqs q) then
    (if bit s.free 511 then .next s.drawn else s.drawn.fetchRun q (s.free.toNat % 2 ^ s.cmdqs q))
  else s.runHead q

/-- A command of a misused queue (20 R460): the one at an UNKNOWN location, or any command at all. -/
def State.wildCmd (s : State) (q : Sec) (atLoc : Bool) : Out :=
  if !s.wedged q || !s.cmdqen q || s.sfm || (s.iface q).gerrActive .cmdq then .next s
  else if atLoc then s.drawn.fetchRun q (s.free.toNat % 2 ^ s.cmdqs q)
  else s.drawn.execute q (fld s.free 0 128)

/-- A write to memory by another agent (20 R452). -/
def State.agentWrite (s : State) (ns : Bool) (pa : Nat) (bs : List Byte) : Out :=
  if pa + bs.length ≤ 2 ^ 52 then .next (s.agentStore ns pa bs) else .fault .noSuchAddress

/-- What happens during the reads of the SMMU to come (20 R452, R479). -/
def State.interleave (s : State) (order : List Nat) (ws : List (List MemWr)) : Out :=
  if ws.all fun l => l.all fun w => decide (w.pa + w.bytes.length ≤ 2 ^ 52) then
    .next { s with fetchOrder := s.fetchOrder ++ order, meanwhile := s.meanwhile ++ ws }
  else .fault .noSuchAddress

/-- One input or internal action. -/
def State.act (s : State) : Stimulus → Out
  | .regRead sec off size => .next (s.regRead sec off size)
  | .regWrite sec off size v => .next (s.regWrite sec off size v)
  | .pmcgRead sec addr size => .next (s.pmcgRead sec addr size)
  | .pmcgWrite sec addr size v => .next (s.pmcgWrite sec addr size v)
  | .rasRead sec addr size => .next (s.rasRead sec addr size)
  | .rasWrite sec addr size v => .next (s.rasWrite sec addr size v)
  | .memWrite ns pa bs => s.agentWrite ns pa bs
  | .interleave order ws => s.interleave order ws
  | .transaction t => .next (s.transaction t)
  | .withdraw n => .next (s.withdraw n)
  | .respond n r => .next (s.respond n r)
  | .atsRequest t => .next (s.atsRequest t)
  | .pri m => .next (s.priReceive m)
  | .pageRequest sec sid ssv ssid addr span flags => .next (s.pageHint sec sid ssv ssid addr span flags)
  | .impdefEvent sec n payload => .next (s.impdefEvent sec n payload)
  | .atcComplete sec n => .next (s.atcComplete sec n)
  | .atcTimeout sec n => .next (s.atcTimeout sec n)
  | .broadcast b => .next (s.onBroadcast b)
  | .dvmSync id => .next (s.onDvmSync id)
  | .enterSfm => .next s.enterSfm
  | .rasError g n e => .next (s.rasDetect g n e)
  | .pmcgTick => .next (s.pmu 0 none)
  | .reset => .next (s.resetTo true)
  | .errorRecoveryReset => .next (s.resetTo false)
  | .powerOff => .next s.powerOff
  | .process n => .next (s.process n)
  | .release n => .next (s.release n)
  | .sendIrq n => .next (s.sendIrq n)
  | .mergeIrq n => .next (s.mergeIrq n)
  | .takePri n => .next (s.takePri n)
  | .readEventq sec n => .next (s.readEventq sec n)
  | .readPriq n => .next (s.readPriq n)
  | .writeEventq sec n => .next (s.writeEventq sec n)
  | .writePriq n => .next (s.writePriq n)
  | .completeInval n => .next (s.completeInval n)
  | .showCons sec => .next (s.showCons sec)
  | .effectCr0 sec f => .next (s.effectCr0 sec f)
  | .updateCr0 sec f => .next (s.updateCr0 sec f)
  | .effectIrqCtrl sec f => .next (s.effectIrqCtrl sec f)
  | .updateIrqCtrl sec f => .next (s.updateIrqCtrl sec f)
  | .updateCr2 sec => .next (s.updateCr2 sec)
  | .effectGbpa sec => .next (s.effectGbpa sec)
  | .updateGbpa sec => .next (s.updateGbpa sec)
  | .completeInit => .next s.completeInit
  | .pmcgIrqEffect n => .next (s.pmcgIrqEffect n)
  | .pmcgIrqAck n => .next (s.pmcgIrqAck n)
  | .atosRun g => .next (s.atosRun g)
  | .atosError g => .next (s.atosError g)
  | .evictCfg n => .next (s.evictCfg n)
  | .evictTlb n => .next (s.evictTlb n)
  | .prefetch n k => .next (s.prefetch n k)
  | .dropPrefetch n => .next (s.dropPrefetch n)
  | .cfgPrefetch sec sid ssid => .next (s.cfgPrefetch sec sid ssid)
  | .deliverEvent sec n => .next (s.deliverEvent sec n)
  | .resolveStall n => .next (s.resolveStall n)
  | .earlyRetry n => .next (s.earlyRetry n)
  | .runCmdq sec => s.runCmdq sec
  | .fetchCmd sec n => .next (s.fetchCmd sec n)
  | .wildCmd sec atLoc => s.wildCmd sec atLoc

/-- Powered off (70 R1931, R1932): a full reset wakes the SMMU and memory lives on; anything else is outside the spec. -/
def State.actOff (s : State) : Stimulus → Out
  | .reset => .next (s.resetTo true)
  | .memWrite ns pa bs => s.agentWrite ns pa bs
  | .interleave order ws => s.interleave order ws
  | _ => .refused .poweredOff

/-- The SMMU can go on with a transaction in flight by itself: translate it, or pass it downstream. -/
def State.canMove (s : State) (f : Flight) : Bool :=
  match f.stage with
  | .accepted => true
  | .held => !s.stallFull || s.sfm
  | .ready _ _ _ => true
  | .issued _ _ _ => false

/-- The next move of the n-th transaction in flight. -/
def State.move (s : State) (n : Nat) : State :=
  match s.inFlight[n]? with
  | none => s
  | some f =>
    match f.stage with
    | .ready _ _ _ => s.release n
    | _ => s.process n

/-- Software does not yet see how far a Command queue is consumed (13 R288). -/
def State.lags (s : State) (q : Sec) : Bool := (s.iface q).cmdqSeen != (s.iface q).cmdqCons

/-- The SMMU can go on with the n-th pending invalidation: let it take effect, or complete it. -/
def State.invalReady (s : State) (n : Nat) : Bool :=
  match s.pendingInval[n]? with
  | none => false
  | some i =>
    match i.scope with
    | .dvmSync _ => !(s.pendingInval.take n).any fun j => j.origin.isNone
    | _ => i.wait.isNone || s.drained i

/-- A stalled transaction that the SMMU can go on with: one that was commanded, or that a CMD_SYNC made stale (43 R1244); in
Service Failure Mode every one (60 R1706). -/
def State.stallReady (s : State) (x : Stall) : Bool := s.sfm || x.act.isSome || (x.stale && s.eventqWritable x.txn.sec)

/-- A pending record that can be written, or that is discarded where it cannot (60 R1653, R1655). -/
def State.eventReady (s : State) (q : Sec) (e : PendEv) : Bool := !s.sfm && (s.eventqWritable q || e.stag.isNone)

/-- The first Update under way that can complete (11 R212, R234, R240, 12 R368, 51 R1450). -/
def State.nextUpdate (s : State) : Option State :=
  let late := fun (x ack : W32) (f : Nat) => x &&& ctrlMask f != ack &&& ctrlMask f
  let cr0 := fun (q : Sec) => ((s.cr0Fields q).find? fun f => late (s.iface q).cr0 (s.iface q).cr0Ack f).map (s.updateCr0 q)
  let irq := fun (q : Sec) => ((s.irqFields q).find? fun f => late (s.iface q).irqCtrl (s.iface q).irqCtrlAck f &&
    (bit (s.iface q).irqCtrl f || !s.irqs.any fun x => x.src == irqFieldSrc q f)).map (s.updateIrqCtrl q)
  let gbpa := fun (q : Sec) => if bit (s.iface q).gbpa 31 then some (s.updateGbpa q) else none
  let group := (s.pmcgs.findIdx? fun g => g.irqCtrl != g.irqCtrlAck).map s.pmcgIrqAck
  cr0 .ns <|> cr0 .s <|> irq .ns <|> irq .s <|> gbpa .ns <|> gbpa .s <|> (if s.sInit then some s.completeInit else none) <|> group

/-- The work of one kind, if there is any that can be done now. -/
def State.chore (s : State) : Chore → Option Out
  | .flight => (s.inFlight.findIdx? s.canMove).map fun n => .next (s.move n)
  | .irq => if s.irqs.isEmpty then none else some (.next (s.sendIrq 0))
  | .pri => if s.pendingPri.isEmpty then none else some (.next (s.takePri 0))
  | .stall => (s.stalled.findIdx? s.stallReady).map fun n => .next (s.resolveStall n)
  | .atos => ([AtosGroup.gatos, .sGatos, .vatos].find? fun g => (s.atosOp g).isSome).map fun g => .next (s.atosRun g)
  | .cmdqNs => if s.cmdqReady .ns then some (s.runCmdq .ns) else none
  | .cmdqS => if s.cmdqReady .s then some (s.runCmdq .s) else none
  | .eventNs => (s.eventsNs.findIdx? (s.eventReady .ns)).map fun n => .next (s.deliverEvent .ns n)
  | .eventS => (s.eventsS.findIdx? (s.eventReady .s)).map fun n => .next (s.deliverEvent .s n)
  | .cons => ([Sec.ns, .s].find? s.lags).map fun q => .next (s.showCons q)
  | .inval => ((List.range s.pendingInval.length).find? s.invalReady).map fun n => .next (s.completeInval n)
  | .update => s.nextUpdate.map .next

/-- The kinds of work, in the order of their turns. -/
def chores : List Chore := [.flight, .irq, .pri, .stall, .atos, .cmdqNs, .cmdqS, .eventNs, .eventS, .cons, .inval, .update]

/-- Whose turn comes after a kind of work. -/
def Chore.next : Chore → Chore
  | .flight => .irq
  | .irq => .pri
  | .pri => .stall
  | .stall => .atos
  | .atos => .cmdqNs
  | .cmdqNs => .cmdqS
  | .cmdqS => .eventNs
  | .eventNs => .eventS
  | .eventS => .cons
  | .cons => .inval
  | .inval => .update
  | .update => .flight

/-- What the SMMU does with no input at hand (log entry 6): the work whose turn it is, or the next kind for which there is any; the
turn then passes on, so that every kind of work goes on in finite time (92 D36, D83). -/
def State.auto (s : State) : Out :=
  if s.off then .next s
  else
    let order := chores.dropWhile (fun c => c != s.turn) ++ chores.takeWhile (fun c => c != s.turn)
    (order.findSome? fun c => State.chore { s with turn := c.next } c).getD (.next s)

/-- The next input is acted on. -/
def State.take (s : State) (x : Stimulus) : Out := if s.off then s.actOff x else s.act x

end Sys2Proof.Machine
end

