-- ==== Sys2Proof/Machine/Step.lean ====
section
/-! DEFINITION. One step of the machine, and the host's way to place a command where the step takes its next one. -/
namespace Sys2Proof.Machine

/-- One step: the next input of the agenda, or what the SMMU does by itself (log entry 6). -/
def step (s : State) : Host.Outcome State Fault Refusal :=
  match s.agenda with
  | [] => s.auto
  | x :: rest => { s with agenda := rest }.take x

/-- The address at which `withFetchWord` places a command. -/
def fetchBase : Nat := 0x10000

/-- `s` with the command of `nbits` bits `w` as the only one of the Non-secure Command queue, which is enabled, without an
error and of one entry at `fetchBase`; the queue is to go on next, with no input and no write of another agent before. This stands
for software that wrote the command and CMDQ_PROD (log entry 6). -/
def State.withFetchWord (s : State) (nbits w : Nat) : State :=
  { s with
    ns := { s.ns with
      cr0 := s.ns.cr0 ||| 8, cr0Eff := s.ns.cr0Eff ||| 8, cr0Ack := s.ns.cr0Ack ||| 8, cmdqBase := BitVec.ofNat 64 fetchBase,
      cmdqProd := 1, cmdqCons := 0, cmdqSeen := 0, gerrorn := setBit s.ns.gerrorn 0 (bit s.ns.gerror 0) }
    mem := (s.store true true fetchBase (leBytes 16 (w % 2 ^ nbits))).mem
    internal := (s.store true true fetchBase (leBytes 16 (w % 2 ^ nbits))).internal
    agenda := [], meanwhile := [], turn := .cmdqNs, off := false, sfm := false, cmdqNsWedged := false, cmdCache := [] }

end Sys2Proof.Machine
end

