-- ==== Sys2Proof/Safety.lean ====
section
/-! DEFINITION. What the statements speak of: the effect of Consumption, of a command error, the bytes an operation stores to,
and the frames that say what a command leaves alone. -/
namespace Sys2Proof.Machine

/-! ### Bytes stored to -/

/-- The byte at `a` of space `ns` is one of the `n` bytes from `base` of space `ns'` (20_memory.md R450). -/
def inWindow (ns' : Bool) (base n : Nat) (ns : Bool) (a : Nat) : Prop := ∃ j, j < n ∧ memKey ns a = memKey ns' (base + j)

/-- Every byte of memory reads as before. -/
def SameBytes (s t : State) : Prop := ∀ ns a, t.byte ns a = s.byte ns a

/-- Every byte of memory outside the windows (space, base, length) reads as before. -/
def SameBytesBut (ws : List (Bool × Nat × Nat)) (s t : State) : Prop :=
  ∀ ns a, (∀ w ∈ ws, ¬ inWindow w.1 w.2.1 w.2.2 ns a) → t.byte ns a = s.byte ns a

/-- All the bytes of an Event queue (20_memory.md R456, 13_registers_queues.md R292). -/
def State.eventqWindow (s : State) (q : Sec) : Bool × Nat × Nat :=
  (q.isNs, s.queueBase (s.iface q).eventqBase (s.eventqs q + 5), 2 ^ (s.eventqs q + 5))

/-- The four bytes of each MSI of a CMD_SYNC of a Command queue that waits to be delivered (60_exceptions.md R1716). -/
def State.syncWindows (s : State) (q : Sec) : List (Bool × Nat × Nat) :=
  s.irqs.filterMap fun x =>
    match x with
    | .msi src ns addr _ _ => if src = .cmdSync q then some (ns, (truncTo addr s.oas).toNat, 4) else none
    | .wired _ => none

/-! ### Consumption and the command error -/

/-- With the Consumption of one more command software sees how far the queue of the running command is consumed
(13_registers_queues.md R288). -/
def State.shows (s : State) : Bool :=
  decide (s.impl.consBatch ≤
    (qPos (qInc (s.iface s.curQ).cmdqCons (s.cmdqs s.curQ)) (s.cmdqs s.curQ) + 2 ^ (s.cmdqs s.curQ + 1) -
      qPos (s.iface s.curQ).cmdqSeen (s.cmdqs s.curQ)) % 2 ^ (s.cmdqs s.curQ + 1))

/-- The WFE wake-up event of a Command queue that software sees full, when one command more is Consumed and seen to be
(30_encoding.md R1066). -/
def State.wake (s : State) : List Output :=
  if s.sev && qFull (s.iface s.curQ).cmdqProd (s.iface s.curQ).cmdqSeen (s.cmdqs s.curQ) &&
      qPos (qInc (s.iface s.curQ).cmdqCons (s.cmdqs s.curQ)) (s.cmdqs s.curQ) != qPos (s.iface s.curQ).cmdqSeen (s.cmdqs s.curQ)
  then [.sendEvent] else []

/-- What Consumption puts out: the wake-up event, if software sees it at once. -/
def State.consumeOut (s : State) : List Output := if s.shows then s.wake else []

/-- The command at RD of the queue of the running command is Consumed (30_encoding.md R1061, R1064): the wrap flag and index
of the consume index move on by one, its upper bits stand; the index that software sees is the same, or lags it, as it was, by fewer
commands than the implementation takes together (13_registers_queues.md R288); every other register of both interfaces stands. -/
def Consumed (s t : State) : Prop :=
  qPos (t.iface s.curQ).cmdqCons (s.cmdqs s.curQ) =
      (qPos (s.iface s.curQ).cmdqCons (s.cmdqs s.curQ) + 1) % 2 ^ (s.cmdqs s.curQ + 1) ∧
    fld (t.iface s.curQ).cmdqCons 20 12 = fld (s.iface s.curQ).cmdqCons 20 12 ∧
    ((t.iface s.curQ).cmdqSeen = (t.iface s.curQ).cmdqCons ∨
      ((t.iface s.curQ).cmdqSeen = (s.iface s.curQ).cmdqSeen ∧
        (qPos (t.iface s.curQ).cmdqCons (s.cmdqs s.curQ) + 2 ^ (s.cmdqs s.curQ + 1) -
          qPos (t.iface s.curQ).cmdqSeen (s.cmdqs s.curQ)) % 2 ^ (s.cmdqs s.curQ + 1) < s.impl.consBatch)) ∧
    t.iface s.curQ =
      { s.iface s.curQ with cmdqCons := (t.iface s.curQ).cmdqCons, cmdqSeen := (t.iface s.curQ).cmdqSeen } ∧
    (∀ q, q ≠ s.curQ → t.iface q = s.iface q)

/-- A command that only asks for work: it is Consumed with the wake-up event, no byte of memory changes, and nothing else
changes but the lists of work to do, with the log of the invalidations of STEs (log entry 46), the copies of commands read ahead,
and the counter of the free values. -/
def Queued (s t : State) : Prop :=
  Consumed s t ∧ t.out = s.out ++ s.consumeOut ∧ SameBytes s t ∧
    t = { s with ns := t.ns, s := t.s, out := t.out, cmdCache := t.cmdCache, draw := t.draw, prefetches := t.prefetches,
                 pendingInval := t.pendingInval,
                 steLog := s.steLog ++ (t.pendingInval.drop s.pendingInval.length).flatMap Inval.logged }

/-- An invalidation that a Command queue asked for, and no subset of it. -/
def State.inval (s : State) (sc : InvScope) : Inval := { origin := some s.curQ, scope := sc, subset := none, wait := none }

/-- A command that asks for work of which no free value was needed, and for no prefetch. -/
def Asks (s t : State) : Prop := Queued s t ∧ t.prefetches = s.prefetches ∧ t.draw = s.draw

/-- An invalidation of translations was accepted: it is the last pending one, it is of the running command's queue, and
the cached translations in its scope are those that satisfy `P` (40_cmd_prefetch_cfgi.md R1112). -/
def TlbAccepted (s t : State) (P : TlbEnt → Prop) : Prop :=
  ∃ p, t.pendingInval = s.pendingInval ++ [s.inval (.tlb p)] ∧ ∀ e, s.tlbMatch p e = true ↔ P e

/-- An invalidation of configuration was accepted, likewise; it leaves the translations alone. -/
def CfgAccepted (s t : State) (P : CfgEnt → Prop) : Prop :=
  ∃ sc, t.pendingInval = s.pendingInval ++ [s.inval sc] ∧ (∀ p, sc ≠ .tlb p) ∧ ∀ e, cfgMatch sc e = true ↔ P e

/-- The structures that CMD_CFGI_STE_RANGE must invalidate for the StreamIDs from `lo` to `hi` (R1115): the STEs and, with
`l1`, the L1STDs that serve one of them; the CDs and L1CDs of each of them. -/
def SteScope (sec : Sec) (lo hi : Nat) (l1 : Bool) (e : CfgEnt) : Prop :=
  e.sec = sec ∧
    ((e.kind = .ste ∧ lo ≤ e.hi ∧ e.lo ≤ hi) ∨ (e.kind = .l1std ∧ l1 = true ∧ lo ≤ e.hi ∧ e.lo ≤ hi) ∨
      ((e.kind = .cd ∨ e.kind = .l1cd) ∧ lo ≤ e.sid.toNat ∧ e.sid.toNat ≤ hi))

/-- The tag of a cached translation has the VMID, the ASID; its input range has the address (27_tlb.md R930, R931,
41_cmd_tlbi.md R1155). -/
def State.ofVmid (s : State) (e : TlbEnt) (vmid : BitVec 16) : Prop := ∃ v, e.vmid = some v ∧ s.vmidMatch s.vmw v vmid = true
def State.ofAsid (s : State) (e : TlbEnt) (asid : BitVec 16) : Prop := ∃ a, e.asid = some a ∧ s.asidMatch a asid = true
def HasAddr (e : TlbEnt) (a : W64) : Prop := e.base.toNat / 2 ^ e.log2 = a.toNat / 2 ^ e.log2

/-- The stage 1 entries that CMD_TLBI_NH_* commands act on (41_cmd_tlbi.md R1157, R1158). -/
def State.nonHyp (s : State) (vmid : BitVec 16) (e : TlbEnt) : Prop :=
  e.world = (if s.curQ = .ns then World.nsEL1 else World.secure) ∧ e.s1.isSome = true ∧ (s.useVmid = true → s.ofVmid e vmid)

/-- A stage 1 entry of a world. -/
def StageOne (w : World) (e : TlbEnt) : Prop := e.world = w ∧ e.s1.isSome = true

/-- The stalled transaction is the one of a stream that holds a tag (43_cmd_fault_sync.md R1230). -/
def Stall.isOf (x : Stall) (sec : Sec) (sid : BitVec 32) (stag : BitVec 16) : Prop :=
  x.txn.sec = sec ∧ x.txn.sid = sid ∧ x.stag = some stag

/-- What a command for stalled transactions leaves: it is Consumed with the wake-up event, no byte of memory changes, and
nothing else changes but the stalled transactions, the tags in use, the pending records and the counter of the free
values. -/
def StallCommand (s t : State) : Prop :=
  Consumed s t ∧ t.out = s.out ++ s.consumeOut ∧ SameBytes s t ∧
    t = { s with ns := t.ns, s := t.s, out := t.out, cmdCache := t.cmdCache, draw := t.draw, stalled := t.stalled, stags := t.stags,
                 eventsNs := t.eventsNs, eventsS := t.eventsS }

/-- What a command to the ATS port leaves: it is Consumed with the wake-up event after the messages `l`, no byte of memory
changes, and nothing else changes but the outstanding requests and the counter of the free values. -/
def PortCommand (s t : State) (l : List Output) : Prop :=
  Consumed s t ∧ t.out = s.out ++ l ++ s.consumeOut ∧ SameBytes s t ∧
    t = { s with ns := t.ns, s := t.s, out := t.out, cmdCache := t.cmdCache, draw := t.draw, atcNs := t.atcNs, atcS := t.atcS }

/-- The command error procedure was taken with a code (30_encoding.md R1062): RD and every bit of CMDQ_CONS but ERR stand, and
software sees RD there (13_registers_queues.md R288); ERR is the code; CMDQ_ERR is active, the other flags of GERROR stand, the
other registers of both interfaces stand; no byte of memory changes, and no interrupt that waited is lost. -/
def CommandError (code : BitVec 7) (s t : State) : Prop :=
  fld (t.iface s.curQ).cmdqCons 24 7 = code ∧
    (∀ n, n < 24 ∨ 31 ≤ n → bit (t.iface s.curQ).cmdqCons n = bit (s.iface s.curQ).cmdqCons n) ∧
    (t.iface s.curQ).cmdqSeen = (s.iface s.curQ).cmdqCons ∧
    (t.iface s.curQ).gerrActive .cmdq = true ∧
    (∀ n, n ≠ 0 → bit (t.iface s.curQ).gerror n = bit (s.iface s.curQ).gerror n) ∧
    t.iface s.curQ =
      { s.iface s.curQ with cmdqCons := (t.iface s.curQ).cmdqCons, cmdqSeen := (t.iface s.curQ).cmdqSeen,
                            gerror := (t.iface s.curQ).gerror } ∧
    (∀ q, q ≠ s.curQ → t.iface q = s.iface q) ∧ SameBytes s t ∧
    (∃ l m, t.out = s.out ++ l ∧ t.irqs = s.irqs ++ m) ∧
    t = { s with ns := t.ns, s := t.s, out := t.out, cmdCache := t.cmdCache, draw := t.draw, irqs := t.irqs, ras := t.ras }

/-- The command is ILLEGAL: CERROR_ILL is taken (30_encoding.md R1057, R1062). -/
def Illegal (i : Instr) (s : State) : Prop := ∃ t, exec i s = .next t ∧ CommandError 1 s t

/-- The next state is that of no effect, or that of one of the commands `P`, in the same state but for the free values taken before
(30_encoding.md R1056). -/
def AsOneOf (s t : State) (P : Instr → Prop) : Prop :=
  ∃ d, s.draw ≤ d ∧ (t = ({ s with draw := d } : State).consume ∨ ∃ i, P i ∧ exec i { s with draw := d } = .next t)

/-- The RES0 bits of a command give no error (30_encoding.md R1055). -/
def State.res0Ok (s : State) (res v30 : CmdWord) : Prop := s.res0Ill res v30 = false

/-- The position of the command at RD, and the address it stands at (30_encoding.md R1050, 20_memory.md R456). -/
def State.cmdIndex (s : State) (q : Sec) : Nat := qIndex (s.iface q).cmdqCons (s.cmdqs q)
def State.headAddr (s : State) (q : Sec) : Nat := s.cmdAddr q (s.cmdIndex q)

/-- The SMMU reads the command at RD: the queue is processed (R1061), its indexes are consistent (20_memory.md R459), no copy of
the command was read ahead (20 R464), and no write of another agent falls before the read (20 R452). -/
def State.fetches (s : State) (q : Sec) : Prop :=
  s.cmdqReady q = true ∧ s.meanwhile = [] ∧ qInconsistent (s.iface q).cmdqProd (s.iface q).cmdqCons (s.cmdqs q) = false ∧
    ∀ x ∈ s.cmdCache, ¬ (x.1 = q ∧ x.2.1 = qPos (s.iface q).cmdqCons (s.cmdqs q))

/-- The state in which the command of a queue runs: the bus has shown the read of its 16 bytes. -/
def State.fetched (s : State) (q : Sec) : State :=
  { s.bus .cmdq .read q.isNs (s.headAddr q) 16 ((s.iface q).queueAttrs (s.iface q).cmdqBase) with curQ := q }

/-! ### Client transactions -/

/-- What the translation of a transaction gives from the state `s` on, where the context of its stream is `c0` and `sel` says how stage 1 is
entered: with a CD, whose context is `c`, or, where stage 1 is bypassed, by stage 2 alone (23_translation.md R830 steps 4 and 5). -/
def Translates (c0 : Ctx) (sel : CdSel) (t : Txn) (i : Attrs) (s : State) (c : Ctx) (r : Except Flt XRes × State) : Prop :=
  (∃ idx cd s', sel = .cd idx ∧ getCd c0 idx s = (.ok cd, s') ∧ c = { c0 with cd := cd } ∧ vaTranslate c t.addr (t.acc i) s' = r) ∨
    (sel = .bypass ∧ Ste.cfgS2 c0.ste = true ∧ addrOutside t.addr s.ias = false ∧ c = c0 ∧ ipaTranslate c.noS1 t.addr (t.acc i) s = r)

/-- What a Translation-related fault `f` of a Non-secure transaction `x` makes of the state `s` (60_exceptions.md R1674, R1680, R1681). It
stalls where CD.S, or at stage 2 STE.S2S, says so: it is kept with a STAG that is not in use for its stream, and a stall record is
pending, whatever CD.R or STE.S2R says. Else it is aborted, or by CD.A at stage 1 completes as RAZ/WI, and recorded as CD.R or
STE.S2R says. Nothing else changes but the counters. -/
def FaultOutcome (s t : State) (x : Txn) (c : Ctx) (f : Flt) : Prop :=
  let stall := if f.s2 then Ste.s2s c.ste else Cd.s c.cd
  let log := if f.s2 then Ste.s2r c.ste else Cd.r c.cd
  let recorded := fun e : PendEv => t.eventsNs = s.eventsNs ++ [e] ∧ fld e.ev 0 8 = f.kind.num ∧ fld e.ev 32 32 = x.sid
  t = { s with out := t.out, eventsNs := t.eventsNs, stalled := t.stalled, stags := t.stags, draw := t.draw, pmcgs := t.pmcgs,
               irqs := t.irqs, trail := { s.trail with past := [] } } ∧
  (stall = true → t.out = s.out ∧ ∃ e tag n, recorded e ∧ e.stag = some tag ∧ (∀ k ∈ s.stags, k.names .ns x.sid tag = false) ∧
    t.stags = s.stags ++ [{ sec := .ns, sid := x.sid, tag := tag, serial := n }] ∧
    t.stalled = s.stalled ++ [{ txn := x, stag := some tag, parent := none, recorded := false, stale := false, act := none, serial := n }]) ∧
  (stall = false → t.stalled = s.stalled ∧ t.stags = s.stags ∧
    t.out = s.out ++ [if f.s2 || Cd.a c.cd then .abort x.id else .razwi x.id] ∧
    (log = true → ∃ e, recorded e ∧ e.stag = none) ∧ (log = false → t.eventsNs = s.eventsNs))

/-! ### Whole-machine rules -/

/-- The turn of a Command queue among the kinds of work that the SMMU goes on with by itself (log entry 6). -/
def queueTurn : Sec → Chore
  | .ns => .cmdqNs
  | .s => .cmdqS

/-- A cached structure without the SIF that goes with it (12_registers_secure.md R358; log entry 45). -/
def CfgEnt.noSif (e : CfgEnt) : CfgEnt := { e with regs := { e.regs with sif := false } }

/-- The fields that a command can change; the others stand. -/
def CommandFrame (s t : State) : Prop :=
  t = { s with ns := t.ns, s := t.s, cfgCache := t.cfgCache, tlb := t.tlb, inFlight := t.inFlight, stalled := t.stalled,
               stags := t.stags,
               pendingInval := t.pendingInval, steLog := t.steLog, atcNs := t.atcNs, atcS := t.atcS, atcNsLate := t.atcNsLate,
               atcSLate := t.atcSLate, eventsNs := t.eventsNs, eventsS := t.eventsS, prefetches := t.prefetches,
               irqs := t.irqs, cmdCache := t.cmdCache, mem := t.mem, internal := t.internal, ras := t.ras, out := t.out, draw := t.draw }

/-- Only CMDQ_CONS, GERROR and the index of the Event queue differ: the registers that a command can move. -/
def CommandRegisters (a b : Iface) : Prop :=
  b = { a with cmdqCons := b.cmdqCons, cmdqSeen := b.cmdqSeen, gerror := b.gerror, eventqProd := b.eventqProd }

/-- What holds from step to step: the identification registers and the parameters stand, free values are never taken
twice, and nothing that left the SMMU is taken back. -/
def Onward (s t : State) : Prop :=
  t.ids = s.ids ∧ t.impl = s.impl ∧ s.draw ≤ t.draw ∧ ∃ l, t.out = s.out ++ l

end Sys2Proof.Machine
end

