-- ==== Sys2Proof/Certificates/Slice0/Obligations.lean ====
section
/-! DEFINITION. The statements about the machine. -/

open Sys2Proof Sys2Proof.Machine

/-! ### Encodings -/

/-- Decoding an encoded command gives it back, with every operand at every value (30_encoding.md R1054, 40 to 43). -/
def Obligations.DecodeOfEncode : Prop := ∀ i : Instr, WellFormed i → decode (encode i) = i

/-- Every 128-bit entry is the encoding of the command it decodes to, and that command is well formed (30_encoding.md R1050). -/
def Obligations.EncodeOfDecode : Prop := ∀ w : CmdWord, WellFormed (decode w) ∧ encode (decode w) = w

/-- The 16 bytes of a command, with anything behind them, decode to it (30_encoding.md R1050). -/
def Obligations.DecodeOfCommandBytes : Prop :=
  (∀ (i : Instr) (rest : List Byte), WellFormed i →
    (encodeBytes i).length = 16 ∧ decodeBytes (encodeBytes i ++ rest) = .ok (i, rest)) ∧
  ∀ bs : List Byte, bs.length < 16 → decodeBytes bs = .error .truncated

/-- Entries written out from the encodings of the spec decode to the commands they stand for (40 to 43, 95_test_vectors.md). -/
def Obligations.SpecWordsDecode : Prop :=
  decode 0x00000000_00000000_00000123_00005801#128 = .prefetchConfig false true 5 0x123 0 ∧
  decode 0x00000000_00000007_00001234_00000004#128 = .cfgiSteRange false 0x1234 7 0 ∧
  decode 0x00000000_0000001F_00000000_00000404#128 = .cfgiAll true 0 0 ∧
  decode 0x00000000_12345001_00420001_00000012#128 = .tlbiNhVa 1 0x42 true 0x12345 0 ∧
  decode 0x00000000_12345000_00000100_00000040#128 = .atcInv false false 0 0x100 0 0x12345 0 ∧
  decode 0x00000000_80001000_CAFE0001_0FC01046#128 = .sync 1 3 15 0xCAFE0001 0x20000400 0 ∧
  decode 0x00000000_00000003_00000025_00002044#128 = .resume false false true 0x25 3 0

/-- Opcodes 0x80 to 0x8F (30_encoding.md R1058): the entry decodes to the IMPLEMENTATION DEFINED command; one that the
implementation does not provide raises CERROR_ILL; by default none is provided. That the machine refuses one that is provided, whose
behaviour is outside the spec, is the model's choice (log entry 36). -/
def Obligations.ImplementationDefinedOpcodes : Prop :=
  (∀ w : CmdWord, (0x80 ≤ (fld w 0 8).toNat ∧ (fld w 0 8).toNat ≤ 0x8F) ↔ decode w = .impdef w) ∧
  (∀ (s : State) (w : CmdWord), fld w 0 8 ∉ s.impl.impdefCmds → Illegal (.impdef w) s) ∧
  (∀ (s : State) (w : CmdWord), fld w 0 8 ∈ s.impl.impdefCmds →
    exec (.impdef w) s = .refused (.impdefCommand (fld w 0 8))) ∧
  Impl.default.impdefCmds = []

/-- The Reserved opcodes, by the ranges the table leaves, and nothing else decode to the reserved command, which raises
CERROR_ILL in every state (30_encoding.md R1054, R1057). -/
def Obligations.ReservedOpcodes : Prop :=
  (∀ w : CmdWord,
    (let n := (fld w 0 8).toNat
     n = 0 ∨ (0x07 ≤ n ∧ n ≤ 0x0F) ∨ (0x14 ≤ n ∧ n ≤ 0x17) ∨ n = 0x19 ∨ (0x1B ≤ n ∧ n ≤ 0x1F) ∨ (0x24 ≤ n ∧ n ≤ 0x27) ∨
       n = 0x29 ∨ (0x2B ≤ n ∧ n ≤ 0x2F) ∨ (0x31 ≤ n ∧ n ≤ 0x3F) ∨ n = 0x42 ∨ n = 0x43 ∨ (0x47 ≤ n ∧ n ≤ 0x7F) ∨ 0x90 ≤ n) ↔
    decode w = .reserved w) ∧
  ∀ (s : State) (w : CmdWord), Illegal (.reserved w) s

/-! ### A step runs the decoded command -/

/-- With no input at hand, where it is the turn of a Command queue (the order of the turns is the model's choice, log entry 6), the
16 bytes at its RD are read and the command they decode to is executed; the turn passes on, and nothing else happens in that step
(30_encoding.md R1061). -/
def Obligations.StepRunsDecodedCommand : Prop :=
  ∀ (s : State) (q : Sec) (i : Instr), s.agenda = [] → s.off = false → s.turn = queueTurn q → s.fetches q →
    s.aborts .cmdq q.isNs (s.headAddr q) 16 = false → s.pcieSpace q.isNs (s.headAddr q) 16 = false →
    decodeBytes (s.load q.isNs (s.headAddr q) 16) = .ok (i, []) → WellFormed i →
    step s = exec i ({ s with turn := (queueTurn q).next }.fetched q)

/-- When the next input calls on a Command queue, of either Security state, the command at its RD is read and executed, whatever the
other inputs to come are (30_encoding.md R1061); one that was read ahead is executed from its copy (20_memory.md R464). -/
def Obligations.TurnRunsDecodedCommand : Prop :=
  ∀ (s : State) (q : Sec) (rest : List Stimulus), s.agenda = .runCmdq q :: rest → s.off = false →
    (∀ i, s.fetches q → s.aborts .cmdq q.isNs (s.headAddr q) 16 = false → s.pcieSpace q.isNs (s.headAddr q) 16 = false →
      decodeBytes (s.load q.isNs (s.headAddr q) 16) = .ok (i, []) → WellFormed i →
      step s = exec i ({ s with agenda := rest }.fetched q)) ∧
    ∀ w, s.cmdqReady q = true → qInconsistent (s.iface q).cmdqProd (s.iface q).cmdqCons (s.cmdqs q) = false →
      s.cmdCache = [(q, qPos (s.iface q).cmdqCons (s.cmdqs q), w)] →
      step s = exec (decode w) { s with agenda := rest, curQ := q }

/-- An external abort of the read of a command is CERROR_ABT: nothing is executed and RD stays (30_encoding.md R1061, R1062). -/
def Obligations.FetchAbortIsCommandError : Prop :=
  ∀ (s : State) (q : Sec) (rest : List Stimulus), s.agenda = .runCmdq q :: rest → s.off = false → s.fetches q →
    s.aborts .cmdq q.isNs (s.headAddr q) 16 = true →
    ∃ t, step s = .next t ∧ CommandError 2 { s with agenda := rest, curQ := q } t

/-- A Command queue that is empty, disabled or stopped by an error, or that does not exist, executes nothing (30_encoding.md
R1061); nor does any while Service Failure Mode lasts (60_exceptions.md R1706). -/
def Obligations.StoppedQueueExecutesNothing : Prop :=
  ∀ (s : State) (q : Sec) (rest : List Stimulus), s.agenda = .runCmdq q :: rest → s.off = false →
    (s.cmdqen q = false ∨ s.cmdqEmpty q = true ∨ (s.iface q).gerrActive .cmdq = true ∨ s.sfm = true ∨
      (q = .s ∧ s.secureImpl = false)) →
    step s = .next { s with agenda := rest }

/-! ### Prefetch commands -/

/-- CMD_PREFETCH_CONFIG and CMD_PREFETCH_ADDR with SMMUEN of the queue 1: the request, with the address, Size and Stride of
the latter, is kept for the SMMU to carry out; in SMMUv3.0 the Stride is taken as 0 (40_cmd_prefetch_cfgi.md R1104 to R1106). -/
def Obligations.PrefetchIsRequested : Prop :=
  ∀ (s : State) (sec : Sec) (ssec ssv : Bool) (ssid : BitVec 20) (sid : BitVec 32) (size stride : BitVec 5) (addr : BitVec 52)
    (res : CmdWord),
    s.sec ssec = some sec → s.res0Ok res 0 → s.smmuen s.curQ = true → sid.toNat < 2 ^ s.sidSize sec →
    (ssv = true → s.ssidSize ≠ 0 ∧ ssid.toNat < 2 ^ s.ssidSize) →
    let p : Prefetch := { sec := sec, sid := sid, ssid := if ssv then some ssid else none, addr := none }
    (∃ t, exec (.prefetchConfig ssec ssv ssid sid res) s = .next t ∧ Queued s t ∧ t.pendingInval = s.pendingInval ∧
      t.draw = s.draw ∧ t.prefetches = s.prefetches ++ [p]) ∧
    ((s.v31 = true ∨ stride = 0 ∨ s.impl.v30StrideIll = false) →
      ∃ t, exec (.prefetchAddr ssec ssv ssid sid size stride addr res) s = .next t ∧ Queued s t ∧
        t.pendingInval = s.pendingInval ∧ t.draw = s.draw ∧
        t.prefetches = s.prefetches ++ [{ p with addr := some (addr ++ 0#12, size.toNat, if s.v31 then stride.toNat else 0) }])

/-- With SMMUEN of the queue 0 a valid prefetch command, whatever its parameters, is Consumed and triggers no prefetch: it
writes nothing but the consume index (40_cmd_prefetch_cfgi.md R1103). -/
def Obligations.PrefetchWhileDisabled : Prop :=
  ∀ (s : State) (sec : Sec) (ssec ssv : Bool) (ssid : BitVec 20) (sid : BitVec 32) (size stride : BitVec 5) (addr : BitVec 52)
    (res : CmdWord),
    s.sec ssec = some sec → s.res0Ok res 0 → s.smmuen s.curQ = false →
    (∃ t, exec (.prefetchConfig ssec ssv ssid sid res) s = .next t ∧ Asks s t ∧ t.pendingInval = s.pendingInval) ∧
    ((s.v31 = true ∨ stride = 0 ∨ s.impl.v30StrideIll = false) →
      ∃ t, exec (.prefetchAddr ssec ssv ssid sid size stride addr res) s = .next t ∧ Asks s t ∧ t.pendingInval = s.pendingInval)

/-- A prefetch that the SMMU carries out records no event, changes no register of the two programming interfaces nor PRIQ_PROD,
and is not a fault, whatever it meets (40_cmd_prefetch_cfgi.md R1100, R1104). -/
def Obligations.PrefetchRecordsNothing : Prop :=
  ∀ (s : State) (n k : Nat) (rest : List Stimulus), s.agenda = .prefetch n k :: rest → s.off = false →
    ∃ t, step s = .next t ∧ t.eventsNs = s.eventsNs ∧ t.eventsS = s.eventsS ∧ t.ns = s.ns ∧ t.s = s.s ∧
      t.stalled = s.stalled ∧ t.inFlight = s.inFlight ∧ t.priqProd = s.priqProd ∧ t.pendingPri = s.pendingPri ∧
      t.prefetches = s.prefetches

/-! ### Configuration invalidation commands -/

/-- CMD_CFGI_STE: the STE, its L1STD unless Leaf, and every CD and L1CD of the stream are to go (40_cmd_prefetch_cfgi.md R1114). -/
def Obligations.CfgiSteIsAccepted : Prop :=
  ∀ (s : State) (sec : Sec) (ssec : Bool) (sid : BitVec 32) (leaf : Bool) (res : CmdWord),
    s.sec ssec = some sec → s.res0Ok res 0 → sid.toNat < 2 ^ s.sidSize sec →
    ∃ t, exec (.cfgiSte ssec sid leaf res) s = .next t ∧ Asks s t ∧
      CfgAccepted s t (SteScope sec sid.toNat sid.toNat (!leaf))

/-- CMD_CFGI_STE_RANGE and CMD_CFGI_ALL: everything cached of the aligned range of 2^(Range+1) StreamIDs, respectively of
every StreamID of the Security state (40_cmd_prefetch_cfgi.md R1115, R1118). That it is the aligned start of the range which has to be
in range is deduced (log entry 20). -/
def Obligations.CfgiRangeIsAccepted : Prop :=
  (∀ (s : State) (sec : Sec) (ssec : Bool) (sid : BitVec 32) (range : BitVec 5) (res : CmdWord),
    s.sec ssec = some sec → s.res0Ok res 0 → sid.toNat - sid.toNat % 2 ^ (range.toNat + 1) < 2 ^ s.sidSize sec →
    ∃ t, exec (.cfgiSteRange ssec sid range res) s = .next t ∧ Asks s t ∧
      CfgAccepted s t (SteScope sec (sid.toNat - sid.toNat % 2 ^ (range.toNat + 1))
        (sid.toNat - sid.toNat % 2 ^ (range.toNat + 1) + 2 ^ (range.toNat + 1) - 1) true)) ∧
  ∀ (s : State) (sec : Sec) (ssec : Bool) (sid : BitVec 32) (res : CmdWord), s.sec ssec = some sec → s.res0Ok res 0 →
    ∃ t, exec (.cfgiAll ssec sid res) s = .next t ∧ Asks s t ∧ CfgAccepted s t (SteScope sec 0 0xFFFFFFFF true)

/-- CMD_CFGI_CD and CMD_CFGI_CD_ALL: the CD at an index of a stream with its L1CD unless Leaf, respectively every CD and
L1CD of the stream; no STE (40_cmd_prefetch_cfgi.md R1116, R1117). -/
def Obligations.CfgiCdIsAccepted : Prop :=
  ∀ (s : State) (sec : Sec) (ssec : Bool) (ssid : BitVec 20) (sid : BitVec 32) (leaf : Bool) (res : CmdWord),
    s.s1p = true → s.sec ssec = some sec → s.res0Ok res 0 → sid.toNat < 2 ^ s.sidSize sec →
    (ssid.toNat < 2 ^ s.ssidSize →
      ∃ t, exec (.cfgiCd ssec ssid sid leaf res) s = .next t ∧ Asks s t ∧
        CfgAccepted s t fun e => e.sec = sec ∧ e.sid = sid ∧ e.lo ≤ ssid.toNat ∧ ssid.toNat ≤ e.hi ∧
          (e.kind = .cd ∨ (e.kind = .l1cd ∧ leaf = false))) ∧
    ∃ t, exec (.cfgiCdAll ssec sid res) s = .next t ∧ Asks s t ∧
      CfgAccepted s t fun e => e.sec = sec ∧ e.sid = sid ∧ (e.kind = .cd ∨ e.kind = .l1cd)

/-! ### TLB invalidation commands -/

/-- CMD_TLBI_NH_ALL, _ASID, _VAA and _VA (41_cmd_tlbi.md R1155, R1157, R1158, R1160 to R1163): the stage 1 entries of the
queue's world, of the VMID where it is matched, of the ASID and of the address that the command names, with Leaf those of the last
level only (R1156); global entries are left alone by _ASID only. With a VMID that is
not matched and not zero the command is performed for every VMID, or not at all, as a free value says: the model's choice (log
entry 18). -/
def Obligations.TlbiNonHypIsAccepted : Prop :=
  ∀ (s : State) (vmid asid : BitVec 16) (leaf : Bool) (addr : BitVec 52) (res : CmdWord) (i : Instr) (P : TlbEnt → Prop),
    s.s1p = true → s.res0Ok res 0 →
    ((i = .tlbiNhAll vmid res ∧ P = s.nonHyp vmid) ∨
      (i = .tlbiNhAsid vmid asid res ∧ P = fun e => s.nonHyp vmid e ∧ e.glob = false ∧ s.ofAsid e asid) ∨
      (i = .tlbiNhVaa vmid leaf addr res ∧ P = fun e => s.nonHyp vmid e ∧ (leaf = true → e.last = true) ∧ HasAddr e (addr ++ 0#12)) ∨
      (i = .tlbiNhVa vmid asid leaf addr res ∧
        P = fun e => s.nonHyp vmid e ∧ (leaf = true → e.last = true) ∧ (e.glob = true ∨ s.ofAsid e asid) ∧
          HasAddr e (addr ++ 0#12))) →
    ((s.useVmid = true ∨ vmid = 0) → ∃ t, exec i s = .next t ∧ Asks s t ∧ TlbAccepted s t P) ∧
    (¬ (s.useVmid = true ∨ vmid = 0) → ∃ t, exec i s = .next t ∧ Queued s t ∧ t.draw = s.draw + 1 ∧ t.prefetches = s.prefetches ∧
      (t.pendingInval = s.pendingInval ∨ TlbAccepted s t P))

/-- CMD_TLBI_EL3_ALL and CMD_TLBI_EL3_VA on the Secure Command queue: the EL3 entries, respectively those of an address, with
Leaf of the last level only. CMD_TLBI_EL2_ALL and CMD_TLBI_EL2_ASID: every EL2 and EL2-E2H entry, respectively the non-global
EL2-E2H entries of the ASID (41_cmd_tlbi.md R1156, R1164, R1165, R1166, R1169). That of the latter any subset goes while E2H is
UNKNOWN (11_registers_ns.md R232) is the model's choice (log entry 19). -/
def Obligations.TlbiRegimeIsAccepted : Prop :=
  ∀ (s : State) (leaf : Bool) (asid : BitVec 16) (addr : BitVec 52) (res : CmdWord), s.s1p = true → s.res0Ok res 0 →
    (s.curQ = .s →
      (∃ t, exec (.tlbiEl3All res) s = .next t ∧ Asks s t ∧ TlbAccepted s t (StageOne .el3)) ∧
      ∃ t, exec (.tlbiEl3Va leaf addr res) s = .next t ∧ Asks s t ∧
        TlbAccepted s t fun e => StageOne .el3 e ∧ (leaf = true → e.last = true) ∧ HasAddr e (addr ++ 0#12)) ∧
    (s.hyp = true →
      (∃ t, exec (.tlbiEl2All res) s = .next t ∧ Asks s t ∧ TlbAccepted s t fun e => StageOne .el2 e ∨ StageOne .el2E2H e) ∧
      (s.e2hUnknown = false → ∃ t, exec (.tlbiEl2Asid asid res) s = .next t ∧ Asks s t ∧
        TlbAccepted s t fun e => StageOne .el2E2H e ∧ e.glob = false ∧ s.ofAsid e asid) ∧
      (s.e2hUnknown = true → ∃ t p, exec (.tlbiEl2Asid asid res) s = .next t ∧ Queued s t ∧ t.prefetches = s.prefetches ∧
        t.pendingInval = s.pendingInval ++ [{ s.inval (.tlb p) with subset := some s.draw }] ∧
        ∀ e, s.tlbMatch p e = true ↔ StageOne .el2E2H e ∧ e.glob = false ∧ s.ofAsid e asid))

/-- CMD_TLBI_EL2_VA and CMD_TLBI_EL2_VAA: the entries of the address of the regime that E2H selects, with Leaf of the last level
only; the ASID counts for the former and with E2H == 1 only. While E2H is UNKNOWN any subset of the matching EL2 and EL2-E2H entries goes (41_cmd_tlbi.md
R1167, R1168). -/
def Obligations.TlbiElTwoVaIsAccepted : Prop :=
  ∀ (s : State) (asid : BitVec 16) (leaf : Bool) (addr : BitVec 52) (res : CmdWord) (i : Instr) (P Q : TlbEnt → Prop),
    s.s1p = true → s.hyp = true → s.res0Ok res 0 → (P = fun e => StageOne .el2 e ∧ (leaf = true → e.last = true) ∧ HasAddr e (addr ++ 0#12)) →
    ((i = .tlbiEl2Va asid leaf addr res ∧
        Q = fun e => StageOne .el2E2H e ∧ (leaf = true → e.last = true) ∧ (e.glob = true ∨ s.ofAsid e asid) ∧
          HasAddr e (addr ++ 0#12)) ∨
      (i = .tlbiEl2Vaa leaf addr res ∧ Q = fun e => StageOne .el2E2H e ∧ (leaf = true → e.last = true) ∧ HasAddr e (addr ++ 0#12))) →
    (s.e2hUnknown = false → ∃ t, exec i s = .next t ∧ Asks s t ∧ TlbAccepted s t (if s.e2h then Q else P)) ∧
    (s.e2hUnknown = true →
      ∃ t p q, exec i s = .next t ∧ Queued s t ∧ t.prefetches = s.prefetches ∧
        t.pendingInval = s.pendingInval ++
          [{ s.inval (.tlb p) with subset := some s.draw }, { s.inval (.tlb q) with subset := some (s.draw + 1) }] ∧
        (∀ e, s.tlbMatch p e = true ↔ P e) ∧ ∀ e, s.tlbMatch q e = true ↔ Q e)

/-- CMD_TLBI_S12_VMALL, CMD_TLBI_S2_IPA and CMD_TLBI_NSNH_ALL: the NS-EL1 entries of a VMID at every stage, those of a VMID
indexed by an IPA, with Leaf of the last level only, and all of them (41_cmd_tlbi.md R1170, R1171, R1172); in SMMUv3.0 bits [51:48]
of the IPA have no effect (30_encoding.md R1055). -/
def Obligations.TlbiStageTwoIsAccepted : Prop :=
  (∀ (s : State) (vmid : BitVec 16) (leaf : Bool) (addr : BitVec 40) (res : CmdWord), s.s2p = true →
    (s.res0Ok res 0 → ∃ t, exec (.tlbiS12Vmall vmid res) s = .next t ∧ Asks s t ∧
      TlbAccepted s t fun e => e.world = .nsEL1 ∧ s.ofVmid e vmid) ∧
    (s.res0Ok res (v30Ipa addr) → ∃ t, exec (.tlbiS2Ipa vmid leaf addr res) s = .next t ∧ Asks s t ∧
      TlbAccepted s t fun e => e.world = .nsEL1 ∧ e.s1 = none ∧ (leaf = true → e.last = true) ∧ s.ofVmid e vmid ∧
        HasAddr e (((if s.v31 then addr else addr &&& 0xFFFFFFFFF) ++ 0#12).setWidth 64))) ∧
  ∀ (s : State) (res : CmdWord), s.res0Ok res 0 →
    ∃ t, exec (.tlbiNsnhAll res) s = .next t ∧ Asks s t ∧ TlbAccepted s t fun e => e.world = .nsEL1

/-- The SMMU works on a pending invalidation. When it takes effect every entry in scope is gone, or with a subset any of those in
scope, and every entry out of scope stays; of one in scope by CR0.VMW as it is now, but not by that of its making, either may hold
(10_state.md R150). A translated transaction that used one starts again; the invalidation is complete at once if no transaction that
used one has been passed downstream and waits for its answer, and else when these are answered (10 R153, 20_memory.md R480, R485,
40_cmd_prefetch_cfgi.md R1112); which transactions these are is the model's choice (log entry 8). That of an ATS invalidation
completes when the Translated transactions it waits for are gone (42_cmd_ats_pri.md R1203). A TLB invalidation of a world that SIF
concerns makes the SIF of now count (log entry 45). Nothing else changes: that every entry out of scope stays is the model's choice,
since 40 R1109 and 41_cmd_tlbi.md R1153 permit an invalidation to remove more (log entry 14: what it removes beyond its scope are
evictions of the agenda). A broadcast synchronisation is answered when no broadcast invalidation before it is pending (20 R481).
INV_ALL completes with nothing cached, and the maintenance of the Stream tables is on record as complete (12_registers_secure.md
R368; log entries 29 and 46). -/
def Obligations.InvalidationCompletes : Prop :=
  (∀ (s : State) (n : Nat) (i : Inval) (rest : List Stimulus), s.agenda = .completeInval n :: rest → s.off = false →
    s.pendingInval[n]? = some i → (∀ id, i.scope ≠ .dvmSync id) →
    (i.wait = none → ∃ t, step s = .next t ∧
      ((∀ p, i.scope ≠ .tlb p) → ∀ e, e ∈ t.cfgCache ↔ e ∈ s.cfgCache ∧ cfgMatch i.scope e = false) ∧
      (∀ p, i.scope = .tlb p → t.cfgCache = s.cfgCache.map fun e =>
        if (World.secure ∈ p.worlds ∨ World.el3 ∈ p.worlds) ∧ e.sec = .s then { e with regs := { e.regs with sif := s.sif } } else e) ∧
      (∀ e ∈ t.tlb, e ∈ s.tlb) ∧
      (∀ e ∈ s.tlb, (∀ p, i.scope = .tlb p → s.tlbMatch p e = false) → e ∈ t.tlb) ∧
      (i.subset = none → ∀ e ∈ t.tlb, ∀ p, i.scope = .tlb p → s.tlbDue p e = false) ∧
      t.inFlight.length = s.inFlight.length ∧
      (∀ (k : Nat) (f : Flight), s.inFlight[k]? = some f →
        t.inFlight[k]? = some (if s.stopped i f then { f with stage := .accepted } else f)) ∧
      ((∀ f ∈ s.inFlight, s.waitedFor i f = false) → t.pendingInval = s.pendingInval.eraseIdx n) ∧
      ((∃ f ∈ s.inFlight, s.waitedFor i f = true) →
        t.pendingInval = s.pendingInval.set n { i with wait := some (s.inFlight.filter (s.waitedFor i)) }) ∧
      t = { s with agenda := rest, pendingInval := t.pendingInval, cfgCache := t.cfgCache, tlb := t.tlb, inFlight := t.inFlight,
                   draw := t.draw }) ∧
    ∀ l, i.wait = some l →
      ((∀ sid, i.scope ≠ .atc sid) →
        ((∀ f ∈ l, f ∉ s.inFlight) → step s = .next { s with agenda := rest, pendingInval := s.pendingInval.eraseIdx n }) ∧
        ((∃ f ∈ l, f ∈ s.inFlight) → step s = .next { s with agenda := rest })) ∧
      ∀ sid, i.scope = .atc sid →
        ((∀ f ∈ l, ∀ g ∈ s.inFlight, g.txn ≠ f.txn) →
          step s = .next { s with agenda := rest, pendingInval := s.pendingInval.eraseIdx n }) ∧
        ((∃ f ∈ l, ∃ g ∈ s.inFlight, g.txn = f.txn) → step s = .next { s with agenda := rest })) ∧
  (∀ (s : State) (n id : Nat) (i : Inval) (rest : List Stimulus), s.agenda = .completeInval n :: rest → s.off = false →
    s.pendingInval[n]? = some i → i.scope = .dvmSync id →
    ((∀ j ∈ s.pendingInval.take n, j.origin ≠ none) →
      step s = .next { s with agenda := rest, pendingInval := s.pendingInval.eraseIdx n, out := s.out ++ [.dvmDone id] }) ∧
    ((∃ j ∈ s.pendingInval.take n, j.origin = none) → step s = .next { s with agenda := rest })) ∧
  ∀ (s : State) (rest : List Stimulus), s.agenda = .completeInit :: rest → s.off = false → s.sInit = true →
    step s = .next { s with agenda := rest, cfgCache := [], tlb := [], sInit := false, steLog := s.steLog ++ [.cleared] }

/-! ### ATS and PRI commands -/

/-- CMD_ATC_INV: an Invalidate Request for the aligned span leaves and becomes outstanding on the queue; a NOP where the
system has no ATS, or SMMU_CR0.SMMUEN or the SMMUEN of its queue is 0 (42_cmd_ats_pri.md R1201, R1203, 11_registers_ns.md R219; log
entry 44). -/
def Obligations.AtcInvSendsRequest : Prop :=
  ∀ (s : State) (glob ssv : Bool) (ssid : BitVec 20) (sid : BitVec 32) (size : BitVec 6) (addr : BitVec 52) (res : CmdWord),
    s.ats = true → ¬ (s.curQ = .s ∧ s.sams = true) → s.res0Ok res 0 → size.toNat ≤ 52 →
    (s.impl.sysAts = true → s.smmuen .ns = true → s.smmuen s.curQ = true → sid.toNat < 2 ^ s.sidSize .ns →
      (ssv = true → s.ssidSize ≠ 0 ∧ ssid.toNat < 2 ^ s.ssidSize) →
      ∃ t, exec (.atcInv glob ssv ssid sid size addr res) s = .next t ∧
        let r : AtcReq :=
          { sid := sid, pasid := if ssv then some ssid else none, glob := ssv && glob,
            addr := BitVec.ofNat 64 ((addr ++ 0#12).toNat / 2 ^ (12 + size.toNat) * 2 ^ (12 + size.toNat)), size := size }
        PortCommand s t [.atsInvalidate s.curQ r] ∧ t.draw = s.draw ∧ t.atc s.curQ = s.atc s.curQ ++ [r] ∧
          ∀ q, q ≠ s.curQ → t.atc q = s.atc q) ∧
    ((s.impl.sysAts = false ∨ s.smmuen .ns = false ∨ s.smmuen s.curQ = false) →
      ∃ t, exec (.atcInv glob ssv ssid sid size addr res) s = .next t ∧ Asks s t ∧ t.pendingInval = s.pendingInval)

/-- CMD_PRI_RESP: the PRG Response with the code that Resp stands for leaves; a NOP where the system has no PRI,
or SMMU_CR0.SMMUEN or the SMMUEN of its queue is 0 (42_cmd_ats_pri.md R1201, R1204, 60_exceptions.md R1761, 11_registers_ns.md R219;
log entry 44). -/
def Obligations.PriRespSendsResponse : Prop :=
  ∀ (s : State) (ssv : Bool) (ssid : BitVec 20) (sid : BitVec 32) (group : BitVec 9) (resp : BitVec 2) (res : CmdWord),
    s.pri = true → resp ≠ 3 → ¬ (s.curQ = .s ∧ s.sams = true) → s.res0Ok res 0 →
    (s.impl.sysPri = true → s.smmuen .ns = true → s.smmuen s.curQ = true → sid.toNat < 2 ^ s.sidSize .ns →
      (ssv = true → s.ssidSize ≠ 0 ∧ ssid.toNat < 2 ^ s.ssidSize) →
      ∃ t, exec (.priResp ssv ssid sid group resp res) s = .next t ∧
        PortCommand s t [.prgResponse sid (if ssv then some ssid else none) group
          (if resp = 0 then 0b1111 else if resp = 1 then 0b0001 else 0b0000)] ∧
        t.draw = s.draw ∧ t.atcNs = s.atcNs ∧ t.atcS = s.atcS) ∧
    ((s.impl.sysPri = false ∨ s.smmuen .ns = false ∨ s.smmuen s.curQ = false) →
      ∃ t, exec (.priResp ssv ssid sid group resp res) s = .next t ∧ Asks s t ∧ t.pendingInval = s.pendingInval)

/-! ### Stalled transactions -/

/-- CMD_RESUME of a stalled transaction whose record is visible and that no command has named yet: it is marked for a
retry or for the termination that Ac, Ab and TERM_MODEL give, its STAG is free again, and no other stalled transaction
changes but the duplicates suppressed behind it, which are retried (43_cmd_fault_sync.md R1230, 60_exceptions.md R1682). One
that names no stalled transaction, nor duplicates behind one, has no effect on any; that it still frees the STAG is the model's
choice (log entry 16). -/
def Obligations.ResumeMarksStall : Prop :=
  ∀ (s : State) (sec : Sec) (ssec ac ab : Bool) (sid : BitVec 32) (stag : BitVec 16) (res : CmdWord),
    s.noStall = false → s.sec ssec = some sec → s.res0Ok res 0 → sid.toNat < 2 ^ s.sidSize sec →
    (∀ (n : Nat) (x : Stall), s.stalled[n]? = some x → x.isOf sec sid stag → x.recorded = true → x.act = none →
      (∀ m y, s.stalled[m]? = some y → y.isOf sec sid stag → m = n) →
      ∃ t, exec (.resume ssec ac ab sid stag res) s = .next t ∧ StallCommand s t ∧ t.draw = s.draw ∧
        t.eventsNs = s.eventsNs ∧ t.eventsS = s.eventsS ∧
        t.stalled[n]? = some { x with act := some (if ac then .retry else if bit s.idr0 26 || ab then .abort else .razwi) } ∧
        (∀ (m : Nat) (y : Stall), m ≠ n → s.stalled[m]? = some y →
          t.stalled[m]? = some
            (if y.parent = some stag ∧ y.txn.sec = sec ∧ y.txn.sid = sid ∧ y.act = none then { y with act := some .retry } else y)) ∧
        t.stalled.length = s.stalled.length ∧ ∀ k, k ∈ t.stags ↔ k ∈ s.stags ∧ k.names sec sid stag = false) ∧
    ((∀ x ∈ s.stalled, ¬ x.isOf sec sid stag ∧ ¬ (x.parent = some stag ∧ x.txn.sec = sec ∧ x.txn.sid = sid)) →
      ∃ t, exec (.resume ssec ac ab sid stag res) s = .next t ∧ StallCommand s t ∧ t.draw = s.draw ∧ t.stalled = s.stalled ∧
        t.eventsNs = s.eventsNs ∧ t.eventsS = s.eventsS ∧ ∀ k, k ∈ t.stags ↔ k ∈ s.stags ∧ k.names sec sid stag = false)

/-- CMD_STALL_TERM COMPLETES: in every state where the queue of the command has the Stall model, for every StreamID in range of the
Security state that SSec names, exec answers a next state in which the command is Consumed and no byte of memory, no register
but the consume index and no transaction in flight has changed (43_cmd_fault_sync.md R1233). -/
def Obligations.StallTermCompletes : Prop :=
  ∀ (s : State) (ssec : Bool) (sid : BitVec 32) (res : CmdWord),
    s.noStall = false → (s.curQ = .s ∨ ssec = false) → s.res0Ok res 0 →
    sid.toNat < 2 ^ s.sidSize (if s.curQ = .s ∧ ssec = true then .s else .ns) →
    ∃ t, exec (.stallTerm ssec sid res) s = .next t ∧ StallCommand s t

/-- CMD_STALL_TERM: every stalled transaction of the stream is marked for an abort and its tags are free, where the stream
terminates new transactions and the maintenance for that is done (how the model knows it: log entry 46); where it does not, each is as it was, or is marked for an abort, or as a duplicate for a retry, and
of the records that wait at most some stall records of the stream are dropped. No stalled transaction of another stream
changes (43_cmd_fault_sync.md R1233, 60_exceptions.md R1682). -/
def Obligations.StallTermMarksStream : Prop :=
  ∀ (s : State) (sec : Sec) (ssec : Bool) (sid : BitVec 32) (res : CmdWord),
    s.noStall = false → s.sec ssec = some sec → s.res0Ok res 0 → sid.toNat < 2 ^ s.sidSize sec →
    ∃ t, exec (.stallTerm ssec sid res) s = .next t ∧ StallCommand s t ∧ t.stalled.length = s.stalled.length ∧
      (∀ (n : Nat) (x : Stall), s.stalled[n]? = some x → ¬ (x.txn.sec = sec ∧ x.txn.sid = sid) → t.stalled[n]? = some x) ∧
      (∀ (n : Nat) (x : Stall), s.stalled[n]? = some x →
        t.stalled[n]? = some x ∨ t.stalled[n]? = some { x with act := some .abort } ∨
          (x.parent ≠ none ∧ x.act = none ∧ t.stalled[n]? = some { x with act := some .retry })) ∧
      (∀ e ∈ t.events sec, e ∈ s.events sec) ∧
      (∀ e ∈ s.events sec, e.stag = none ∨ fld e.ev 32 32 ≠ sid → e ∈ t.events sec) ∧
      (∀ q, q ≠ sec → t.events q = s.events q) ∧
      (s.streamTerminates sec sid = true →
        (∀ (n : Nat) (x : Stall), s.stalled[n]? = some x → x.txn.sec = sec ∧ x.txn.sid = sid → t.stalled[n]? = some { x with act := some .abort }) ∧
        (∀ k, k ∈ t.stags ↔ k ∈ s.stags ∧ ¬ (k.sec = sec ∧ k.sid = sid)) ∧
        t.draw = s.draw ∧ t.eventsNs = s.eventsNs ∧ t.eventsS = s.eventsS)

/-- What was commanded is carried out: a transaction marked for an abort aborts, one marked for RAZ/WI completes so, one marked for a
retry is accepted as though it had just arrived, and each leaves the stalled transactions; one that nothing was commanded for
stays (43_cmd_fault_sync.md R1230, 60_exceptions.md R1680, R1691). In Service Failure Mode every stalled transaction, whatever was
commanded for it, is aborted (60 R1706). -/
def Obligations.MarkedStallIsTerminated : Prop :=
  ∀ (s : State) (n : Nat) (x : Stall) (rest : List Stimulus), s.agenda = .resolveStall n :: rest → s.off = false →
    s.stalled[n]? = some x →
    (x.act = some .abort ∨ s.sfm = true → x.txn.cls ≠ .nwDcp → step s =
      .next { s with agenda := rest, stalled := s.stalled.eraseIdx n, out := s.out ++ [.abort x.txn.id] }) ∧
    (s.sfm = false →
      (x.act = some .razwi → step s =
        .next { s with agenda := rest, stalled := s.stalled.eraseIdx n, out := s.out ++ [.razwi x.txn.id] }) ∧
      (x.act = some .retry → s.secureImpl = true → s.ats = true → step s =
        .next { s with agenda := rest, stalled := s.stalled.eraseIdx n, pmcgPast := s.livePast,
                       inFlight := s.inFlight ++ [{ txn := x.txn, stage := .accepted }] }) ∧
      (x.act = none → x.stale = false → step s = .next { s with agenda := rest }))

/-! ### CMD_SYNC -/

/-- CMD_SYNC with no Invalidate Request outstanding and no transaction that waits for its answer: it is Consumed, and software sees
that it is; of its queue no invalidation is pending any more, every cached entry in the scope of one that was to take effect whole
is gone, every entry in no such scope stays (but for the SIF that a cached structure carries, log entry 45), which is the model's
choice, since 40_cmd_prefetch_cfgi.md R1109 and 41_cmd_tlbi.md R1153 permit an invalidation to remove more (log entry 14: what it
removes beyond its scope are evictions of the agenda), and every translated transaction that used such an entry starts again; the
maintenance of the Stream tables is on record as complete (log entry 46); no event of the queue's interfaces stays pending
(43_cmd_fault_sync.md R1240, R1241, R1243, R1244): that this is so of stall records which no invalidation concerns, and of both
interfaces for the Secure queue, is deduced (log entry 17). While a transaction that used what one of them removes was passed
downstream and waits for its answer, or a Translated one that an ATS invalidation waits for is under way, it waits: its queue stands
(20_memory.md R480, R485, 42_cmd_ats_pri.md R1203); which transactions it waits for is the model's choice (log entry 8). -/
def Obligations.SyncCompletesInvalidations : Prop :=
  ∀ (s : State) (cs msh : BitVec 2) (attr : BitVec 4) (data : W32) (addr : BitVec 50) (res : CmdWord),
    cs ≠ 3 → s.res0Ok res (v30Msi addr) → s.atcTimedOut = false → s.atc s.curQ = [] →
    (s.sfm = false → (∀ f ∈ s.inFlight, ∀ w cfg tlb, f.stage ≠ .issued w cfg tlb) →
      (∀ i ∈ s.pendingInval, i.origin = some s.curQ → ∀ l, i.wait = some l → ∀ f ∈ l, ∀ g ∈ s.inFlight, g.txn ≠ f.txn) →
      ∃ t, exec (.sync cs msh attr data addr res) s = .next t ∧
        qPos (t.iface s.curQ).cmdqCons (s.cmdqs s.curQ) =
          (qPos (s.iface s.curQ).cmdqCons (s.cmdqs s.curQ) + 1) % 2 ^ (s.cmdqs s.curQ + 1) ∧
        (t.iface s.curQ).cmdqSeen = (t.iface s.curQ).cmdqCons ∧
        (∀ i, i ∈ t.pendingInval ↔ i ∈ s.pendingInval ∧ i.origin ≠ some s.curQ) ∧
        (∀ e ∈ t.cfgCache, (∃ e' ∈ s.cfgCache, e'.noSif = e.noSif) ∧
          ∀ i ∈ s.pendingInval, i.origin = some s.curQ → i.wait = none → cfgMatch i.scope e = false) ∧
        (∀ e ∈ s.cfgCache, (∀ i ∈ s.pendingInval, i.origin = some s.curQ → i.wait = none → cfgMatch i.scope e = false) →
          ∃ e' ∈ t.cfgCache, e'.noSif = e.noSif) ∧
        (∀ e ∈ t.tlb, e ∈ s.tlb ∧ ∀ i ∈ s.pendingInval, ∀ p, i.origin = some s.curQ → i.wait = none → i.subset = none →
          i.scope = .tlb p → s.tlbDue p e = false) ∧
        (∀ e ∈ s.tlb, (∀ i ∈ s.pendingInval, ∀ p, i.origin = some s.curQ → i.wait = none → i.scope = .tlb p → s.tlbMatch p e = false) →
          e ∈ t.tlb) ∧
        (∀ f ∈ t.inFlight, ∀ i ∈ s.pendingInval, i.origin = some s.curQ → i.wait = none → s.stopped i f = false) ∧
        t.steLog = s.steLog ++ [.synced s.curQ] ∧
        t.eventsNs = [] ∧ (s.curQ = .s → t.eventsS = []) ∧ (s.curQ = .ns → t.eventsS = s.eventsS)) ∧
    ((∃ f ∈ s.inFlight, ∃ i ∈ s.pendingInval, i.origin = some s.curQ ∧
        ((i.wait = none ∧ s.waitedFor i f = true) ∨ ∃ sid l, i.scope = .atc sid ∧ i.wait = some l ∧ ∃ g ∈ l, f.txn = g.txn)) →
      ∃ t, exec (.sync cs msh attr data addr res) s = .next t ∧
        t = { s with pendingInval := t.pendingInval, cfgCache := t.cfgCache, tlb := t.tlb, inFlight := t.inFlight, draw := t.draw })

/-- The signal of CMD_SYNC, where no event, no invalidation and no earlier signal of its queue is pending: SIG_IRQ makes the MSI
of MSIData at MSIAddress (without bits [51:48] in SMMUv3.0, 30_encoding.md R1055) wait to be delivered, unless the address is zero
or the queue has no MSIs, and the pulse of the wired output; SIG_SEV sends the event; nothing else changes but that the maintenance of the Stream tables is on record as complete (log entry
46), and the command is Consumed and seen to be (43_cmd_fault_sync.md R1240, 10_state.md R158). That the Secure queue has MSIs as SMMU_S_IDR0.MSI says is deduced (log entry 21). A waiting MSI that
does not abort is delivered as a write of its four data bytes at its address truncated to the
OAS; a wired interrupt as its pulse (60_exceptions.md R1716, R1722). -/
def Obligations.SyncSignals : Prop :=
  (∀ (s : State) (cs msh : BitVec 2) (attr : BitVec 4) (data : W32) (addr : BitVec 50) (res : CmdWord),
    cs ≠ 3 → s.res0Ok res (v30Msi addr) → s.atcTimedOut = false → s.atc s.curQ = [] → s.eventsNs = [] → s.eventsS = [] →
    (∀ i ∈ s.pendingInval, i.origin ≠ some s.curQ) → (∀ x ∈ s.irqs, x.isSyncMsi s.curQ = false) →
    let a := if s.v31 then addr else addr &&& 0x3FFFFFFFFFFF
    ∃ t, exec (.sync cs msh attr data addr res) s = .next t ∧ Consumed s t ∧
      (t.iface s.curQ).cmdqSeen = (t.iface s.curQ).cmdqCons ∧
      t.irqs = s.irqs ++
        (if cs = 1 ∧ s.msi s.curQ = true ∧ a ≠ 0 then
           [.msi (.cmdSync s.curQ) s.curQ.isNs ((a ++ 0#2).setWidth 64) data (msiAttrs attr msh s.curQ.isNs)] else []) ++
        (if cs = 1 ∧ s.impl.wiredIrq = true then [.wired (.cmdSync s.curQ)] else []) ∧
      t.out = s.out ++ (if cs = 2 ∧ s.sev = true then [.sendEvent] else []) ++ s.wake ∧
      t = { s with ns := t.ns, s := t.s, irqs := t.irqs, out := t.out, cmdCache := t.cmdCache,
                   steLog := s.steLog ++ [.synced s.curQ] }) ∧
  ∀ (s : State) (n : Nat) (rest : List Stimulus), s.agenda = .sendIrq n :: rest → s.off = false →
    (∀ src, s.irqs[n]? = some (.wired src) →
      step s = .next { s with agenda := rest, irqs := s.irqs.eraseIdx n, out := s.out ++ [.wired src] }) ∧
    ∀ src ns addr data a, s.irqs[n]? = some (.msi src ns addr data a) → s.aborts .msi ns (addr.toNat % 2 ^ s.oas) 4 = false →
      let pa := addr.toNat % 2 ^ s.oas
      let sent : List Output :=
        [.bus .msi .write ns pa 4 (ensureConsistent { a with inst := false, priv := true, ns := ns }),
         .msi src pa data a s.impl.msiDeviceId]
      step s = .next (({ s with agenda := rest, irqs := s.irqs.eraseIdx n, out := s.out ++ sent } : State).store false ns pa
        (leBytes 4 data.toNat))

/-- The bytes that a CMD_SYNC can change: those of the Event queues it settles, and of the MSIs of earlier CMD_SYNCs of its queue
that it delivers (43_cmd_fault_sync.md R1240, R1241, R1243, 60_exceptions.md R1656, R1726). -/
def Obligations.SyncMemoryFrame : Prop :=
  ∀ (s t : State) (cs msh : BitVec 2) (attr : BitVec 4) (data : W32) (addr : BitVec 50) (res : CmdWord),
    Memory.wf s.mem = true → Memory.wf s.internal = true → exec (.sync cs msh attr data addr res) s = .next t →
    SameBytesBut (s.eventqWindow .ns :: (if s.curQ = .s then [s.eventqWindow .s] else []) ++ s.syncWindows s.curQ) s t

/-- CMD_SYNC waits, and nothing changes, while an Invalidate Request of its queue is outstanding; when one has timed out it
raises CERROR_ATC_INV_SYNC where the implementation reports it, and waits where it does not (43_cmd_fault_sync.md R1241,
R1246). After the error the requests that have timed out are no longer waited for, while the others are as they were: how this shows in
the state is the model's choice (log entry 22). -/
def Obligations.SyncWaitsForInvalidateRequests : Prop :=
  ∀ (s : State) (cs msh : BitVec 2) (attr : BitVec 4) (data : W32) (addr : BitVec 50) (res : CmdWord),
    cs ≠ 3 → s.res0Ok res (v30Msi addr) →
    (s.atcTimedOut = false → s.atc s.curQ ≠ [] → exec (.sync cs msh attr data addr res) s = .next s) ∧
    (s.atcTimedOut = true → s.impl.atcTimeoutErr = false → exec (.sync cs msh attr data addr res) s = .next s) ∧
    (s.atcTimedOut = true → s.impl.atcTimeoutErr = true →
      ∃ t, exec (.sync cs msh attr data addr res) s = .next t ∧ CommandError 3 s.clearAtc t ∧
        t.atcTimedOut = false ∧ t.atc s.curQ = s.atc s.curQ)

/-! ### ILLEGAL commands and parameters out of range -/

/-- SSec == 1 on the Non-secure Command queue raises CERROR_ILL, whatever else the command says (30_encoding.md R1053). -/
def Obligations.SecureOperandOnNonSecureQueue : Prop :=
  ∀ (s : State) (b c : Bool) (ssid : BitVec 20) (sid : BitVec 32) (x y : BitVec 5) (stag : BitVec 16) (addr : BitVec 52) (res : CmdWord),
    s.curQ = .ns →
    Illegal (.prefetchConfig true b ssid sid res) s ∧ Illegal (.prefetchAddr true b ssid sid x y addr res) s ∧
    Illegal (.cfgiSte true sid b res) s ∧ Illegal (.cfgiSteRange true sid x res) s ∧ Illegal (.cfgiAll true sid res) s ∧
    Illegal (.cfgiCd true ssid sid b res) s ∧ Illegal (.cfgiCdAll true sid res) s ∧
    Illegal (.resume true b c sid stag res) s ∧ Illegal (.stallTerm true sid res) s

/-- Commands of a feature that is not implemented raise CERROR_ILL (41_cmd_tlbi.md R1157, R1164 to R1171,
40_cmd_prefetch_cfgi.md R1116, R1117, 42_cmd_ats_pri.md R1203, R1204, 43_cmd_fault_sync.md R1230, R1233). -/
def Obligations.CommandsWithoutFeature : Prop :=
  ∀ (s : State) (b c : Bool) (ssid : BitVec 20) (sid : BitVec 32) (asid vmid : BitVec 16) (size : BitVec 6) (group : BitVec 9)
    (resp : BitVec 2) (addr : BitVec 52) (ipa : BitVec 40) (res : CmdWord),
    (s.s1p = false → Illegal (.cfgiCd b ssid sid c res) s ∧ Illegal (.cfgiCdAll b sid res) s ∧ Illegal (.tlbiNhAll vmid res) s ∧
      Illegal (.tlbiNhAsid vmid asid res) s ∧ Illegal (.tlbiNhVa vmid asid b addr res) s ∧ Illegal (.tlbiNhVaa vmid b addr res) s) ∧
    (s.s1p = false ∨ s.curQ = .ns → Illegal (.tlbiEl3All res) s ∧ Illegal (.tlbiEl3Va b addr res) s) ∧
    (s.s1p = false ∨ s.hyp = false → Illegal (.tlbiEl2All res) s ∧ Illegal (.tlbiEl2Asid asid res) s ∧
      Illegal (.tlbiEl2Va asid b addr res) s ∧ Illegal (.tlbiEl2Vaa b addr res) s) ∧
    (s.s2p = false → Illegal (.tlbiS12Vmall vmid res) s ∧ Illegal (.tlbiS2Ipa vmid b ipa res) s) ∧
    (s.ats = false ∨ (s.curQ = .s ∧ s.sams = true) → Illegal (.atcInv b c ssid sid size addr res) s) ∧
    (s.pri = false ∨ resp = 3 ∨ (s.curQ = .s ∧ s.sams = true) → Illegal (.priResp b ssid sid group resp res) s) ∧
    (s.noStall = true → ∀ a stag, Illegal (.resume a b c sid stag res) s ∧ Illegal (.stallTerm a sid res) s)

/-- The reserved completion signal of CMD_SYNC raises CERROR_ILL (43_cmd_fault_sync.md R1240); so does every architected
command with a RES0 bit set, where the implementation checks them (30_encoding.md R1055). -/
def Obligations.ReservedFieldsAreIllegal : Prop :=
  (∀ (s : State) (msh : BitVec 2) (attr : BitVec 4) (data : W32) (addr : BitVec 50) (res : CmdWord),
    Illegal (.sync 3 msh attr data addr res) s) ∧
  ∀ (s : State) (i : Instr), s.impl.cmdRes0Check = true → residue i ≠ 0 → Illegal i s

/-- Whatever the StreamID and the SubstreamID of a command are, in range or not, it is no command error: the command is Consumed,
within its frame, and the next state is that of no effect, or that of the same command with a StreamID in range and with a SubstreamID
in range or none (30_encoding.md R1056), but for the free values taken to settle which. So for every command that has them: the
prefetches, the invalidations of configuration, CMD_RESUME, CMD_STALL_TERM, CMD_ATC_INV and CMD_PRI_RESP. -/
def Obligations.StreamOutOfRange : Prop :=
  ∀ (s : State) (sec : Sec) (ssec ssv b c : Bool) (ssid : BitVec 20) (sid : BitVec 32) (x y : BitVec 5) (stag : BitVec 16)
    (size : BitVec 6) (group : BitVec 9) (resp : BitVec 2) (addr : BitVec 52) (res : CmdWord),
    s.sec ssec = some sec → s.res0Ok res 0 →
    let sidOk := fun (q : Sec) (v : BitVec 32) => v.toNat < 2 ^ s.sidSize q
    let ssidOk := fun (k : BitVec 20) => k.toNat < 2 ^ s.ssidSize
    let subOk := fun (w : Bool) (k : BitVec 20) => ssidOk k ∧ (w = true → ssv = true ∧ s.ssidSize ≠ 0)
    (∃ t, exec (.prefetchConfig ssec ssv ssid sid res) s = .next t ∧ Queued s t ∧ t.pendingInval = s.pendingInval ∧
      AsOneOf s t fun i => ∃ w k v, sidOk sec v ∧ subOk w k ∧ i = .prefetchConfig ssec w k v res) ∧
    ((s.v31 = true ∨ y = 0 ∨ s.impl.v30StrideIll = false) →
      ∃ t, exec (.prefetchAddr ssec ssv ssid sid x y addr res) s = .next t ∧ Queued s t ∧ t.pendingInval = s.pendingInval ∧
        AsOneOf s t fun i => ∃ w k v, sidOk sec v ∧ subOk w k ∧ i = .prefetchAddr ssec w k v x y addr res) ∧
    (∃ t, exec (.cfgiSte ssec sid b res) s = .next t ∧ Queued s t ∧ t.prefetches = s.prefetches ∧
      AsOneOf s t fun i => ∃ v, sidOk sec v ∧ i = .cfgiSte ssec v b res) ∧
    (∃ t, exec (.cfgiSteRange ssec sid x res) s = .next t ∧ Queued s t ∧ t.prefetches = s.prefetches ∧
      AsOneOf s t fun i => ∃ v, sidOk sec v ∧ i = .cfgiSteRange ssec v x res) ∧
    (s.s1p = true →
      (∃ t, exec (.cfgiCd ssec ssid sid b res) s = .next t ∧ Queued s t ∧ t.prefetches = s.prefetches ∧
        AsOneOf s t fun i => ∃ k v, sidOk sec v ∧ ssidOk k ∧ i = .cfgiCd ssec k v b res) ∧
      ∃ t, exec (.cfgiCdAll ssec sid res) s = .next t ∧ Queued s t ∧ t.prefetches = s.prefetches ∧
        AsOneOf s t fun i => ∃ v, sidOk sec v ∧ i = .cfgiCdAll ssec v res) ∧
    (s.noStall = false →
      (∃ t, exec (.resume ssec b c sid stag res) s = .next t ∧ StallCommand s t ∧
        AsOneOf s t fun i => ∃ v, sidOk sec v ∧ i = .resume ssec b c v stag res) ∧
      ∃ t, exec (.stallTerm ssec sid res) s = .next t ∧ StallCommand s t ∧
        AsOneOf s t fun i => ∃ v, sidOk sec v ∧ i = .stallTerm ssec v res) ∧
    (¬ (s.curQ = .s ∧ s.sams = true) →
      (s.ats = true → size.toNat ≤ 52 → ∃ t l, exec (.atcInv b ssv ssid sid size addr res) s = .next t ∧ PortCommand s t l ∧
        AsOneOf s t fun i => ∃ w k v, sidOk .ns v ∧ subOk w k ∧ i = .atcInv b w k v size addr res) ∧
      (s.pri = true → resp ≠ 3 → ∃ t l, exec (.priResp ssv ssid sid group resp res) s = .next t ∧ PortCommand s t l ∧
        AsOneOf s t fun i => ∃ w k v, sidOk .ns v ∧ subOk w k ∧ i = .priResp w k v group resp res))

/-! ### Global errors and the command error -/

/-- Activation of a global error: an error is active when its flag differs in GERROR and GERRORN; an active one is left alone,
an inactive one is toggled and the interrupt of global errors is raised, unless it is MSI_GERROR_ABT_ERR. An acknowledgement: a
write of GERRORN that toggles flags of active errors only makes those, and no other, inactive; GERROR stands; one that makes GERRORN
equal to GERROR makes every error inactive (60_exceptions.md R1701). -/
def Obligations.GlobalErrorActivation : Prop :=
  ∀ (s : State) (q : Sec),
    (∀ g, ((s.iface q).gerrActive g = true ↔ bit (s.iface q).gerror g.pos ≠ bit (s.iface q).gerrorn g.pos) ∧
      ((s.gerrorActivate q g).iface q).gerrActive g = true ∧
      ((s.iface q).gerrActive g = true → s.gerrorActivate q g = s) ∧
      ((s.iface q).gerrActive g = false →
        (∀ n, bit ((s.gerrToggle q g).iface q).gerror n = (if n = g.pos then !bit (s.iface q).gerror n else bit (s.iface q).gerror n)) ∧
        s.gerrorActivate q g = (if g = .msiGerror then s.gerrToggle q g else (s.gerrToggle q g).gerrorIrq q))) ∧
    (∀ v, ((v &&& s.gerrorMask q) ^^^ (s.iface q).gerrorn) &&& ~~~((s.iface q).gerror ^^^ (s.iface q).gerrorn) = 0 →
      ((s.ackGerror q v).iface q).gerror = (s.iface q).gerror ∧
      ∀ g, bit (s.gerrorMask q) g.pos = true →
        (((s.ackGerror q v).iface q).gerrActive g = true ↔
          (s.iface q).gerrActive g = true ∧ bit v g.pos = bit (s.iface q).gerrorn g.pos)) ∧
    ((s.iface q).gerror &&& ~~~(s.gerrorMask q) = 0 → ∀ g, ((s.ackGerror q (s.iface q).gerror).iface q).gerrActive g = false)

/-- RETURN from a command error: software writes GERRORN equal to GERROR; the errors are inactive, CMDQ_CONS with its ERR
field and RD stands, and the queue is processed again (30_encoding.md R1063, 60_exceptions.md R1701). -/
def Obligations.AcknowledgementRestartsQueue : Prop :=
  ∀ (s : State) (rest : List Stimulus), s.agenda = .regWrite .ns 0x64 4 (s.ns.gerror.setWidth 64) :: rest → s.off = false →
    s.ns.gerror &&& ~~~(s.gerrorMask .ns) = 0 →
    step s = .next { s with agenda := rest, ns := { s.ns with gerrorn := s.ns.gerror } } ∧
    (s.cmdqen .ns = true → s.cmdqEmpty .ns = false → s.sfm = false → s.cmdqNsWedged = false →
      ({ s with agenda := rest, ns := { s.ns with gerrorn := s.ns.gerror } } : State).cmdqReady .ns = true)

/-- Entry to Service Failure Mode: its flag is set and SFM_ERR is active in every interface (60_exceptions.md R1706). The interrupt of a
global error: with GERROR_IRQEN it waits to be delivered, as a pulse where the SMMU has wired interrupts, and as an MSI where
GERROR_IRQ_CFG has an address; without GERROR_IRQEN there is none (60_exceptions.md R1715, R1722). That the enable is that of
IRQ_CTRLACK as far as it is in effect is deduced (log entry 26). -/
def Obligations.ServiceFailureIsSignalled : Prop :=
  (∀ (s : State) (rest : List Stimulus), s.agenda = .enterSfm :: rest → s.off = false →
    ∃ t, step s = .next t ∧ t.sfm = true ∧ t.ns.gerrActive .sfm = true ∧ (s.secureImpl = true → t.s.gerrActive .sfm = true) ∧
      t.cfgCache = s.cfgCache ∧ t.tlb = s.tlb ∧ t.stalled = s.stalled ∧ t.agenda = rest) ∧
  ∀ (s : State) (q : Sec),
    (s.irqOn q 0 = true →
      (s.impl.wiredIrq = true → .wired (.gerror q) ∈ (s.gerrorIrq q).irqs) ∧
      (s.msi q = true → fld (s.iface q).gerrorCfg.cfg0 2 50 ≠ 0 →
        .msi (.gerror q) q.isNs ((s.iface q).gerrorCfg.cfg0 &&& maskOf 64 2 50) (s.iface q).gerrorCfg.cfg1
          (msiAttrs (fld (s.iface q).gerrorCfg.cfg2 0 4) (fld (s.iface q).gerrorCfg.cfg2 4 2) q.isNs) ∈ (s.gerrorIrq q).irqs)) ∧
    (s.irqOn q 0 = false → s.gerrorIrq q = s)

/-! ### Events -/

/-- The Event queue is writable when it is enabled as CR0ACK says, not full, and without an unacknowledged EVENTQ_ABT_ERR, and
in no other case; the delivery of one event, when it is the next input, writes nothing to a queue that is not (60_exceptions.md
R1652). Service Failure Mode is R1706's. -/
def Obligations.EventQueueWritable : Prop :=
  ∀ (s : State) (q : Sec),
    (bit (s.iface q).cr0Eff 2 = bit (s.iface q).cr0Ack 2 → s.sfm = false →
      (s.eventqWritable q = true ↔
        bit (s.iface q).cr0Ack 2 = true ∧
        ¬ (qIndex (s.iface q).eventqProd (s.eventqs q) = qIndex (s.iface q).eventqCons (s.eventqs q) ∧
            qWrap (s.iface q).eventqProd (s.eventqs q) ≠ qWrap (s.iface q).eventqCons (s.eventqs q)) ∧
        bit (s.iface q).gerror 2 = bit (s.iface q).gerrorn 2)) ∧
    (∀ n rest, s.agenda = .deliverEvent q n :: rest → s.off = false → s.eventqWritable q = false →
      ∃ t, step s = .next t ∧ SameBytes s t ∧ qPos (t.iface q).eventqProd (s.eventqs q) = qPos (s.iface q).eventqProd (s.eventqs q))

/-- Delivery to a writable queue: the 32 bytes of the record stand at PROD.WR, WR moves on by one with the other bits of
EVENTQ_PROD, the record is no longer pending, and no other byte changes; the interrupt of a queue that was empty waits to be
delivered (60_exceptions.md R1656, R1724). The bytes are claimed of memory: storage inside the SMMU may keep fewer bits of them
(20_memory.md R492). -/
def Obligations.EventIsWritten : Prop :=
  ∀ (s : State) (q : Sec) (n : Nat) (e : PendEv) (rest : List Stimulus), s.agenda = .deliverEvent q n :: rest → s.off = false →
    (s.events q)[n]? = some e → s.eventqWritable q = true →
    qInconsistent (s.iface q).eventqProd (s.iface q).eventqCons (s.eventqs q) = false →
    let pa := s.queueBase (s.iface q).eventqBase (s.eventqs q + 5) + 32 * qIndex (s.iface q).eventqProd (s.eventqs q)
    s.aborts .eventq q.isNs pa 32 = false → (∀ j, j < 32 → intRange s.impl q.isNs (pa + j) = none) →
    Memory.wf s.mem = true → Memory.wf s.internal = true →
    ∃ t, step s = .next t ∧ t.load q.isNs pa 32 = leBytes 32 e.ev.toNat ∧ SameBytesBut [(q.isNs, pa, 32)] s t ∧
      qPos (t.iface q).eventqProd (s.eventqs q) = (qPos (s.iface q).eventqProd (s.eventqs q) + 1) % 2 ^ (s.eventqs q + 1) ∧
      fld (t.iface q).eventqProd 20 12 = fld (s.iface q).eventqProd 20 12 ∧
      t.iface q = { s.iface q with eventqProd := (t.iface q).eventqProd } ∧ t.events q = (s.events q).eraseIdx n ∧
      (qEmpty (s.iface q).eventqProd (s.iface q).eventqCons (s.eventqs q) = true → s.irqOn q 2 = true →
        s.impl.wiredIrq = true → .wired (.eventq q) ∈ t.irqs)

/-- Delivery to a queue that is not writable: a record that is not of a stall is discarded, and where the enabled queue is
full the overflow is present afterwards; a stall record stays pending (60_exceptions.md R1653, R1655, R1663). -/
def Obligations.UnwritableQueueDiscards : Prop :=
  ∀ (s : State) (q : Sec) (n : Nat) (e : PendEv) (rest : List Stimulus), s.agenda = .deliverEvent q n :: rest → s.off = false →
    (s.events q)[n]? = some e → s.eventqWritable q = false → s.sfm = false →
    qInconsistent (s.iface q).eventqProd (s.iface q).eventqCons (s.eventqs q) = false →
    (e.stag ≠ none → step s = .next { s with agenda := rest }) ∧
    (e.stag = none → ∃ t, step s = .next t ∧ t.events q = (s.events q).eraseIdx n ∧ SameBytes s t ∧ t.out = s.out ∧ t.irqs = s.irqs ∧
      (∀ k, k < 31 → bit (t.iface q).eventqProd k = bit (s.iface q).eventqProd k) ∧
      (s.eventqen q = true ∧ s.eventqFull q = true → bit (t.iface q).eventqProd 31 ≠ bit (t.iface q).eventqCons 31) ∧
      (¬ (s.eventqen q = true ∧ s.eventqFull q = true) → t.iface q = s.iface q))

/-- The fields that every record of a fault carries: the event number at bits 7 to 0 and the StreamID at bits 63 to 32; with
a tag, a Translation-related fault is a stall record of that STAG, else its Stall bit is 0 (30_encoding.md R1080, R1085,
61_event_records.md R1800). -/
def Obligations.EventRecordFields : Prop :=
  ∀ (v30 : Bool) (oas : Nat) (reason : BitVec 32) (unk : BitVec 512) (c : EvCtx) (f : Flt) (stag : Option (BitVec 16)),
    let r := evRecord v30 oas reason unk c f stag
    fld r 0 8 = f.kind.num ∧ fld r 32 32 = c.sid ∧
    (f.kind.isTrf = true → bit r 95 = stag.isSome ∧ fld r 64 16 = stag.getD 0 ∧ fld r 128 64 = c.addr ∧ bit r 103 = f.s2 ∧
      fld r 104 2 = f.cls.code ∧ bit r 99 = c.rnw ∧ bit r 97 = c.pnu ∧ bit r 98 = (c.ind && c.rnw) ∧ bit r 11 = c.ssv ∧
      (c.ssv = true → fld r 12 20 = c.ssid))

/-! ### Queue arithmetic -/

/-- Empty and full, by index and wrap flag, and as numbers of entries; the increment of an index: it goes up by one, or from the
top back to 0 with the wrap flag toggled, and the bits above bit 19 stand (20_memory.md R457, R458). -/
def Obligations.QueueArithmetic : Prop :=
  (∀ (prod cons : W32) (qs : Nat), qs ≤ 19 →
    let valid := (qPos prod qs + 2 ^ (qs + 1) - qPos cons qs) % 2 ^ (qs + 1)
    (qEmpty prod cons qs = true ↔ qIndex prod qs = qIndex cons qs ∧ qWrap prod qs = qWrap cons qs) ∧
    (qFull prod cons qs = true ↔ qIndex prod qs = qIndex cons qs ∧ qWrap prod qs ≠ qWrap cons qs) ∧
    (qEmpty prod cons qs = true ↔ valid = 0) ∧ (qFull prod cons qs = true ↔ valid = 2 ^ qs) ∧
    (qInconsistent prod cons qs = true ↔ 2 ^ qs < valid)) ∧
  ∀ (x : W32) (qs : Nat), qs ≤ 19 →
    qPos (qInc x qs) qs = (qPos x qs + 1) % 2 ^ (qs + 1) ∧
    (qIndex x qs + 1 < 2 ^ qs → qIndex (qInc x qs) qs = qIndex x qs + 1 ∧ qWrap (qInc x qs) qs = qWrap x qs) ∧
    (qIndex x qs + 1 = 2 ^ qs → qIndex (qInc x qs) qs = 0 ∧ qWrap (qInc x qs) qs = !qWrap x qs) ∧
    fld (qInc x qs) 20 12 = fld x 20 12

/-! ### Registers -/

/-- An SMMU_S_* register is RAZ/WI to a Non-secure access, and to every access where the Secure interface is not implemented, and so
are two that one 64-bit access reaches; SMMU_S_INIT may be exposed (10_state.md R106). -/
def Obligations.SecureRegistersAreHidden : Prop :=
  ∀ (s : State) (acc : Sec) (off size : Nat) (v : W64) (rest : List Stimulus), s.off = false → 0x8000 ≤ off → off < 0x10000 →
    (size = 4 ∨ (size = 8 ∧ (s.regAt off ≠ none ∨ s.regAt (off + 4) ≠ none))) → off % size = 0 →
    (acc = .ns ∨ s.secureImpl = false) →
    (off + size ≤ 0x803C ∨ 0x8040 ≤ off ∨ s.impl.sInitNsAccess = false ∨ s.secureImpl = false) →
    (s.agenda = .regRead acc off size :: rest → step s = .next { s with agenda := rest, out := s.out ++ [.regData 0] }) ∧
    (s.agenda = .regWrite acc off size v :: rest → step s = .next { s with agenda := rest })

/-- SMMUEN, written in a settled state, reads back at once; CR0ACK and the value in effect follow with the Update
(11_registers_ns.md R212). -/
def Obligations.ControlHandshake : Prop :=
  ∀ (s : State) (rest : List Stimulus), s.off = false →
    s.ns.cr0 = 0 → s.ns.cr0Ack = 0 → s.ns.cr0Eff = 0 → s.agenda = .regWrite .ns 0x20 4 1 :: .updateCr0 .ns 0 :: rest →
    ∃ t u, step s = .next t ∧ t.ns = { s.ns with cr0 := 1 } ∧ step t = .next u ∧ u.agenda = rest ∧
      u.ns.cr0 = 1 ∧ bit u.ns.cr0Ack 0 = true ∧ u.smmuen .ns = true ∧ u.ns.cr2Eff = s.ns.cr2

/-- GBPA: the fields that exist of a write with Update set are kept, with Update 1, while the old attributes stand in effect; the
completion of the Update puts every one of them in effect and clears Update (11_registers_ns.md R234). -/
def Obligations.GlobalBypassUpdate : Prop :=
  ∀ (s : State) (v : W64) (rest : List Stimulus), s.off = false → bit s.ns.gbpa 31 = false → bit v 31 = true →
    s.agenda = .regWrite .ns 0x44 4 v :: .updateGbpa .ns :: rest →
    let kept := v.setWidth 32 &&& gbpaMask .ns
    ∃ t u, step s = .next t ∧ t.ns.gbpaEff = s.ns.gbpaEff ∧ t.ns.gbpa = setBit kept 31 true ∧ bit kept 31 = false ∧
      bit kept 20 = bit v 20 ∧ step t = .next u ∧
      u = { s with agenda := rest, ns := { s.ns with gbpa := kept, gbpaEff := kept } }

/-! ### Client transactions -/

/-- A client transaction that arrives is accepted. In Service Failure Mode it is aborted. With SMMUEN == 0 it is aborted where
GBPA.ABORT == 1 is in effect or its address is outside the OAS, and else bypasses: it is ready to go with its own address, and its
own attributes as GBPA overrides them. With SMMUEN == 1, where the lookups give its STE, its CD or none, and a translation, it is
ready to go with the address and the attributes of the translation; where the STE bypasses both stages, with its
own address. Where the translation ends in a Translation-related fault, it stalls with a STAG, or is aborted, or completes as RAZ/WI, and
is recorded or not, as CD.A, CD.R and CD.S or STE.S2R and STE.S2S say (60_exceptions.md R1674, R1680, R1681). The address and the
attributes are those of 23_translation.md R830, R842 and R852 (10_state.md R154, 60_exceptions.md R1706, 11_registers_ns.md R233); the
counters see the misses (51_pmcg.md R1409), with the configurations that were changed while it was in flight among those that may match
them (R1405; log entry 43). A ready one goes downstream as it is, and what memory answers is relayed: a write stores
its data, a read answers what is there (00_scope.md R12). -/
def Obligations.TransactionOutcome : Prop :=
  (∀ (s : State) (t : Txn) (rest : List Stimulus), s.agenda = .transaction t :: rest → s.off = false → s.secureImpl = true →
    s.ats = true → step s = .next { s with agenda := rest, inFlight := s.inFlight ++ [{ txn := t, stage := .accepted }], pmcgPast := s.livePast }) ∧
  (∀ (s : State) (n : Nat) (t : Txn) (rest : List Stimulus), s.agenda = .process n :: rest → s.off = false →
    s.inFlight[n]? = some { txn := t, stage := .accepted } →
    let gone : State := { s with agenda := rest, inFlight := s.inFlight.eraseIdx n }
    let g := gone.withPast (s.pmcgPast.filter fun p => p.txn == t)
    let ready : State → W64 → Attrs → List CfgEnt → List TlbEnt → State := fun u pa a cfg tlb =>
      let w : Fwd := { sec := .ns, sid := t.sid, cls := .plain, rw := t.rw, pa := pa.toNat, ats := false,
                       attrs := finishAttrs u.impl t.noSnoop (ensureConsistent { a with ns := true }) }
      { u with inFlight := u.inFlight ++ [{ txn := t, stage := .ready w cfg tlb }] }
    (s.sfm = true → t.cls ≠ .nwDcp → step s = .next { gone with out := s.out ++ [.abort t.id] }) ∧
    (s.sfm = false → t.sec = .ns → t.cls = .plain → t.translated = false → t.spec = false → s.uut t = false →
      (s.smmuen .ns = false →
        ((bit s.ns.gbpaEff 20 = true ∨ addrOutside t.addr s.oas = true) → step s = .next (({ g with out := s.out ++ [.abort t.id] } : State).withPast [])) ∧
        (bit s.ns.gbpaEff 20 = false → addrOutside t.addr s.oas = false →
          step s = .next ((ready g t.addr (s.override (gbpaOverrides s.ns.gbpaEff) t (t.inAttrs s.impl)) [] []).withPast []))) ∧
      (s.smmuen .ns = true →
        ∀ ste regs sel s1 s2, getSte .ns t.sid g = (.ok (ste, regs), s1) →
          cdSelect ste t.ssv t.ssid s1 = (.ok sel, s2) → Ste.enabled ste = true →
          let i := s2.override (Ste.overrides ste) t (t.inAttrs s.impl)
          let c0 := s2.ctx .ns t.sid ste regs
          (Ste.cfgS1 ste = false → Ste.cfgS2 ste = false → addrOutside t.addr s2.oas = false → s2.trail.conflict = none →
            s2.uut t = false →
            step s = .next ((ready s2 (truncTo t.addr s2.oas) i s2.trail.cfg s2.trail.tlb).countMisses .ns t.sid |>.withPast [])) ∧
          ((Ste.cfgS1 ste = true ∨ Ste.cfgS2 ste = true) → ∀ s3 (c : Ctx),
            (∀ r, Translates c0 sel t i s2 c (.ok r, s3) → s3.trail.conflict = none → s3.uut t = false →
              step s = .next ((ready s3 r.pa (s3.xlatAttrs c r i) s3.trail.cfg (s3.usedTlb c r)).countMisses .ns t.sid |>.withPast [])) ∧
            (∀ f, Translates c0 sel t i s2 c (.error f, s3) → f.kind.isTrf = true → f.fixedAbort = false → s3.impl.stallDemote = [] →
              s3.impl.suppressDupStall = false → s3.impl.mergeEvents = false → s3.stallFull = false →
              ∃ u, step s = .next u ∧ FaultOutcome s3 u t c f))))) ∧
  ∀ (s : State) (n : Nat) (t : Txn) (w : Fwd) (cfg : List CfgEnt) (tlb : List TlbEnt) (rest : List Stimulus), s.off = false →
    s.sfm = false →
    (s.agenda = .release n :: rest → s.inFlight[n]? = some { txn := t, stage := .ready w cfg tlb } →
      ∃ u, step s = .next u ∧ u.out = s.out ++ [.forward t.id w.sec w.sid w.cls w.rw t.size w.pa w.attrs] ∧
        u = { s with agenda := rest, inFlight := s.inFlight.set n { txn := t, stage := .issued w cfg tlb }, out := u.out,
                     pmcgs := u.pmcgs, irqs := u.irqs, draw := u.draw, trail := { s.trail with past := [] } }) ∧
    (s.agenda = .respond n .ok :: rest → s.inFlight[n]? = some { txn := t, stage := .issued w cfg tlb } → t.cls = .plain → w.cls = .plain →
      let g := { s with agenda := rest, inFlight := s.inFlight.eraseIdx n }
      (w.rw = .read → step s = .next { g with out := s.out ++ [.response t.id false (s.load w.attrs.ns w.pa t.size)] }) ∧
      (w.rw = .write →
        step s = .next { g.agentStore w.attrs.ns w.pa (t.data.take t.size) with out := s.out ++ [.response t.id false []] }))

/-- A transaction whose StreamID is outside the Stream table is aborted; C_BAD_STREAMID with its StreamID is recorded with
CR2.RECINVSID in effect and only then; no memory is read or written (23_translation.md R813, R830, 61_event_records.md R1811). -/
def Obligations.BadStreamIsAborted : Prop :=
  ∀ (s : State) (n : Nat) (t : Txn) (rest : List Stimulus), s.agenda = .process n :: rest → s.off = false → s.sfm = false →
    s.inFlight[n]? = some { txn := t, stage := .accepted } →
    t.sec = .ns → t.cls = .plain → t.translated = false → s.uut t = false → t.spec = false →
    s.impl.mergeEvents = false → s.smmuen .ns = true →
    s.sidInRange .ns t.sid = false → s.cfgSteHits .ste .ns t.sid = [] →
    ∃ u, step s = .next u ∧ u.out = s.out ++ [.abort t.id] ∧ u.mem = s.mem ∧ u.internal = s.internal ∧ u.ns = s.ns ∧
      u.stalled = s.stalled ∧ u.inFlight = s.inFlight.eraseIdx n ∧
      (bit s.ns.cr2Eff 1 = false → u.eventsNs = s.eventsNs) ∧
      (bit s.ns.cr2Eff 1 = true → ∃ e, u.eventsNs = s.eventsNs ++ [e] ∧ e.stag = none ∧ fld e.ev 0 8 = 0x02 ∧
        fld e.ev 32 32 = t.sid)

/-! ### ATS, PRI, ATOS -/

/-- An ATS Translation Request with SMMUEN == 0 is answered UR and F_BAD_ATS_TREQ with its StreamID is recorded; nothing is cached
or stalled, and no register of the two programming interfaces changes (26_ats.md R905, 61_event_records.md R1814). -/
def Obligations.TranslationRequestRefused : Prop :=
  ∀ (s : State) (r : AtsReq) (rest : List Stimulus), s.agenda = .atsRequest r :: rest → s.off = false → s.sfm = false →
    s.ats = true → s.impl.mergeEvents = false → r.sec = .ns → s.smmuen .ns = false →
    ∃ t e, step s = .next t ∧ .atsResponse r.id .ur ∈ t.out ∧ t.eventsNs = s.eventsNs ++ [e] ∧ e.stag = none ∧
      fld e.ev 0 8 = 0x05 ∧ fld e.ev 32 32 = r.sid ∧ t.eventsS = s.eventsS ∧ t.cfgCache = s.cfgCache ∧ t.tlb = s.tlb ∧
      t.stalled = s.stalled ∧ t.ns = s.ns ∧ t.s = s.s

/-- A PRI message that arrives waits (10_state.md R157). Of one that is taken for a PRI queue that is enabled, without an error, and
neither full nor in overflow, the 16 bytes stand at PROD.WR, WR moves on by one and no other byte changes (60_exceptions.md R1751,
R1752, 30_encoding.md R1090); the bytes are claimed of memory. The last request of a stream is not taken before an earlier one of its
stream that waits (R1753). With PRIQEN == 0 it is to be answered with ResponseFailure, a Stop
marker with nothing (R1760, R1762). A response that is owed is sent. -/
def Obligations.PageRequestIsQueued : Prop :=
  (∀ (s : State) (m : Ppr) (rest : List Stimulus), s.agenda = .pri m :: rest → s.off = false → s.pri = true →
    step s = .next { s with agenda := rest, pendingPri := s.pendingPri ++ [.received m] }) ∧
  (∀ (s : State) (n : Nat) (m : Ppr) (rest : List Stimulus), s.agenda = .takePri n :: rest → s.off = false →
    s.pendingPri[n]? = some (.received m) →
    (s.priBehind n m = true → step s = .next { s with agenda := rest }) ∧
    (let pa := s.queueBase s.priqBase (s.priqs + 4) + 16 * qIndex s.priqProd s.priqs
     let r := m.encode s.pasids (fld s.free 0 20)
     s.priBehind n m = false → s.sfm = false → s.priqen = true → m.sec = .ns → s.ns.gerrActive .priqAbt = false → bit s.priqProd 31 = bit s.priqCons 31 →
      s.priqFull = false → qInconsistent s.priqProd s.priqCons s.priqs = false →
      s.aborts .priq true pa 16 = false → (∀ j, j < 16 → intRange s.impl true (pa + j) = none) →
      Memory.wf s.mem = true → Memory.wf s.internal = true →
      ∃ t, step s = .next t ∧ t.load true pa 16 = leBytes 16 r.toNat ∧
        SameBytesBut [(true, pa, 16)] s t ∧ qPos t.priqProd s.priqs = (qPos s.priqProd s.priqs + 1) % 2 ^ (s.priqs + 1) ∧
        fld t.priqProd 20 12 = fld s.priqProd 20 12 ∧ t.ns = s.ns ∧ t.pendingPri = s.pendingPri.eraseIdx n ∧ fld r 0 32 = m.sid ∧
        fld r 64 9 = m.prgi) ∧
    (s.priBehind n m = false → s.priqen = false → step s =
      .next { s with agenda := rest, pendingPri := s.pendingPri.eraseIdx n ++
        if (m.isStop s.pasids) then [] else [.response m.sid none m.prgi 0b1111] })) ∧
  ∀ (s : State) (n : Nat) (sid : BitVec 32) (pasid : Option (BitVec 20)) (prgi : BitVec 9) (code : BitVec 4) (rest : List Stimulus),
    s.agenda = .takePri n :: rest → s.off = false → s.pendingPri[n]? = some (.response sid pasid prgi code) →
    step s = .next { s with agenda := rest, pendingPri := s.pendingPri.eraseIdx n, out := s.out ++ [.prgResponse sid pasid prgi code] }

/-- An ATOS request of the reserved TYPE 0, of each of the three groups, ends with INV_REQ: FAULT is 1, the fault code 0xFF, RUN
reads 0, PAR is known, and nothing but the registers of the group changes (50_atos.md R1305, R1321, R1342, R1343). -/
def Obligations.ReservedAtosRequest : Prop :=
  ∀ (s : State) (g : AtosGroup) (o : AtosOp) (rest : List Stimulus), s.agenda = .atosRun g :: rest → s.off = false →
    s.atosOp g = some o → o.spoiled = false → fld o.addr 10 2 = 0 →
    ∃ t, step s = .next t ∧ t.atosOp g = none ∧ (t.atosRegs g).ctrl = 0 ∧ bit (t.atosRegs g).par 0 = true ∧
      fld (t.atosRegs g).par 4 8 = 0xFF ∧ t.unknown = s.unknown.filter (fun x => x != .par g) ∧
      t = (({ s with agenda := rest, unknown := t.unknown } : State).setAtosRegs g
        { s.atosRegs g with ctrl := 0, par := (t.atosRegs g).par }).setAtosOp g none

/-! ### Counters and error records -/

/-- A counter that an event reaches goes up by one modulo its width; past its greatest value it is 0, its overflow flag is
set, and the interrupt is asked for where the counter and the group have it enabled (51_pmcg.md R1430, R1431); of the group the enable
counts as far as it is acknowledged and in effect (log entry 26). A RAS error that is detected changes its record only. An
uncorrected error of a higher priority than the recorded one is recorded: its type, syndrome and address, with OF where an uncorrected
one was overwritten. One of no higher priority sets OF and leaves what is recorded; so a Deferred error leaves an uncorrected one,
and a Corrected error a Deferred or an uncorrected one (52_ras.md R1525, R1527, R1532). -/
def Obligations.CountersAndErrorRecords : Prop :=
  (∀ (g : Pmcg) (n : Nat) (v : W64), g.evcntr[n]? = some v → n < 64 → v.toNat < 2 ^ g.width →
    (v.toNat + 1 < 2 ^ g.width → ∃ w, w.toNat = v.toNat + 1 ∧ g.increment n = ({ g with evcntr := g.evcntr.set n w }, false)) ∧
    (v.toNat + 1 = 2 ^ g.width →
      (g.increment n).1.evcntr = g.evcntr.set n 0 ∧ bit (g.increment n).1.ovs n = true ∧
      (∀ m, m ≠ n → bit (g.increment n).1.ovs m = bit g.ovs m) ∧
      (g.increment n).2 = (bit g.inten n && g.irqOn))) ∧
  ∀ (s : State) (g n : Nat) (e : RasErr) (grp : RasGroup) (r : RasRec) (rest : List Stimulus),
    s.agenda = .rasError g n e :: rest → s.off = false → s.ras[g]? = some grp → grp.recs[n]? = some r →
    (frED (rasNode grp n).1 = 1 ∨ bit (rasNode grp n).2 0 = true) → e.typ ≠ .none →
    ∃ t r', step s = .next t ∧ r' = { r with status := r'.status, addr := r'.addr, misc0 := r'.misc0, misc1 := r'.misc1 } ∧
      t = { s with agenda := rest, ras := s.ras.set g { grp with recs := grp.recs.set n r' }, irqs := t.irqs, draw := s.draw + 1 } ∧
      (e.typ.isUe = true → (rasPrev r.status).rank < e.typ.rank →
        bit r'.status 30 = true ∧ bit r'.status 29 = true ∧ fld r'.status 20 2 = e.typ.uet ∧ fld r'.status 0 8 = e.serr ∧
        fld r'.status 8 8 = e.ierr ∧ bit r'.status 31 = e.addr.isSome ∧
        (∀ a, e.addr = some a → r'.addr = a &&& rasAddrMask s.oas) ∧ (e.addr = none → r'.addr = r.addr) ∧
        ((rasPrev r.status).isUe = true → bit r'.status 27 = true)) ∧
      (e.typ.isUe = true → e.typ.rank ≤ (rasPrev r.status).rank →
        bit r'.status 27 = true ∧ (∀ k, k ≠ 27 → k ≠ 28 → bit r'.status k = bit r.status k) ∧
        r'.addr = r.addr ∧ r'.misc0 = r.misc0 ∧ r'.misc1 = r.misc1) ∧
      (e.typ = .de → (rasPrev r.status).isUe = true →
        bit r'.status 23 = true ∧ (∀ k, k ≠ 23 → k ≠ 27 → bit r'.status k = bit r.status k) ∧
        r'.addr = r.addr ∧ r'.misc0 = r.misc0 ∧ r'.misc1 = r.misc1) ∧
      (e.typ = .ce → 2 ≤ (rasPrev r.status).rank →
        (∀ k, k ≠ 24 → k ≠ 25 → k ≠ 27 → bit r'.status k = bit r.status k) ∧ r'.addr = r.addr ∧ r'.misc1 = r.misc1)

/-! ### Reset and power -/

/-- What the spec gives the registers after reset: the enables, their acknowledgements, the interrupt enables, GERROR and
GERRORN are 0, nothing is stalled, in flight, pending or in progress (70_reset_and_hazards.md R1900, R1901). That the caches are
empty is the model's choice (log entry 9), and so is that memory lists nothing (log entry 5). The identification registers that the
model presents (log entry 2) and its RAS population meet the constraints on them (10_state.md R170, 52_ras.md R1508 to R1510). -/
def Obligations.ResetValues : Prop :=
  (∀ q, (State.reset.iface q).cr0 = 0 ∧ (State.reset.iface q).cr0Ack = 0 ∧ (State.reset.iface q).irqCtrl = 0 ∧
    (State.reset.iface q).irqCtrlAck = 0 ∧ (State.reset.iface q).gerror = 0 ∧ (State.reset.iface q).gerrorn = 0 ∧
    State.reset.smmuen q = false ∧ State.reset.cmdqen q = false ∧ State.reset.eventqen q = false) ∧
  State.reset.sInit = false ∧ State.reset.stalled = [] ∧ State.reset.eventsNs = [] ∧ State.reset.eventsS = [] ∧
  State.reset.inFlight = [] ∧ State.reset.irqs = [] ∧ State.reset.pendingPri = [] ∧
  State.reset.pendingInval = [] ∧ State.reset.mem = [] ∧ State.reset.cfgCache = [] ∧ State.reset.tlb = [] ∧
  State.reset.idsConsistent = true ∧ State.reset.rasConsistent = true

/-- A reset, at any moment, powered or not: the enables are 0, nothing is stalled, in flight or pending, the RAS records are
cleared, memory and what left the SMMU stay (70_reset_and_hazards.md R1900 to R1902). That the storage inside the SMMU stays as
memory does is the model's choice (log entry 5), and so is that what is cached after a reset, arbitrary by R1902, is the
implementation's fixed parameters resetCfg and resetTlb (log entry 9). It is a Cold reset (log entry 32), which leaves every bit of
ERRCTLR 0 (log entry 1: R1575 gives ED only). A reset for error recovery, which needs power, keeps what the RAS records say
(52_ras.md R1550, R1575). -/
def Obligations.ResetFromAnyState : Prop :=
  ∀ (s : State) (rest : List Stimulus) (cold : Bool), s.agenda = (if cold then .reset else .errorRecoveryReset) :: rest →
    (cold = false → s.off = true → step s = .refused .poweredOff) ∧
    (cold = true ∨ s.off = false → ∃ t, step s = .next t ∧ t.off = false ∧ t.sfm = false ∧ t.mem = s.mem ∧ t.internal = s.internal ∧ t.out = s.out ∧ t.agenda = rest ∧
      t.stalled = [] ∧ t.inFlight = [] ∧ t.irqs = [] ∧ t.pendingPri = [] ∧ t.prefetches = [] ∧
      t.eventsNs = [] ∧ t.eventsS = [] ∧ t.pendingInval = [] ∧ t.cfgCache = s.impl.resetCfg ∧ t.tlb = s.impl.resetTlb ∧ t.atcNs = [] ∧ t.atcS = [] ∧
      t.atcNsLate = [] ∧ t.atcSLate = [] ∧
      (∀ q, (t.iface q).cr0 = 0 ∧ (t.iface q).cr0Ack = 0 ∧ (t.iface q).cr0Eff = 0 ∧ (t.iface q).gerror = 0 ∧ (t.iface q).gerrorn = 0 ∧
        (t.iface q).irqCtrl = 0 ∧ (t.iface q).irqCtrlAck = 0) ∧
      (cold = true → ∀ g ∈ t.ras, ∀ r ∈ g.recs, r.ctlr = 0 ∧ bit r.status 30 = false) ∧
      (cold = false → t.ras.map (fun g => g.recs.map fun r => (r.status, r.addr, r.misc0, r.misc1)) =
        s.ras.map fun g => g.recs.map fun r => (r.status, r.addr, r.misc0, r.misc1)))

/-! ### Whole-machine rules -/

/-- Memory, and the storage inside the SMMU, is in its canonical form right after reset. -/
def Obligations.ResetMemoryCanonical : Prop := Memory.wf State.reset.mem = true ∧ Memory.wf State.reset.internal = true

/-- Every step keeps the canonical form of memory and of the storage inside the SMMU. -/
def Obligations.StepKeepsMemoryCanonical : Prop :=
  ∀ s t : State, Memory.wf s.mem = true → Memory.wf s.internal = true → step s = .next t →
    Memory.wf t.mem = true ∧ Memory.wf t.internal = true

/-- Every step keeps the identification registers and the parameters, takes no free value back and no output back
(11_registers_ns.md R200 to R209). -/
def Obligations.StepIsOnward : Prop := ∀ s t : State, step s = .next t → Onward s t

/-- The enables of the queues in effect are those that CR0ACK shows, in every step (30_encoding.md R1061, 60_exceptions.md
R1652). -/
def Obligations.StepKeepsQueueEnables : Prop :=
  ∀ s t : State,
    (∀ q, bit (s.iface q).cr0Eff 2 = bit (s.iface q).cr0Ack 2 ∧ bit (s.iface q).cr0Eff 3 = bit (s.iface q).cr0Ack 3) →
    step s = .next t →
    ∀ q, bit (t.iface q).cr0Eff 2 = bit (t.iface q).cr0Ack 2 ∧ bit (t.iface q).cr0Eff 3 = bit (t.iface q).cr0Ack 3

/-- No command, of either queue, changes a register but CMDQ_CONS, GERROR and the index of an Event queue, nor any other
state than the caches, the transactions in flight and stalled, the lists of work, RAS records, memory and the outputs
(30_encoding.md R1061, R1062, 40 to 43). -/
def Obligations.CommandsKeepRegisters : Prop :=
  ∀ (i : Instr) (s t : State), exec i s = .next t →
    CommandFrame s t ∧ CommandRegisters s.ns t.ns ∧ CommandRegisters s.s t.s

/-- A command from the Non-secure Command queue leaves four parts of the Secure state alone: the registers of the Secure interface,
the Secure events, the Secure stalled transactions and the outstanding requests of the Secure queue (30_encoding.md R1053). -/
def Obligations.NonSecureCommandsSpareSecureParts : Prop :=
  ∀ (i : Instr) (s t : State), s.curQ = .ns → exec i s = .next t →
    t.s = s.s ∧ t.eventsS = s.eventsS ∧ t.atcS = s.atcS ∧ t.atcSLate = s.atcSLate ∧
    t.stalled.filter (fun x => x.txn.sec == .s) = s.stalled.filter (fun x => x.txn.sec == .s)
end

