-- ==== Sys2Proof/Laws/State.lean ====
section
/-! SUPPORT. What each named update of State leaves in every field. -/
namespace Sys2Proof.Machine

/-! ### Interfaces -/

@[simp] theorem iface_ns (s : State) : s.iface .ns = s.ns := rfl
@[simp] theorem iface_s (s : State) : s.iface .s = s.s := rfl
@[simp] theorem iface_setIface (s : State) (q : Sec) (i : Iface) : (s.setIface q i).iface q = i := by cases q <;> rfl
theorem iface_setIface_ne (s : State) (q q' : Sec) (i : Iface) (h : q' ≠ q) : (s.setIface q i).iface q' = s.iface q' := by
  cases q <;> cases q' <;> first | rfl | exact absurd rfl h
@[simp] theorem setIface_setIface (s : State) (q : Sec) (i j : Iface) : (s.setIface q i).setIface q j = s.setIface q j := by
  cases q <;> rfl
@[simp] theorem setIface_iface (s : State) (q : Sec) : s.setIface q (s.iface q) = s := by cases q <;> rfl
theorem setIface_ns (s : State) (i : Iface) : s.setIface .ns i = { s with ns := i } := rfl
theorem setIface_s (s : State) (i : Iface) : s.setIface .s i = { s with s := i } := rfl

/-! ### setIface -/

@[simp] theorem setIface_impl (s : State) (q : Sec) (i : Iface) : (s.setIface q i).impl = s.impl := by cases q <;> rfl
@[simp] theorem setIface_ids (s : State) (q : Sec) (i : Iface) : (s.setIface q i).ids = s.ids := by cases q <;> rfl
@[simp] theorem setIface_statusr (s : State) (q : Sec) (i : Iface) : (s.setIface q i).statusr = s.statusr := by cases q <;> rfl
@[simp] theorem setIface_priqBase (s : State) (q : Sec) (i : Iface) : (s.setIface q i).priqBase = s.priqBase := by cases q <;> rfl
@[simp] theorem setIface_priqProd (s : State) (q : Sec) (i : Iface) : (s.setIface q i).priqProd = s.priqProd := by cases q <;> rfl
@[simp] theorem setIface_priqCons (s : State) (q : Sec) (i : Iface) : (s.setIface q i).priqCons = s.priqCons := by cases q <;> rfl
@[simp] theorem setIface_priqCfg (s : State) (q : Sec) (i : Iface) : (s.setIface q i).priqCfg = s.priqCfg := by cases q <;> rfl
@[simp] theorem setIface_vatosSel (s : State) (q : Sec) (i : Iface) : (s.setIface q i).vatosSel = s.vatosSel := by cases q <;> rfl
@[simp] theorem setIface_vatos (s : State) (q : Sec) (i : Iface) : (s.setIface q i).vatos = s.vatos := by cases q <;> rfl
@[simp] theorem setIface_sInit (s : State) (q : Sec) (i : Iface) : (s.setIface q i).sInit = s.sInit := by cases q <;> rfl
@[simp] theorem setIface_cfgCache (s : State) (q : Sec) (i : Iface) : (s.setIface q i).cfgCache = s.cfgCache := by cases q <;> rfl
@[simp] theorem setIface_tlb (s : State) (q : Sec) (i : Iface) : (s.setIface q i).tlb = s.tlb := by cases q <;> rfl
@[simp] theorem setIface_inFlight (s : State) (q : Sec) (i : Iface) : (s.setIface q i).inFlight = s.inFlight := by cases q <;> rfl
@[simp] theorem setIface_stalled (s : State) (q : Sec) (i : Iface) : (s.setIface q i).stalled = s.stalled := by cases q <;> rfl
@[simp] theorem setIface_stags (s : State) (q : Sec) (i : Iface) : (s.setIface q i).stags = s.stags := by cases q <;> rfl
@[simp] theorem setIface_pendingInval (s : State) (q : Sec) (i : Iface) : (s.setIface q i).pendingInval = s.pendingInval := by cases q <;> rfl
@[simp] theorem setIface_atcNs (s : State) (q : Sec) (i : Iface) : (s.setIface q i).atcNs = s.atcNs := by cases q <;> rfl
@[simp] theorem setIface_atcS (s : State) (q : Sec) (i : Iface) : (s.setIface q i).atcS = s.atcS := by cases q <;> rfl
@[simp] theorem setIface_atcNsLate (s : State) (q : Sec) (i : Iface) : (s.setIface q i).atcNsLate = s.atcNsLate := by cases q <;> rfl
@[simp] theorem setIface_atcSLate (s : State) (q : Sec) (i : Iface) : (s.setIface q i).atcSLate = s.atcSLate := by cases q <;> rfl
@[simp] theorem setIface_eventsNs (s : State) (q : Sec) (i : Iface) : (s.setIface q i).eventsNs = s.eventsNs := by cases q <;> rfl
@[simp] theorem setIface_eventsS (s : State) (q : Sec) (i : Iface) : (s.setIface q i).eventsS = s.eventsS := by cases q <;> rfl
@[simp] theorem setIface_pendingPri (s : State) (q : Sec) (i : Iface) : (s.setIface q i).pendingPri = s.pendingPri := by cases q <;> rfl
@[simp] theorem setIface_irqs (s : State) (q : Sec) (i : Iface) : (s.setIface q i).irqs = s.irqs := by cases q <;> rfl
@[simp] theorem setIface_gatosOp (s : State) (q : Sec) (i : Iface) : (s.setIface q i).gatosOp = s.gatosOp := by cases q <;> rfl
@[simp] theorem setIface_sGatosOp (s : State) (q : Sec) (i : Iface) : (s.setIface q i).sGatosOp = s.sGatosOp := by cases q <;> rfl
@[simp] theorem setIface_vatosOp (s : State) (q : Sec) (i : Iface) : (s.setIface q i).vatosOp = s.vatosOp := by cases q <;> rfl
@[simp] theorem setIface_prefetches (s : State) (q : Sec) (i : Iface) : (s.setIface q i).prefetches = s.prefetches := by cases q <;> rfl
@[simp] theorem setIface_steLog (s : State) (q : Sec) (i : Iface) : (s.setIface q i).steLog = s.steLog := by cases q <;> rfl
@[simp] theorem setIface_cmdCache (s : State) (q : Sec) (i : Iface) : (s.setIface q i).cmdCache = s.cmdCache := by cases q <;> rfl
@[simp] theorem setIface_cmdqNsWedged (s : State) (q : Sec) (i : Iface) : (s.setIface q i).cmdqNsWedged = s.cmdqNsWedged := by cases q <;> rfl
@[simp] theorem setIface_cmdqSWedged (s : State) (q : Sec) (i : Iface) : (s.setIface q i).cmdqSWedged = s.cmdqSWedged := by cases q <;> rfl
@[simp] theorem setIface_unknown (s : State) (q : Sec) (i : Iface) : (s.setIface q i).unknown = s.unknown := by cases q <;> rfl
@[simp] theorem setIface_e2hWritten (s : State) (q : Sec) (i : Iface) : (s.setIface q i).e2hWritten = s.e2hWritten := by cases q <;> rfl
@[simp] theorem setIface_sfm (s : State) (q : Sec) (i : Iface) : (s.setIface q i).sfm = s.sfm := by cases q <;> rfl
@[simp] theorem setIface_off (s : State) (q : Sec) (i : Iface) : (s.setIface q i).off = s.off := by cases q <;> rfl
@[simp] theorem setIface_mem (s : State) (q : Sec) (i : Iface) : (s.setIface q i).mem = s.mem := by cases q <;> rfl
@[simp] theorem setIface_internal (s : State) (q : Sec) (i : Iface) : (s.setIface q i).internal = s.internal := by cases q <;> rfl
@[simp] theorem setIface_meanwhile (s : State) (q : Sec) (i : Iface) : (s.setIface q i).meanwhile = s.meanwhile := by cases q <;> rfl
@[simp] theorem setIface_fetchOrder (s : State) (q : Sec) (i : Iface) : (s.setIface q i).fetchOrder = s.fetchOrder := by cases q <;> rfl
@[simp] theorem setIface_pmcgs (s : State) (q : Sec) (i : Iface) : (s.setIface q i).pmcgs = s.pmcgs := by cases q <;> rfl
@[simp] theorem setIface_pmcgPast (s : State) (q : Sec) (i : Iface) : (s.setIface q i).pmcgPast = s.pmcgPast := by cases q <;> rfl
@[simp] theorem setIface_ras (s : State) (q : Sec) (i : Iface) : (s.setIface q i).ras = s.ras := by cases q <;> rfl
@[simp] theorem setIface_agenda (s : State) (q : Sec) (i : Iface) : (s.setIface q i).agenda = s.agenda := by cases q <;> rfl
@[simp] theorem setIface_out (s : State) (q : Sec) (i : Iface) : (s.setIface q i).out = s.out := by cases q <;> rfl
@[simp] theorem setIface_draw (s : State) (q : Sec) (i : Iface) : (s.setIface q i).draw = s.draw := by cases q <;> rfl
@[simp] theorem setIface_trail (s : State) (q : Sec) (i : Iface) : (s.setIface q i).trail = s.trail := by cases q <;> rfl
@[simp] theorem setIface_turn (s : State) (q : Sec) (i : Iface) : (s.setIface q i).turn = s.turn := by cases q <;> rfl
@[simp] theorem setIface_curQ (s : State) (q : Sec) (i : Iface) : (s.setIface q i).curQ = s.curQ := by cases q <;> rfl

/-! ### emit -/

@[simp] theorem emit_impl (s : State) (o : Output) : (s.emit o).impl = s.impl := rfl
@[simp] theorem emit_ids (s : State) (o : Output) : (s.emit o).ids = s.ids := rfl
@[simp] theorem emit_ns (s : State) (o : Output) : (s.emit o).ns = s.ns := rfl
@[simp] theorem emit_s (s : State) (o : Output) : (s.emit o).s = s.s := rfl
@[simp] theorem emit_statusr (s : State) (o : Output) : (s.emit o).statusr = s.statusr := rfl
@[simp] theorem emit_priqBase (s : State) (o : Output) : (s.emit o).priqBase = s.priqBase := rfl
@[simp] theorem emit_priqProd (s : State) (o : Output) : (s.emit o).priqProd = s.priqProd := rfl
@[simp] theorem emit_priqCons (s : State) (o : Output) : (s.emit o).priqCons = s.priqCons := rfl
@[simp] theorem emit_priqCfg (s : State) (o : Output) : (s.emit o).priqCfg = s.priqCfg := rfl
@[simp] theorem emit_vatosSel (s : State) (o : Output) : (s.emit o).vatosSel = s.vatosSel := rfl
@[simp] theorem emit_vatos (s : State) (o : Output) : (s.emit o).vatos = s.vatos := rfl
@[simp] theorem emit_sInit (s : State) (o : Output) : (s.emit o).sInit = s.sInit := rfl
@[simp] theorem emit_cfgCache (s : State) (o : Output) : (s.emit o).cfgCache = s.cfgCache := rfl
@[simp] theorem emit_tlb (s : State) (o : Output) : (s.emit o).tlb = s.tlb := rfl
@[simp] theorem emit_inFlight (s : State) (o : Output) : (s.emit o).inFlight = s.inFlight := rfl
@[simp] theorem emit_stalled (s : State) (o : Output) : (s.emit o).stalled = s.stalled := rfl
@[simp] theorem emit_stags (s : State) (o : Output) : (s.emit o).stags = s.stags := rfl
@[simp] theorem emit_pendingInval (s : State) (o : Output) : (s.emit o).pendingInval = s.pendingInval := rfl
@[simp] theorem emit_atcNs (s : State) (o : Output) : (s.emit o).atcNs = s.atcNs := rfl
@[simp] theorem emit_atcS (s : State) (o : Output) : (s.emit o).atcS = s.atcS := rfl
@[simp] theorem emit_atcNsLate (s : State) (o : Output) : (s.emit o).atcNsLate = s.atcNsLate := rfl
@[simp] theorem emit_atcSLate (s : State) (o : Output) : (s.emit o).atcSLate = s.atcSLate := rfl
@[simp] theorem emit_eventsNs (s : State) (o : Output) : (s.emit o).eventsNs = s.eventsNs := rfl
@[simp] theorem emit_eventsS (s : State) (o : Output) : (s.emit o).eventsS = s.eventsS := rfl
@[simp] theorem emit_pendingPri (s : State) (o : Output) : (s.emit o).pendingPri = s.pendingPri := rfl
@[simp] theorem emit_irqs (s : State) (o : Output) : (s.emit o).irqs = s.irqs := rfl
@[simp] theorem emit_gatosOp (s : State) (o : Output) : (s.emit o).gatosOp = s.gatosOp := rfl
@[simp] theorem emit_sGatosOp (s : State) (o : Output) : (s.emit o).sGatosOp = s.sGatosOp := rfl
@[simp] theorem emit_vatosOp (s : State) (o : Output) : (s.emit o).vatosOp = s.vatosOp := rfl
@[simp] theorem emit_prefetches (s : State) (o : Output) : (s.emit o).prefetches = s.prefetches := rfl
@[simp] theorem emit_steLog (s : State) (o : Output) : (s.emit o).steLog = s.steLog := rfl
@[simp] theorem emit_cmdCache (s : State) (o : Output) : (s.emit o).cmdCache = s.cmdCache := rfl
@[simp] theorem emit_cmdqNsWedged (s : State) (o : Output) : (s.emit o).cmdqNsWedged = s.cmdqNsWedged := rfl
@[simp] theorem emit_cmdqSWedged (s : State) (o : Output) : (s.emit o).cmdqSWedged = s.cmdqSWedged := rfl
@[simp] theorem emit_unknown (s : State) (o : Output) : (s.emit o).unknown = s.unknown := rfl
@[simp] theorem emit_e2hWritten (s : State) (o : Output) : (s.emit o).e2hWritten = s.e2hWritten := rfl
@[simp] theorem emit_sfm (s : State) (o : Output) : (s.emit o).sfm = s.sfm := rfl
@[simp] theorem emit_off (s : State) (o : Output) : (s.emit o).off = s.off := rfl
@[simp] theorem emit_mem (s : State) (o : Output) : (s.emit o).mem = s.mem := rfl
@[simp] theorem emit_internal (s : State) (o : Output) : (s.emit o).internal = s.internal := rfl
@[simp] theorem emit_meanwhile (s : State) (o : Output) : (s.emit o).meanwhile = s.meanwhile := rfl
@[simp] theorem emit_fetchOrder (s : State) (o : Output) : (s.emit o).fetchOrder = s.fetchOrder := rfl
@[simp] theorem emit_pmcgs (s : State) (o : Output) : (s.emit o).pmcgs = s.pmcgs := rfl
@[simp] theorem emit_pmcgPast (s : State) (o : Output) : (s.emit o).pmcgPast = s.pmcgPast := rfl
@[simp] theorem emit_ras (s : State) (o : Output) : (s.emit o).ras = s.ras := rfl
@[simp] theorem emit_agenda (s : State) (o : Output) : (s.emit o).agenda = s.agenda := rfl
@[simp] theorem emit_draw (s : State) (o : Output) : (s.emit o).draw = s.draw := rfl
@[simp] theorem emit_trail (s : State) (o : Output) : (s.emit o).trail = s.trail := rfl
@[simp] theorem emit_turn (s : State) (o : Output) : (s.emit o).turn = s.turn := rfl
@[simp] theorem emit_curQ (s : State) (o : Output) : (s.emit o).curQ = s.curQ := rfl

/-! ### drawn -/

@[simp] theorem drawn_impl (s : State) : (s.drawn).impl = s.impl := rfl
@[simp] theorem drawn_ids (s : State) : (s.drawn).ids = s.ids := rfl
@[simp] theorem drawn_ns (s : State) : (s.drawn).ns = s.ns := rfl
@[simp] theorem drawn_s (s : State) : (s.drawn).s = s.s := rfl
@[simp] theorem drawn_statusr (s : State) : (s.drawn).statusr = s.statusr := rfl
@[simp] theorem drawn_priqBase (s : State) : (s.drawn).priqBase = s.priqBase := rfl
@[simp] theorem drawn_priqProd (s : State) : (s.drawn).priqProd = s.priqProd := rfl
@[simp] theorem drawn_priqCons (s : State) : (s.drawn).priqCons = s.priqCons := rfl
@[simp] theorem drawn_priqCfg (s : State) : (s.drawn).priqCfg = s.priqCfg := rfl
@[simp] theorem drawn_vatosSel (s : State) : (s.drawn).vatosSel = s.vatosSel := rfl
@[simp] theorem drawn_vatos (s : State) : (s.drawn).vatos = s.vatos := rfl
@[simp] theorem drawn_sInit (s : State) : (s.drawn).sInit = s.sInit := rfl
@[simp] theorem drawn_cfgCache (s : State) : (s.drawn).cfgCache = s.cfgCache := rfl
@[simp] theorem drawn_tlb (s : State) : (s.drawn).tlb = s.tlb := rfl
@[simp] theorem drawn_inFlight (s : State) : (s.drawn).inFlight = s.inFlight := rfl
@[simp] theorem drawn_stalled (s : State) : (s.drawn).stalled = s.stalled := rfl
@[simp] theorem drawn_stags (s : State) : (s.drawn).stags = s.stags := rfl
@[simp] theorem drawn_pendingInval (s : State) : (s.drawn).pendingInval = s.pendingInval := rfl
@[simp] theorem drawn_atcNs (s : State) : (s.drawn).atcNs = s.atcNs := rfl
@[simp] theorem drawn_atcS (s : State) : (s.drawn).atcS = s.atcS := rfl
@[simp] theorem drawn_atcNsLate (s : State) : (s.drawn).atcNsLate = s.atcNsLate := rfl
@[simp] theorem drawn_atcSLate (s : State) : (s.drawn).atcSLate = s.atcSLate := rfl
@[simp] theorem drawn_eventsNs (s : State) : (s.drawn).eventsNs = s.eventsNs := rfl
@[simp] theorem drawn_eventsS (s : State) : (s.drawn).eventsS = s.eventsS := rfl
@[simp] theorem drawn_pendingPri (s : State) : (s.drawn).pendingPri = s.pendingPri := rfl
@[simp] theorem drawn_irqs (s : State) : (s.drawn).irqs = s.irqs := rfl
@[simp] theorem drawn_gatosOp (s : State) : (s.drawn).gatosOp = s.gatosOp := rfl
@[simp] theorem drawn_sGatosOp (s : State) : (s.drawn).sGatosOp = s.sGatosOp := rfl
@[simp] theorem drawn_vatosOp (s : State) : (s.drawn).vatosOp = s.vatosOp := rfl
@[simp] theorem drawn_prefetches (s : State) : (s.drawn).prefetches = s.prefetches := rfl
@[simp] theorem drawn_steLog (s : State) : (s.drawn).steLog = s.steLog := rfl
@[simp] theorem drawn_cmdCache (s : State) : (s.drawn).cmdCache = s.cmdCache := rfl
@[simp] theorem drawn_cmdqNsWedged (s : State) : (s.drawn).cmdqNsWedged = s.cmdqNsWedged := rfl
@[simp] theorem drawn_cmdqSWedged (s : State) : (s.drawn).cmdqSWedged = s.cmdqSWedged := rfl
@[simp] theorem drawn_unknown (s : State) : (s.drawn).unknown = s.unknown := rfl
@[simp] theorem drawn_e2hWritten (s : State) : (s.drawn).e2hWritten = s.e2hWritten := rfl
@[simp] theorem drawn_sfm (s : State) : (s.drawn).sfm = s.sfm := rfl
@[simp] theorem drawn_off (s : State) : (s.drawn).off = s.off := rfl
@[simp] theorem drawn_mem (s : State) : (s.drawn).mem = s.mem := rfl
@[simp] theorem drawn_internal (s : State) : (s.drawn).internal = s.internal := rfl
@[simp] theorem drawn_meanwhile (s : State) : (s.drawn).meanwhile = s.meanwhile := rfl
@[simp] theorem drawn_fetchOrder (s : State) : (s.drawn).fetchOrder = s.fetchOrder := rfl
@[simp] theorem drawn_pmcgs (s : State) : (s.drawn).pmcgs = s.pmcgs := rfl
@[simp] theorem drawn_pmcgPast (s : State) : (s.drawn).pmcgPast = s.pmcgPast := rfl
@[simp] theorem drawn_ras (s : State) : (s.drawn).ras = s.ras := rfl
@[simp] theorem drawn_agenda (s : State) : (s.drawn).agenda = s.agenda := rfl
@[simp] theorem drawn_out (s : State) : (s.drawn).out = s.out := rfl
@[simp] theorem drawn_trail (s : State) : (s.drawn).trail = s.trail := rfl
@[simp] theorem drawn_turn (s : State) : (s.drawn).turn = s.turn := rfl
@[simp] theorem drawn_curQ (s : State) : (s.drawn).curQ = s.curQ := rfl

/-! ### pend -/

@[simp] theorem pend_impl (s : State) (i : InvScope) (d : Option Nat) : (s.pend i d).impl = s.impl := rfl
@[simp] theorem pend_ids (s : State) (i : InvScope) (d : Option Nat) : (s.pend i d).ids = s.ids := rfl
@[simp] theorem pend_ns (s : State) (i : InvScope) (d : Option Nat) : (s.pend i d).ns = s.ns := rfl
@[simp] theorem pend_s (s : State) (i : InvScope) (d : Option Nat) : (s.pend i d).s = s.s := rfl
@[simp] theorem pend_statusr (s : State) (i : InvScope) (d : Option Nat) : (s.pend i d).statusr = s.statusr := rfl
@[simp] theorem pend_priqBase (s : State) (i : InvScope) (d : Option Nat) : (s.pend i d).priqBase = s.priqBase := rfl
@[simp] theorem pend_priqProd (s : State) (i : InvScope) (d : Option Nat) : (s.pend i d).priqProd = s.priqProd := rfl
@[simp] theorem pend_priqCons (s : State) (i : InvScope) (d : Option Nat) : (s.pend i d).priqCons = s.priqCons := rfl
@[simp] theorem pend_priqCfg (s : State) (i : InvScope) (d : Option Nat) : (s.pend i d).priqCfg = s.priqCfg := rfl
@[simp] theorem pend_vatosSel (s : State) (i : InvScope) (d : Option Nat) : (s.pend i d).vatosSel = s.vatosSel := rfl
@[simp] theorem pend_vatos (s : State) (i : InvScope) (d : Option Nat) : (s.pend i d).vatos = s.vatos := rfl
@[simp] theorem pend_sInit (s : State) (i : InvScope) (d : Option Nat) : (s.pend i d).sInit = s.sInit := rfl
@[simp] theorem pend_cfgCache (s : State) (i : InvScope) (d : Option Nat) : (s.pend i d).cfgCache = s.cfgCache := rfl
@[simp] theorem pend_tlb (s : State) (i : InvScope) (d : Option Nat) : (s.pend i d).tlb = s.tlb := rfl
@[simp] theorem pend_inFlight (s : State) (i : InvScope) (d : Option Nat) : (s.pend i d).inFlight = s.inFlight := rfl
@[simp] theorem pend_stalled (s : State) (i : InvScope) (d : Option Nat) : (s.pend i d).stalled = s.stalled := rfl
@[simp] theorem pend_stags (s : State) (i : InvScope) (d : Option Nat) : (s.pend i d).stags = s.stags := rfl
@[simp] theorem pend_atcNs (s : State) (i : InvScope) (d : Option Nat) : (s.pend i d).atcNs = s.atcNs := rfl
@[simp] theorem pend_atcS (s : State) (i : InvScope) (d : Option Nat) : (s.pend i d).atcS = s.atcS := rfl
@[simp] theorem pend_atcNsLate (s : State) (i : InvScope) (d : Option Nat) : (s.pend i d).atcNsLate = s.atcNsLate := rfl
@[simp] theorem pend_atcSLate (s : State) (i : InvScope) (d : Option Nat) : (s.pend i d).atcSLate = s.atcSLate := rfl
@[simp] theorem pend_eventsNs (s : State) (i : InvScope) (d : Option Nat) : (s.pend i d).eventsNs = s.eventsNs := rfl
@[simp] theorem pend_eventsS (s : State) (i : InvScope) (d : Option Nat) : (s.pend i d).eventsS = s.eventsS := rfl
@[simp] theorem pend_pendingPri (s : State) (i : InvScope) (d : Option Nat) : (s.pend i d).pendingPri = s.pendingPri := rfl
@[simp] theorem pend_irqs (s : State) (i : InvScope) (d : Option Nat) : (s.pend i d).irqs = s.irqs := rfl
@[simp] theorem pend_gatosOp (s : State) (i : InvScope) (d : Option Nat) : (s.pend i d).gatosOp = s.gatosOp := rfl
@[simp] theorem pend_sGatosOp (s : State) (i : InvScope) (d : Option Nat) : (s.pend i d).sGatosOp = s.sGatosOp := rfl
@[simp] theorem pend_vatosOp (s : State) (i : InvScope) (d : Option Nat) : (s.pend i d).vatosOp = s.vatosOp := rfl
@[simp] theorem pend_prefetches (s : State) (i : InvScope) (d : Option Nat) : (s.pend i d).prefetches = s.prefetches := rfl
@[simp] theorem pend_cmdCache (s : State) (i : InvScope) (d : Option Nat) : (s.pend i d).cmdCache = s.cmdCache := rfl
@[simp] theorem pend_cmdqNsWedged (s : State) (i : InvScope) (d : Option Nat) : (s.pend i d).cmdqNsWedged = s.cmdqNsWedged := rfl
@[simp] theorem pend_cmdqSWedged (s : State) (i : InvScope) (d : Option Nat) : (s.pend i d).cmdqSWedged = s.cmdqSWedged := rfl
@[simp] theorem pend_unknown (s : State) (i : InvScope) (d : Option Nat) : (s.pend i d).unknown = s.unknown := rfl
@[simp] theorem pend_e2hWritten (s : State) (i : InvScope) (d : Option Nat) : (s.pend i d).e2hWritten = s.e2hWritten := rfl
@[simp] theorem pend_sfm (s : State) (i : InvScope) (d : Option Nat) : (s.pend i d).sfm = s.sfm := rfl
@[simp] theorem pend_off (s : State) (i : InvScope) (d : Option Nat) : (s.pend i d).off = s.off := rfl
@[simp] theorem pend_mem (s : State) (i : InvScope) (d : Option Nat) : (s.pend i d).mem = s.mem := rfl
@[simp] theorem pend_internal (s : State) (i : InvScope) (d : Option Nat) : (s.pend i d).internal = s.internal := rfl
@[simp] theorem pend_meanwhile (s : State) (i : InvScope) (d : Option Nat) : (s.pend i d).meanwhile = s.meanwhile := rfl
@[simp] theorem pend_fetchOrder (s : State) (i : InvScope) (d : Option Nat) : (s.pend i d).fetchOrder = s.fetchOrder := rfl
@[simp] theorem pend_pmcgs (s : State) (i : InvScope) (d : Option Nat) : (s.pend i d).pmcgs = s.pmcgs := rfl
@[simp] theorem pend_pmcgPast (s : State) (i : InvScope) (d : Option Nat) : (s.pend i d).pmcgPast = s.pmcgPast := rfl
@[simp] theorem pend_ras (s : State) (i : InvScope) (d : Option Nat) : (s.pend i d).ras = s.ras := rfl
@[simp] theorem pend_agenda (s : State) (i : InvScope) (d : Option Nat) : (s.pend i d).agenda = s.agenda := rfl
@[simp] theorem pend_out (s : State) (i : InvScope) (d : Option Nat) : (s.pend i d).out = s.out := rfl
@[simp] theorem pend_draw (s : State) (i : InvScope) (d : Option Nat) : (s.pend i d).draw = s.draw := rfl
@[simp] theorem pend_trail (s : State) (i : InvScope) (d : Option Nat) : (s.pend i d).trail = s.trail := rfl
@[simp] theorem pend_turn (s : State) (i : InvScope) (d : Option Nat) : (s.pend i d).turn = s.turn := rfl
@[simp] theorem pend_curQ (s : State) (i : InvScope) (d : Option Nat) : (s.pend i d).curQ = s.curQ := rfl

/-! ### request -/

@[simp] theorem request_impl (s : State) (p : Prefetch) : (s.request p).impl = s.impl := rfl
@[simp] theorem request_ids (s : State) (p : Prefetch) : (s.request p).ids = s.ids := rfl
@[simp] theorem request_ns (s : State) (p : Prefetch) : (s.request p).ns = s.ns := rfl
@[simp] theorem request_s (s : State) (p : Prefetch) : (s.request p).s = s.s := rfl
@[simp] theorem request_statusr (s : State) (p : Prefetch) : (s.request p).statusr = s.statusr := rfl
@[simp] theorem request_priqBase (s : State) (p : Prefetch) : (s.request p).priqBase = s.priqBase := rfl
@[simp] theorem request_priqProd (s : State) (p : Prefetch) : (s.request p).priqProd = s.priqProd := rfl
@[simp] theorem request_priqCons (s : State) (p : Prefetch) : (s.request p).priqCons = s.priqCons := rfl
@[simp] theorem request_priqCfg (s : State) (p : Prefetch) : (s.request p).priqCfg = s.priqCfg := rfl
@[simp] theorem request_vatosSel (s : State) (p : Prefetch) : (s.request p).vatosSel = s.vatosSel := rfl
@[simp] theorem request_vatos (s : State) (p : Prefetch) : (s.request p).vatos = s.vatos := rfl
@[simp] theorem request_sInit (s : State) (p : Prefetch) : (s.request p).sInit = s.sInit := rfl
@[simp] theorem request_cfgCache (s : State) (p : Prefetch) : (s.request p).cfgCache = s.cfgCache := rfl
@[simp] theorem request_tlb (s : State) (p : Prefetch) : (s.request p).tlb = s.tlb := rfl
@[simp] theorem request_inFlight (s : State) (p : Prefetch) : (s.request p).inFlight = s.inFlight := rfl
@[simp] theorem request_stalled (s : State) (p : Prefetch) : (s.request p).stalled = s.stalled := rfl
@[simp] theorem request_stags (s : State) (p : Prefetch) : (s.request p).stags = s.stags := rfl
@[simp] theorem request_pendingInval (s : State) (p : Prefetch) : (s.request p).pendingInval = s.pendingInval := rfl
@[simp] theorem request_steLog (s : State) (p : Prefetch) : (s.request p).steLog = s.steLog := rfl
@[simp] theorem request_atcNs (s : State) (p : Prefetch) : (s.request p).atcNs = s.atcNs := rfl
@[simp] theorem request_atcS (s : State) (p : Prefetch) : (s.request p).atcS = s.atcS := rfl
@[simp] theorem request_atcNsLate (s : State) (p : Prefetch) : (s.request p).atcNsLate = s.atcNsLate := rfl
@[simp] theorem request_atcSLate (s : State) (p : Prefetch) : (s.request p).atcSLate = s.atcSLate := rfl
@[simp] theorem request_eventsNs (s : State) (p : Prefetch) : (s.request p).eventsNs = s.eventsNs := rfl
@[simp] theorem request_eventsS (s : State) (p : Prefetch) : (s.request p).eventsS = s.eventsS := rfl
@[simp] theorem request_pendingPri (s : State) (p : Prefetch) : (s.request p).pendingPri = s.pendingPri := rfl
@[simp] theorem request_irqs (s : State) (p : Prefetch) : (s.request p).irqs = s.irqs := rfl
@[simp] theorem request_gatosOp (s : State) (p : Prefetch) : (s.request p).gatosOp = s.gatosOp := rfl
@[simp] theorem request_sGatosOp (s : State) (p : Prefetch) : (s.request p).sGatosOp = s.sGatosOp := rfl
@[simp] theorem request_vatosOp (s : State) (p : Prefetch) : (s.request p).vatosOp = s.vatosOp := rfl
@[simp] theorem request_cmdCache (s : State) (p : Prefetch) : (s.request p).cmdCache = s.cmdCache := rfl
@[simp] theorem request_cmdqNsWedged (s : State) (p : Prefetch) : (s.request p).cmdqNsWedged = s.cmdqNsWedged := rfl
@[simp] theorem request_cmdqSWedged (s : State) (p : Prefetch) : (s.request p).cmdqSWedged = s.cmdqSWedged := rfl
@[simp] theorem request_unknown (s : State) (p : Prefetch) : (s.request p).unknown = s.unknown := rfl
@[simp] theorem request_e2hWritten (s : State) (p : Prefetch) : (s.request p).e2hWritten = s.e2hWritten := rfl
@[simp] theorem request_sfm (s : State) (p : Prefetch) : (s.request p).sfm = s.sfm := rfl
@[simp] theorem request_off (s : State) (p : Prefetch) : (s.request p).off = s.off := rfl
@[simp] theorem request_mem (s : State) (p : Prefetch) : (s.request p).mem = s.mem := rfl
@[simp] theorem request_internal (s : State) (p : Prefetch) : (s.request p).internal = s.internal := rfl
@[simp] theorem request_meanwhile (s : State) (p : Prefetch) : (s.request p).meanwhile = s.meanwhile := rfl
@[simp] theorem request_fetchOrder (s : State) (p : Prefetch) : (s.request p).fetchOrder = s.fetchOrder := rfl
@[simp] theorem request_pmcgs (s : State) (p : Prefetch) : (s.request p).pmcgs = s.pmcgs := rfl
@[simp] theorem request_pmcgPast (s : State) (p : Prefetch) : (s.request p).pmcgPast = s.pmcgPast := rfl
@[simp] theorem request_ras (s : State) (p : Prefetch) : (s.request p).ras = s.ras := rfl
@[simp] theorem request_agenda (s : State) (p : Prefetch) : (s.request p).agenda = s.agenda := rfl
@[simp] theorem request_out (s : State) (p : Prefetch) : (s.request p).out = s.out := rfl
@[simp] theorem request_draw (s : State) (p : Prefetch) : (s.request p).draw = s.draw := rfl
@[simp] theorem request_trail (s : State) (p : Prefetch) : (s.request p).trail = s.trail := rfl
@[simp] theorem request_turn (s : State) (p : Prefetch) : (s.request p).turn = s.turn := rfl
@[simp] theorem request_curQ (s : State) (p : Prefetch) : (s.request p).curQ = s.curQ := rfl

/-! ### pushIrqs -/

@[simp] theorem pushIrqs_impl (s : State) (l : List Irq) : (s.pushIrqs l).impl = s.impl := rfl
@[simp] theorem pushIrqs_ids (s : State) (l : List Irq) : (s.pushIrqs l).ids = s.ids := rfl
@[simp] theorem pushIrqs_ns (s : State) (l : List Irq) : (s.pushIrqs l).ns = s.ns := rfl
@[simp] theorem pushIrqs_s (s : State) (l : List Irq) : (s.pushIrqs l).s = s.s := rfl
@[simp] theorem pushIrqs_statusr (s : State) (l : List Irq) : (s.pushIrqs l).statusr = s.statusr := rfl
@[simp] theorem pushIrqs_priqBase (s : State) (l : List Irq) : (s.pushIrqs l).priqBase = s.priqBase := rfl
@[simp] theorem pushIrqs_priqProd (s : State) (l : List Irq) : (s.pushIrqs l).priqProd = s.priqProd := rfl
@[simp] theorem pushIrqs_priqCons (s : State) (l : List Irq) : (s.pushIrqs l).priqCons = s.priqCons := rfl
@[simp] theorem pushIrqs_priqCfg (s : State) (l : List Irq) : (s.pushIrqs l).priqCfg = s.priqCfg := rfl
@[simp] theorem pushIrqs_vatosSel (s : State) (l : List Irq) : (s.pushIrqs l).vatosSel = s.vatosSel := rfl
@[simp] theorem pushIrqs_vatos (s : State) (l : List Irq) : (s.pushIrqs l).vatos = s.vatos := rfl
@[simp] theorem pushIrqs_sInit (s : State) (l : List Irq) : (s.pushIrqs l).sInit = s.sInit := rfl
@[simp] theorem pushIrqs_cfgCache (s : State) (l : List Irq) : (s.pushIrqs l).cfgCache = s.cfgCache := rfl
@[simp] theorem pushIrqs_tlb (s : State) (l : List Irq) : (s.pushIrqs l).tlb = s.tlb := rfl
@[simp] theorem pushIrqs_inFlight (s : State) (l : List Irq) : (s.pushIrqs l).inFlight = s.inFlight := rfl
@[simp] theorem pushIrqs_stalled (s : State) (l : List Irq) : (s.pushIrqs l).stalled = s.stalled := rfl
@[simp] theorem pushIrqs_stags (s : State) (l : List Irq) : (s.pushIrqs l).stags = s.stags := rfl
@[simp] theorem pushIrqs_pendingInval (s : State) (l : List Irq) : (s.pushIrqs l).pendingInval = s.pendingInval := rfl
@[simp] theorem pushIrqs_atcNs (s : State) (l : List Irq) : (s.pushIrqs l).atcNs = s.atcNs := rfl
@[simp] theorem pushIrqs_atcS (s : State) (l : List Irq) : (s.pushIrqs l).atcS = s.atcS := rfl
@[simp] theorem pushIrqs_atcNsLate (s : State) (l : List Irq) : (s.pushIrqs l).atcNsLate = s.atcNsLate := rfl
@[simp] theorem pushIrqs_atcSLate (s : State) (l : List Irq) : (s.pushIrqs l).atcSLate = s.atcSLate := rfl
@[simp] theorem pushIrqs_eventsNs (s : State) (l : List Irq) : (s.pushIrqs l).eventsNs = s.eventsNs := rfl
@[simp] theorem pushIrqs_eventsS (s : State) (l : List Irq) : (s.pushIrqs l).eventsS = s.eventsS := rfl
@[simp] theorem pushIrqs_pendingPri (s : State) (l : List Irq) : (s.pushIrqs l).pendingPri = s.pendingPri := rfl
@[simp] theorem pushIrqs_gatosOp (s : State) (l : List Irq) : (s.pushIrqs l).gatosOp = s.gatosOp := rfl
@[simp] theorem pushIrqs_sGatosOp (s : State) (l : List Irq) : (s.pushIrqs l).sGatosOp = s.sGatosOp := rfl
@[simp] theorem pushIrqs_vatosOp (s : State) (l : List Irq) : (s.pushIrqs l).vatosOp = s.vatosOp := rfl
@[simp] theorem pushIrqs_prefetches (s : State) (l : List Irq) : (s.pushIrqs l).prefetches = s.prefetches := rfl
@[simp] theorem pushIrqs_steLog (s : State) (l : List Irq) : (s.pushIrqs l).steLog = s.steLog := rfl
@[simp] theorem pushIrqs_cmdCache (s : State) (l : List Irq) : (s.pushIrqs l).cmdCache = s.cmdCache := rfl
@[simp] theorem pushIrqs_cmdqNsWedged (s : State) (l : List Irq) : (s.pushIrqs l).cmdqNsWedged = s.cmdqNsWedged := rfl
@[simp] theorem pushIrqs_cmdqSWedged (s : State) (l : List Irq) : (s.pushIrqs l).cmdqSWedged = s.cmdqSWedged := rfl
@[simp] theorem pushIrqs_unknown (s : State) (l : List Irq) : (s.pushIrqs l).unknown = s.unknown := rfl
@[simp] theorem pushIrqs_e2hWritten (s : State) (l : List Irq) : (s.pushIrqs l).e2hWritten = s.e2hWritten := rfl
@[simp] theorem pushIrqs_sfm (s : State) (l : List Irq) : (s.pushIrqs l).sfm = s.sfm := rfl
@[simp] theorem pushIrqs_off (s : State) (l : List Irq) : (s.pushIrqs l).off = s.off := rfl
@[simp] theorem pushIrqs_mem (s : State) (l : List Irq) : (s.pushIrqs l).mem = s.mem := rfl
@[simp] theorem pushIrqs_internal (s : State) (l : List Irq) : (s.pushIrqs l).internal = s.internal := rfl
@[simp] theorem pushIrqs_meanwhile (s : State) (l : List Irq) : (s.pushIrqs l).meanwhile = s.meanwhile := rfl
@[simp] theorem pushIrqs_fetchOrder (s : State) (l : List Irq) : (s.pushIrqs l).fetchOrder = s.fetchOrder := rfl
@[simp] theorem pushIrqs_pmcgs (s : State) (l : List Irq) : (s.pushIrqs l).pmcgs = s.pmcgs := rfl
@[simp] theorem pushIrqs_pmcgPast (s : State) (l : List Irq) : (s.pushIrqs l).pmcgPast = s.pmcgPast := rfl
@[simp] theorem pushIrqs_ras (s : State) (l : List Irq) : (s.pushIrqs l).ras = s.ras := rfl
@[simp] theorem pushIrqs_agenda (s : State) (l : List Irq) : (s.pushIrqs l).agenda = s.agenda := rfl
@[simp] theorem pushIrqs_out (s : State) (l : List Irq) : (s.pushIrqs l).out = s.out := rfl
@[simp] theorem pushIrqs_draw (s : State) (l : List Irq) : (s.pushIrqs l).draw = s.draw := rfl
@[simp] theorem pushIrqs_trail (s : State) (l : List Irq) : (s.pushIrqs l).trail = s.trail := rfl
@[simp] theorem pushIrqs_turn (s : State) (l : List Irq) : (s.pushIrqs l).turn = s.turn := rfl
@[simp] theorem pushIrqs_curQ (s : State) (l : List Irq) : (s.pushIrqs l).curQ = s.curQ := rfl

/-! ### store -/

@[simp] theorem store_impl (s : State) (sw ns : Bool) (pa : Nat) (bs : List Byte) : (s.store sw ns pa bs).impl = s.impl := rfl
@[simp] theorem store_ids (s : State) (sw ns : Bool) (pa : Nat) (bs : List Byte) : (s.store sw ns pa bs).ids = s.ids := rfl
@[simp] theorem store_ns (s : State) (sw ns : Bool) (pa : Nat) (bs : List Byte) : (s.store sw ns pa bs).ns = s.ns := rfl
@[simp] theorem store_s (s : State) (sw ns : Bool) (pa : Nat) (bs : List Byte) : (s.store sw ns pa bs).s = s.s := rfl
@[simp] theorem store_statusr (s : State) (sw ns : Bool) (pa : Nat) (bs : List Byte) : (s.store sw ns pa bs).statusr = s.statusr := rfl
@[simp] theorem store_priqBase (s : State) (sw ns : Bool) (pa : Nat) (bs : List Byte) : (s.store sw ns pa bs).priqBase = s.priqBase := rfl
@[simp] theorem store_priqProd (s : State) (sw ns : Bool) (pa : Nat) (bs : List Byte) : (s.store sw ns pa bs).priqProd = s.priqProd := rfl
@[simp] theorem store_priqCons (s : State) (sw ns : Bool) (pa : Nat) (bs : List Byte) : (s.store sw ns pa bs).priqCons = s.priqCons := rfl
@[simp] theorem store_priqCfg (s : State) (sw ns : Bool) (pa : Nat) (bs : List Byte) : (s.store sw ns pa bs).priqCfg = s.priqCfg := rfl
@[simp] theorem store_vatosSel (s : State) (sw ns : Bool) (pa : Nat) (bs : List Byte) : (s.store sw ns pa bs).vatosSel = s.vatosSel := rfl
@[simp] theorem store_vatos (s : State) (sw ns : Bool) (pa : Nat) (bs : List Byte) : (s.store sw ns pa bs).vatos = s.vatos := rfl
@[simp] theorem store_sInit (s : State) (sw ns : Bool) (pa : Nat) (bs : List Byte) : (s.store sw ns pa bs).sInit = s.sInit := rfl
@[simp] theorem store_cfgCache (s : State) (sw ns : Bool) (pa : Nat) (bs : List Byte) : (s.store sw ns pa bs).cfgCache = s.cfgCache := rfl
@[simp] theorem store_tlb (s : State) (sw ns : Bool) (pa : Nat) (bs : List Byte) : (s.store sw ns pa bs).tlb = s.tlb := rfl
@[simp] theorem store_inFlight (s : State) (sw ns : Bool) (pa : Nat) (bs : List Byte) : (s.store sw ns pa bs).inFlight = s.inFlight := rfl
@[simp] theorem store_stalled (s : State) (sw ns : Bool) (pa : Nat) (bs : List Byte) : (s.store sw ns pa bs).stalled = s.stalled := rfl
@[simp] theorem store_stags (s : State) (sw ns : Bool) (pa : Nat) (bs : List Byte) : (s.store sw ns pa bs).stags = s.stags := rfl
@[simp] theorem store_pendingInval (s : State) (sw ns : Bool) (pa : Nat) (bs : List Byte) : (s.store sw ns pa bs).pendingInval = s.pendingInval := rfl
@[simp] theorem store_atcNs (s : State) (sw ns : Bool) (pa : Nat) (bs : List Byte) : (s.store sw ns pa bs).atcNs = s.atcNs := rfl
@[simp] theorem store_atcS (s : State) (sw ns : Bool) (pa : Nat) (bs : List Byte) : (s.store sw ns pa bs).atcS = s.atcS := rfl
@[simp] theorem store_atcNsLate (s : State) (sw ns : Bool) (pa : Nat) (bs : List Byte) : (s.store sw ns pa bs).atcNsLate = s.atcNsLate := rfl
@[simp] theorem store_atcSLate (s : State) (sw ns : Bool) (pa : Nat) (bs : List Byte) : (s.store sw ns pa bs).atcSLate = s.atcSLate := rfl
@[simp] theorem store_eventsNs (s : State) (sw ns : Bool) (pa : Nat) (bs : List Byte) : (s.store sw ns pa bs).eventsNs = s.eventsNs := rfl
@[simp] theorem store_eventsS (s : State) (sw ns : Bool) (pa : Nat) (bs : List Byte) : (s.store sw ns pa bs).eventsS = s.eventsS := rfl
@[simp] theorem store_pendingPri (s : State) (sw ns : Bool) (pa : Nat) (bs : List Byte) : (s.store sw ns pa bs).pendingPri = s.pendingPri := rfl
@[simp] theorem store_irqs (s : State) (sw ns : Bool) (pa : Nat) (bs : List Byte) : (s.store sw ns pa bs).irqs = s.irqs := rfl
@[simp] theorem store_gatosOp (s : State) (sw ns : Bool) (pa : Nat) (bs : List Byte) : (s.store sw ns pa bs).gatosOp = s.gatosOp := rfl
@[simp] theorem store_sGatosOp (s : State) (sw ns : Bool) (pa : Nat) (bs : List Byte) : (s.store sw ns pa bs).sGatosOp = s.sGatosOp := rfl
@[simp] theorem store_vatosOp (s : State) (sw ns : Bool) (pa : Nat) (bs : List Byte) : (s.store sw ns pa bs).vatosOp = s.vatosOp := rfl
@[simp] theorem store_prefetches (s : State) (sw ns : Bool) (pa : Nat) (bs : List Byte) : (s.store sw ns pa bs).prefetches = s.prefetches := rfl
@[simp] theorem store_steLog (s : State) (sw ns : Bool) (pa : Nat) (bs : List Byte) : (s.store sw ns pa bs).steLog = s.steLog := rfl
@[simp] theorem store_cmdCache (s : State) (sw ns : Bool) (pa : Nat) (bs : List Byte) : (s.store sw ns pa bs).cmdCache = s.cmdCache := rfl
@[simp] theorem store_cmdqNsWedged (s : State) (sw ns : Bool) (pa : Nat) (bs : List Byte) : (s.store sw ns pa bs).cmdqNsWedged = s.cmdqNsWedged := rfl
@[simp] theorem store_cmdqSWedged (s : State) (sw ns : Bool) (pa : Nat) (bs : List Byte) : (s.store sw ns pa bs).cmdqSWedged = s.cmdqSWedged := rfl
@[simp] theorem store_unknown (s : State) (sw ns : Bool) (pa : Nat) (bs : List Byte) : (s.store sw ns pa bs).unknown = s.unknown := rfl
@[simp] theorem store_e2hWritten (s : State) (sw ns : Bool) (pa : Nat) (bs : List Byte) : (s.store sw ns pa bs).e2hWritten = s.e2hWritten := rfl
@[simp] theorem store_sfm (s : State) (sw ns : Bool) (pa : Nat) (bs : List Byte) : (s.store sw ns pa bs).sfm = s.sfm := rfl
@[simp] theorem store_off (s : State) (sw ns : Bool) (pa : Nat) (bs : List Byte) : (s.store sw ns pa bs).off = s.off := rfl
@[simp] theorem store_meanwhile (s : State) (sw ns : Bool) (pa : Nat) (bs : List Byte) : (s.store sw ns pa bs).meanwhile = s.meanwhile := rfl
@[simp] theorem store_fetchOrder (s : State) (sw ns : Bool) (pa : Nat) (bs : List Byte) : (s.store sw ns pa bs).fetchOrder = s.fetchOrder := rfl
@[simp] theorem store_pmcgs (s : State) (sw ns : Bool) (pa : Nat) (bs : List Byte) : (s.store sw ns pa bs).pmcgs = s.pmcgs := rfl
@[simp] theorem store_pmcgPast (s : State) (sw ns : Bool) (pa : Nat) (bs : List Byte) : (s.store sw ns pa bs).pmcgPast = s.pmcgPast := rfl
@[simp] theorem store_ras (s : State) (sw ns : Bool) (pa : Nat) (bs : List Byte) : (s.store sw ns pa bs).ras = s.ras := rfl
@[simp] theorem store_agenda (s : State) (sw ns : Bool) (pa : Nat) (bs : List Byte) : (s.store sw ns pa bs).agenda = s.agenda := rfl
@[simp] theorem store_out (s : State) (sw ns : Bool) (pa : Nat) (bs : List Byte) : (s.store sw ns pa bs).out = s.out := rfl
@[simp] theorem store_draw (s : State) (sw ns : Bool) (pa : Nat) (bs : List Byte) : (s.store sw ns pa bs).draw = s.draw := rfl
@[simp] theorem store_trail (s : State) (sw ns : Bool) (pa : Nat) (bs : List Byte) : (s.store sw ns pa bs).trail = s.trail := rfl
@[simp] theorem store_turn (s : State) (sw ns : Bool) (pa : Nat) (bs : List Byte) : (s.store sw ns pa bs).turn = s.turn := rfl
@[simp] theorem store_curQ (s : State) (sw ns : Bool) (pa : Nat) (bs : List Byte) : (s.store sw ns pa bs).curQ = s.curQ := rfl

@[simp] theorem agentStore_impl (s : State) (ns : Bool) (pa : Nat) (bs : List Byte) : (s.agentStore ns pa bs).impl = s.impl := rfl
@[simp] theorem agentStore_ids (s : State) (ns : Bool) (pa : Nat) (bs : List Byte) : (s.agentStore ns pa bs).ids = s.ids := rfl
@[simp] theorem agentStore_ns (s : State) (ns : Bool) (pa : Nat) (bs : List Byte) : (s.agentStore ns pa bs).ns = s.ns := rfl
@[simp] theorem agentStore_s (s : State) (ns : Bool) (pa : Nat) (bs : List Byte) : (s.agentStore ns pa bs).s = s.s := rfl
@[simp] theorem agentStore_statusr (s : State) (ns : Bool) (pa : Nat) (bs : List Byte) : (s.agentStore ns pa bs).statusr = s.statusr := rfl
@[simp] theorem agentStore_priqBase (s : State) (ns : Bool) (pa : Nat) (bs : List Byte) : (s.agentStore ns pa bs).priqBase = s.priqBase := rfl
@[simp] theorem agentStore_priqProd (s : State) (ns : Bool) (pa : Nat) (bs : List Byte) : (s.agentStore ns pa bs).priqProd = s.priqProd := rfl
@[simp] theorem agentStore_priqCons (s : State) (ns : Bool) (pa : Nat) (bs : List Byte) : (s.agentStore ns pa bs).priqCons = s.priqCons := rfl
@[simp] theorem agentStore_priqCfg (s : State) (ns : Bool) (pa : Nat) (bs : List Byte) : (s.agentStore ns pa bs).priqCfg = s.priqCfg := rfl
@[simp] theorem agentStore_vatosSel (s : State) (ns : Bool) (pa : Nat) (bs : List Byte) : (s.agentStore ns pa bs).vatosSel = s.vatosSel := rfl
@[simp] theorem agentStore_vatos (s : State) (ns : Bool) (pa : Nat) (bs : List Byte) : (s.agentStore ns pa bs).vatos = s.vatos := rfl
@[simp] theorem agentStore_sInit (s : State) (ns : Bool) (pa : Nat) (bs : List Byte) : (s.agentStore ns pa bs).sInit = s.sInit := rfl
@[simp] theorem agentStore_cfgCache (s : State) (ns : Bool) (pa : Nat) (bs : List Byte) : (s.agentStore ns pa bs).cfgCache = s.cfgCache := rfl
@[simp] theorem agentStore_tlb (s : State) (ns : Bool) (pa : Nat) (bs : List Byte) : (s.agentStore ns pa bs).tlb = s.tlb := rfl
@[simp] theorem agentStore_inFlight (s : State) (ns : Bool) (pa : Nat) (bs : List Byte) : (s.agentStore ns pa bs).inFlight = s.inFlight := rfl
@[simp] theorem agentStore_stalled (s : State) (ns : Bool) (pa : Nat) (bs : List Byte) : (s.agentStore ns pa bs).stalled = s.stalled := rfl
@[simp] theorem agentStore_stags (s : State) (ns : Bool) (pa : Nat) (bs : List Byte) : (s.agentStore ns pa bs).stags = s.stags := rfl
@[simp] theorem agentStore_pendingInval (s : State) (ns : Bool) (pa : Nat) (bs : List Byte) : (s.agentStore ns pa bs).pendingInval = s.pendingInval := rfl
@[simp] theorem agentStore_atcNs (s : State) (ns : Bool) (pa : Nat) (bs : List Byte) : (s.agentStore ns pa bs).atcNs = s.atcNs := rfl
@[simp] theorem agentStore_atcS (s : State) (ns : Bool) (pa : Nat) (bs : List Byte) : (s.agentStore ns pa bs).atcS = s.atcS := rfl
@[simp] theorem agentStore_atcNsLate (s : State) (ns : Bool) (pa : Nat) (bs : List Byte) : (s.agentStore ns pa bs).atcNsLate = s.atcNsLate := rfl
@[simp] theorem agentStore_atcSLate (s : State) (ns : Bool) (pa : Nat) (bs : List Byte) : (s.agentStore ns pa bs).atcSLate = s.atcSLate := rfl
@[simp] theorem agentStore_eventsNs (s : State) (ns : Bool) (pa : Nat) (bs : List Byte) : (s.agentStore ns pa bs).eventsNs = s.eventsNs := rfl
@[simp] theorem agentStore_eventsS (s : State) (ns : Bool) (pa : Nat) (bs : List Byte) : (s.agentStore ns pa bs).eventsS = s.eventsS := rfl
@[simp] theorem agentStore_pendingPri (s : State) (ns : Bool) (pa : Nat) (bs : List Byte) : (s.agentStore ns pa bs).pendingPri = s.pendingPri := rfl
@[simp] theorem agentStore_irqs (s : State) (ns : Bool) (pa : Nat) (bs : List Byte) : (s.agentStore ns pa bs).irqs = s.irqs := rfl
@[simp] theorem agentStore_gatosOp (s : State) (ns : Bool) (pa : Nat) (bs : List Byte) : (s.agentStore ns pa bs).gatosOp = s.gatosOp := rfl
@[simp] theorem agentStore_sGatosOp (s : State) (ns : Bool) (pa : Nat) (bs : List Byte) : (s.agentStore ns pa bs).sGatosOp = s.sGatosOp := rfl
@[simp] theorem agentStore_vatosOp (s : State) (ns : Bool) (pa : Nat) (bs : List Byte) : (s.agentStore ns pa bs).vatosOp = s.vatosOp := rfl
@[simp] theorem agentStore_prefetches (s : State) (ns : Bool) (pa : Nat) (bs : List Byte) : (s.agentStore ns pa bs).prefetches = s.prefetches := rfl
@[simp] theorem agentStore_cmdCache (s : State) (ns : Bool) (pa : Nat) (bs : List Byte) : (s.agentStore ns pa bs).cmdCache = s.cmdCache := rfl
@[simp] theorem agentStore_cmdqNsWedged (s : State) (ns : Bool) (pa : Nat) (bs : List Byte) : (s.agentStore ns pa bs).cmdqNsWedged = s.cmdqNsWedged := rfl
@[simp] theorem agentStore_cmdqSWedged (s : State) (ns : Bool) (pa : Nat) (bs : List Byte) : (s.agentStore ns pa bs).cmdqSWedged = s.cmdqSWedged := rfl
@[simp] theorem agentStore_unknown (s : State) (ns : Bool) (pa : Nat) (bs : List Byte) : (s.agentStore ns pa bs).unknown = s.unknown := rfl
@[simp] theorem agentStore_e2hWritten (s : State) (ns : Bool) (pa : Nat) (bs : List Byte) : (s.agentStore ns pa bs).e2hWritten = s.e2hWritten := rfl
@[simp] theorem agentStore_sfm (s : State) (ns : Bool) (pa : Nat) (bs : List Byte) : (s.agentStore ns pa bs).sfm = s.sfm := rfl
@[simp] theorem agentStore_off (s : State) (ns : Bool) (pa : Nat) (bs : List Byte) : (s.agentStore ns pa bs).off = s.off := rfl
@[simp] theorem agentStore_meanwhile (s : State) (ns : Bool) (pa : Nat) (bs : List Byte) : (s.agentStore ns pa bs).meanwhile = s.meanwhile := rfl
@[simp] theorem agentStore_fetchOrder (s : State) (ns : Bool) (pa : Nat) (bs : List Byte) : (s.agentStore ns pa bs).fetchOrder = s.fetchOrder := rfl
@[simp] theorem agentStore_pmcgs (s : State) (ns : Bool) (pa : Nat) (bs : List Byte) : (s.agentStore ns pa bs).pmcgs = s.pmcgs := rfl
@[simp] theorem agentStore_pmcgPast (s : State) (ns : Bool) (pa : Nat) (bs : List Byte) : (s.agentStore ns pa bs).pmcgPast = s.pmcgPast := rfl
@[simp] theorem agentStore_ras (s : State) (ns : Bool) (pa : Nat) (bs : List Byte) : (s.agentStore ns pa bs).ras = s.ras := rfl
@[simp] theorem agentStore_agenda (s : State) (ns : Bool) (pa : Nat) (bs : List Byte) : (s.agentStore ns pa bs).agenda = s.agenda := rfl
@[simp] theorem agentStore_out (s : State) (ns : Bool) (pa : Nat) (bs : List Byte) : (s.agentStore ns pa bs).out = s.out := rfl
@[simp] theorem agentStore_draw (s : State) (ns : Bool) (pa : Nat) (bs : List Byte) : (s.agentStore ns pa bs).draw = s.draw := rfl
@[simp] theorem agentStore_trail (s : State) (ns : Bool) (pa : Nat) (bs : List Byte) : (s.agentStore ns pa bs).trail = s.trail := rfl
@[simp] theorem agentStore_turn (s : State) (ns : Bool) (pa : Nat) (bs : List Byte) : (s.agentStore ns pa bs).turn = s.turn := rfl
@[simp] theorem agentStore_curQ (s : State) (ns : Bool) (pa : Nat) (bs : List Byte) : (s.agentStore ns pa bs).curQ = s.curQ := rfl

@[simp] theorem moveStrtab_impl (s : State) (q : Sec) : (s.moveStrtab q).impl = s.impl := rfl
@[simp] theorem moveStrtab_ids (s : State) (q : Sec) : (s.moveStrtab q).ids = s.ids := rfl
@[simp] theorem moveStrtab_ns (s : State) (q : Sec) : (s.moveStrtab q).ns = s.ns := rfl
@[simp] theorem moveStrtab_s (s : State) (q : Sec) : (s.moveStrtab q).s = s.s := rfl
@[simp] theorem moveStrtab_statusr (s : State) (q : Sec) : (s.moveStrtab q).statusr = s.statusr := rfl
@[simp] theorem moveStrtab_priqBase (s : State) (q : Sec) : (s.moveStrtab q).priqBase = s.priqBase := rfl
@[simp] theorem moveStrtab_priqProd (s : State) (q : Sec) : (s.moveStrtab q).priqProd = s.priqProd := rfl
@[simp] theorem moveStrtab_priqCons (s : State) (q : Sec) : (s.moveStrtab q).priqCons = s.priqCons := rfl
@[simp] theorem moveStrtab_priqCfg (s : State) (q : Sec) : (s.moveStrtab q).priqCfg = s.priqCfg := rfl
@[simp] theorem moveStrtab_vatosSel (s : State) (q : Sec) : (s.moveStrtab q).vatosSel = s.vatosSel := rfl
@[simp] theorem moveStrtab_vatos (s : State) (q : Sec) : (s.moveStrtab q).vatos = s.vatos := rfl
@[simp] theorem moveStrtab_sInit (s : State) (q : Sec) : (s.moveStrtab q).sInit = s.sInit := rfl
@[simp] theorem moveStrtab_cfgCache (s : State) (q : Sec) : (s.moveStrtab q).cfgCache = s.cfgCache := rfl
@[simp] theorem moveStrtab_tlb (s : State) (q : Sec) : (s.moveStrtab q).tlb = s.tlb := rfl
@[simp] theorem moveStrtab_inFlight (s : State) (q : Sec) : (s.moveStrtab q).inFlight = s.inFlight := rfl
@[simp] theorem moveStrtab_stalled (s : State) (q : Sec) : (s.moveStrtab q).stalled = s.stalled := rfl
@[simp] theorem moveStrtab_stags (s : State) (q : Sec) : (s.moveStrtab q).stags = s.stags := rfl
@[simp] theorem moveStrtab_pendingInval (s : State) (q : Sec) : (s.moveStrtab q).pendingInval = s.pendingInval := rfl
@[simp] theorem moveStrtab_atcNs (s : State) (q : Sec) : (s.moveStrtab q).atcNs = s.atcNs := rfl
@[simp] theorem moveStrtab_atcS (s : State) (q : Sec) : (s.moveStrtab q).atcS = s.atcS := rfl
@[simp] theorem moveStrtab_atcNsLate (s : State) (q : Sec) : (s.moveStrtab q).atcNsLate = s.atcNsLate := rfl
@[simp] theorem moveStrtab_atcSLate (s : State) (q : Sec) : (s.moveStrtab q).atcSLate = s.atcSLate := rfl
@[simp] theorem moveStrtab_eventsNs (s : State) (q : Sec) : (s.moveStrtab q).eventsNs = s.eventsNs := rfl
@[simp] theorem moveStrtab_eventsS (s : State) (q : Sec) : (s.moveStrtab q).eventsS = s.eventsS := rfl
@[simp] theorem moveStrtab_pendingPri (s : State) (q : Sec) : (s.moveStrtab q).pendingPri = s.pendingPri := rfl
@[simp] theorem moveStrtab_irqs (s : State) (q : Sec) : (s.moveStrtab q).irqs = s.irqs := rfl
@[simp] theorem moveStrtab_gatosOp (s : State) (q : Sec) : (s.moveStrtab q).gatosOp = s.gatosOp := rfl
@[simp] theorem moveStrtab_sGatosOp (s : State) (q : Sec) : (s.moveStrtab q).sGatosOp = s.sGatosOp := rfl
@[simp] theorem moveStrtab_vatosOp (s : State) (q : Sec) : (s.moveStrtab q).vatosOp = s.vatosOp := rfl
@[simp] theorem moveStrtab_prefetches (s : State) (q : Sec) : (s.moveStrtab q).prefetches = s.prefetches := rfl
@[simp] theorem moveStrtab_cmdCache (s : State) (q : Sec) : (s.moveStrtab q).cmdCache = s.cmdCache := rfl
@[simp] theorem moveStrtab_cmdqNsWedged (s : State) (q : Sec) : (s.moveStrtab q).cmdqNsWedged = s.cmdqNsWedged := rfl
@[simp] theorem moveStrtab_cmdqSWedged (s : State) (q : Sec) : (s.moveStrtab q).cmdqSWedged = s.cmdqSWedged := rfl
@[simp] theorem moveStrtab_unknown (s : State) (q : Sec) : (s.moveStrtab q).unknown = s.unknown := rfl
@[simp] theorem moveStrtab_e2hWritten (s : State) (q : Sec) : (s.moveStrtab q).e2hWritten = s.e2hWritten := rfl
@[simp] theorem moveStrtab_sfm (s : State) (q : Sec) : (s.moveStrtab q).sfm = s.sfm := rfl
@[simp] theorem moveStrtab_off (s : State) (q : Sec) : (s.moveStrtab q).off = s.off := rfl
@[simp] theorem moveStrtab_meanwhile (s : State) (q : Sec) : (s.moveStrtab q).meanwhile = s.meanwhile := rfl
@[simp] theorem moveStrtab_fetchOrder (s : State) (q : Sec) : (s.moveStrtab q).fetchOrder = s.fetchOrder := rfl
@[simp] theorem moveStrtab_pmcgs (s : State) (q : Sec) : (s.moveStrtab q).pmcgs = s.pmcgs := rfl
@[simp] theorem moveStrtab_pmcgPast (s : State) (q : Sec) : (s.moveStrtab q).pmcgPast = s.pmcgPast := rfl
@[simp] theorem moveStrtab_ras (s : State) (q : Sec) : (s.moveStrtab q).ras = s.ras := rfl
@[simp] theorem moveStrtab_agenda (s : State) (q : Sec) : (s.moveStrtab q).agenda = s.agenda := rfl
@[simp] theorem moveStrtab_out (s : State) (q : Sec) : (s.moveStrtab q).out = s.out := rfl
@[simp] theorem moveStrtab_draw (s : State) (q : Sec) : (s.moveStrtab q).draw = s.draw := rfl
@[simp] theorem moveStrtab_trail (s : State) (q : Sec) : (s.moveStrtab q).trail = s.trail := rfl
@[simp] theorem moveStrtab_turn (s : State) (q : Sec) : (s.moveStrtab q).turn = s.turn := rfl
@[simp] theorem moveStrtab_curQ (s : State) (q : Sec) : (s.moveStrtab q).curQ = s.curQ := rfl
@[simp] theorem moveStrtab_mem (s : State) (q : Sec) : (s.moveStrtab q).mem = s.mem := rfl
@[simp] theorem moveStrtab_internal (s : State) (q : Sec) : (s.moveStrtab q).internal = s.internal := rfl

/-! ### setEvents -/

@[simp] theorem setEvents_impl (s : State) (q : Sec) (l : List PendEv) : (s.setEvents q l).impl = s.impl := by cases q <;> rfl
@[simp] theorem setEvents_ids (s : State) (q : Sec) (l : List PendEv) : (s.setEvents q l).ids = s.ids := by cases q <;> rfl
@[simp] theorem setEvents_ns (s : State) (q : Sec) (l : List PendEv) : (s.setEvents q l).ns = s.ns := by cases q <;> rfl
@[simp] theorem setEvents_s (s : State) (q : Sec) (l : List PendEv) : (s.setEvents q l).s = s.s := by cases q <;> rfl
@[simp] theorem setEvents_statusr (s : State) (q : Sec) (l : List PendEv) : (s.setEvents q l).statusr = s.statusr := by cases q <;> rfl
@[simp] theorem setEvents_priqBase (s : State) (q : Sec) (l : List PendEv) : (s.setEvents q l).priqBase = s.priqBase := by cases q <;> rfl
@[simp] theorem setEvents_priqProd (s : State) (q : Sec) (l : List PendEv) : (s.setEvents q l).priqProd = s.priqProd := by cases q <;> rfl
@[simp] theorem setEvents_priqCons (s : State) (q : Sec) (l : List PendEv) : (s.setEvents q l).priqCons = s.priqCons := by cases q <;> rfl
@[simp] theorem setEvents_priqCfg (s : State) (q : Sec) (l : List PendEv) : (s.setEvents q l).priqCfg = s.priqCfg := by cases q <;> rfl
@[simp] theorem setEvents_vatosSel (s : State) (q : Sec) (l : List PendEv) : (s.setEvents q l).vatosSel = s.vatosSel := by cases q <;> rfl
@[simp] theorem setEvents_vatos (s : State) (q : Sec) (l : List PendEv) : (s.setEvents q l).vatos = s.vatos := by cases q <;> rfl
@[simp] theorem setEvents_sInit (s : State) (q : Sec) (l : List PendEv) : (s.setEvents q l).sInit = s.sInit := by cases q <;> rfl
@[simp] theorem setEvents_cfgCache (s : State) (q : Sec) (l : List PendEv) : (s.setEvents q l).cfgCache = s.cfgCache := by cases q <;> rfl
@[simp] theorem setEvents_tlb (s : State) (q : Sec) (l : List PendEv) : (s.setEvents q l).tlb = s.tlb := by cases q <;> rfl
@[simp] theorem setEvents_inFlight (s : State) (q : Sec) (l : List PendEv) : (s.setEvents q l).inFlight = s.inFlight := by cases q <;> rfl
@[simp] theorem setEvents_stalled (s : State) (q : Sec) (l : List PendEv) : (s.setEvents q l).stalled = s.stalled := by cases q <;> rfl
@[simp] theorem setEvents_stags (s : State) (q : Sec) (l : List PendEv) : (s.setEvents q l).stags = s.stags := by cases q <;> rfl
@[simp] theorem setEvents_pendingInval (s : State) (q : Sec) (l : List PendEv) : (s.setEvents q l).pendingInval = s.pendingInval := by cases q <;> rfl
@[simp] theorem setEvents_atcNs (s : State) (q : Sec) (l : List PendEv) : (s.setEvents q l).atcNs = s.atcNs := by cases q <;> rfl
@[simp] theorem setEvents_atcS (s : State) (q : Sec) (l : List PendEv) : (s.setEvents q l).atcS = s.atcS := by cases q <;> rfl
@[simp] theorem setEvents_atcNsLate (s : State) (q : Sec) (l : List PendEv) : (s.setEvents q l).atcNsLate = s.atcNsLate := by cases q <;> rfl
@[simp] theorem setEvents_atcSLate (s : State) (q : Sec) (l : List PendEv) : (s.setEvents q l).atcSLate = s.atcSLate := by cases q <;> rfl
@[simp] theorem setEvents_pendingPri (s : State) (q : Sec) (l : List PendEv) : (s.setEvents q l).pendingPri = s.pendingPri := by cases q <;> rfl
@[simp] theorem setEvents_irqs (s : State) (q : Sec) (l : List PendEv) : (s.setEvents q l).irqs = s.irqs := by cases q <;> rfl
@[simp] theorem setEvents_gatosOp (s : State) (q : Sec) (l : List PendEv) : (s.setEvents q l).gatosOp = s.gatosOp := by cases q <;> rfl
@[simp] theorem setEvents_sGatosOp (s : State) (q : Sec) (l : List PendEv) : (s.setEvents q l).sGatosOp = s.sGatosOp := by cases q <;> rfl
@[simp] theorem setEvents_vatosOp (s : State) (q : Sec) (l : List PendEv) : (s.setEvents q l).vatosOp = s.vatosOp := by cases q <;> rfl
@[simp] theorem setEvents_prefetches (s : State) (q : Sec) (l : List PendEv) : (s.setEvents q l).prefetches = s.prefetches := by cases q <;> rfl
@[simp] theorem setEvents_steLog (s : State) (q : Sec) (l : List PendEv) : (s.setEvents q l).steLog = s.steLog := by cases q <;> rfl
@[simp] theorem setEvents_cmdCache (s : State) (q : Sec) (l : List PendEv) : (s.setEvents q l).cmdCache = s.cmdCache := by cases q <;> rfl
@[simp] theorem setEvents_cmdqNsWedged (s : State) (q : Sec) (l : List PendEv) : (s.setEvents q l).cmdqNsWedged = s.cmdqNsWedged := by cases q <;> rfl
@[simp] theorem setEvents_cmdqSWedged (s : State) (q : Sec) (l : List PendEv) : (s.setEvents q l).cmdqSWedged = s.cmdqSWedged := by cases q <;> rfl
@[simp] theorem setEvents_unknown (s : State) (q : Sec) (l : List PendEv) : (s.setEvents q l).unknown = s.unknown := by cases q <;> rfl
@[simp] theorem setEvents_e2hWritten (s : State) (q : Sec) (l : List PendEv) : (s.setEvents q l).e2hWritten = s.e2hWritten := by cases q <;> rfl
@[simp] theorem setEvents_sfm (s : State) (q : Sec) (l : List PendEv) : (s.setEvents q l).sfm = s.sfm := by cases q <;> rfl
@[simp] theorem setEvents_off (s : State) (q : Sec) (l : List PendEv) : (s.setEvents q l).off = s.off := by cases q <;> rfl
@[simp] theorem setEvents_mem (s : State) (q : Sec) (l : List PendEv) : (s.setEvents q l).mem = s.mem := by cases q <;> rfl
@[simp] theorem setEvents_internal (s : State) (q : Sec) (l : List PendEv) : (s.setEvents q l).internal = s.internal := by cases q <;> rfl
@[simp] theorem setEvents_meanwhile (s : State) (q : Sec) (l : List PendEv) : (s.setEvents q l).meanwhile = s.meanwhile := by cases q <;> rfl
@[simp] theorem setEvents_fetchOrder (s : State) (q : Sec) (l : List PendEv) : (s.setEvents q l).fetchOrder = s.fetchOrder := by cases q <;> rfl
@[simp] theorem setEvents_pmcgs (s : State) (q : Sec) (l : List PendEv) : (s.setEvents q l).pmcgs = s.pmcgs := by cases q <;> rfl
@[simp] theorem setEvents_pmcgPast (s : State) (q : Sec) (l : List PendEv) : (s.setEvents q l).pmcgPast = s.pmcgPast := by cases q <;> rfl
@[simp] theorem setEvents_ras (s : State) (q : Sec) (l : List PendEv) : (s.setEvents q l).ras = s.ras := by cases q <;> rfl
@[simp] theorem setEvents_agenda (s : State) (q : Sec) (l : List PendEv) : (s.setEvents q l).agenda = s.agenda := by cases q <;> rfl
@[simp] theorem setEvents_out (s : State) (q : Sec) (l : List PendEv) : (s.setEvents q l).out = s.out := by cases q <;> rfl
@[simp] theorem setEvents_draw (s : State) (q : Sec) (l : List PendEv) : (s.setEvents q l).draw = s.draw := by cases q <;> rfl
@[simp] theorem setEvents_trail (s : State) (q : Sec) (l : List PendEv) : (s.setEvents q l).trail = s.trail := by cases q <;> rfl
@[simp] theorem setEvents_turn (s : State) (q : Sec) (l : List PendEv) : (s.setEvents q l).turn = s.turn := by cases q <;> rfl
@[simp] theorem setEvents_curQ (s : State) (q : Sec) (l : List PendEv) : (s.setEvents q l).curQ = s.curQ := by cases q <;> rfl

/-! ### setAtc -/

@[simp] theorem setAtc_impl (s : State) (q : Sec) (l : List AtcReq) : (s.setAtc q l).impl = s.impl := by cases q <;> rfl
@[simp] theorem setAtc_ids (s : State) (q : Sec) (l : List AtcReq) : (s.setAtc q l).ids = s.ids := by cases q <;> rfl
@[simp] theorem setAtc_ns (s : State) (q : Sec) (l : List AtcReq) : (s.setAtc q l).ns = s.ns := by cases q <;> rfl
@[simp] theorem setAtc_s (s : State) (q : Sec) (l : List AtcReq) : (s.setAtc q l).s = s.s := by cases q <;> rfl
@[simp] theorem setAtc_statusr (s : State) (q : Sec) (l : List AtcReq) : (s.setAtc q l).statusr = s.statusr := by cases q <;> rfl
@[simp] theorem setAtc_priqBase (s : State) (q : Sec) (l : List AtcReq) : (s.setAtc q l).priqBase = s.priqBase := by cases q <;> rfl
@[simp] theorem setAtc_priqProd (s : State) (q : Sec) (l : List AtcReq) : (s.setAtc q l).priqProd = s.priqProd := by cases q <;> rfl
@[simp] theorem setAtc_priqCons (s : State) (q : Sec) (l : List AtcReq) : (s.setAtc q l).priqCons = s.priqCons := by cases q <;> rfl
@[simp] theorem setAtc_priqCfg (s : State) (q : Sec) (l : List AtcReq) : (s.setAtc q l).priqCfg = s.priqCfg := by cases q <;> rfl
@[simp] theorem setAtc_vatosSel (s : State) (q : Sec) (l : List AtcReq) : (s.setAtc q l).vatosSel = s.vatosSel := by cases q <;> rfl
@[simp] theorem setAtc_vatos (s : State) (q : Sec) (l : List AtcReq) : (s.setAtc q l).vatos = s.vatos := by cases q <;> rfl
@[simp] theorem setAtc_sInit (s : State) (q : Sec) (l : List AtcReq) : (s.setAtc q l).sInit = s.sInit := by cases q <;> rfl
@[simp] theorem setAtc_cfgCache (s : State) (q : Sec) (l : List AtcReq) : (s.setAtc q l).cfgCache = s.cfgCache := by cases q <;> rfl
@[simp] theorem setAtc_tlb (s : State) (q : Sec) (l : List AtcReq) : (s.setAtc q l).tlb = s.tlb := by cases q <;> rfl
@[simp] theorem setAtc_inFlight (s : State) (q : Sec) (l : List AtcReq) : (s.setAtc q l).inFlight = s.inFlight := by cases q <;> rfl
@[simp] theorem setAtc_stalled (s : State) (q : Sec) (l : List AtcReq) : (s.setAtc q l).stalled = s.stalled := by cases q <;> rfl
@[simp] theorem setAtc_stags (s : State) (q : Sec) (l : List AtcReq) : (s.setAtc q l).stags = s.stags := by cases q <;> rfl
@[simp] theorem setAtc_pendingInval (s : State) (q : Sec) (l : List AtcReq) : (s.setAtc q l).pendingInval = s.pendingInval := by cases q <;> rfl
@[simp] theorem setAtc_atcNsLate (s : State) (q : Sec) (l : List AtcReq) : (s.setAtc q l).atcNsLate = s.atcNsLate := by cases q <;> rfl
@[simp] theorem setAtc_atcSLate (s : State) (q : Sec) (l : List AtcReq) : (s.setAtc q l).atcSLate = s.atcSLate := by cases q <;> rfl
@[simp] theorem setAtc_eventsNs (s : State) (q : Sec) (l : List AtcReq) : (s.setAtc q l).eventsNs = s.eventsNs := by cases q <;> rfl
@[simp] theorem setAtc_eventsS (s : State) (q : Sec) (l : List AtcReq) : (s.setAtc q l).eventsS = s.eventsS := by cases q <;> rfl
@[simp] theorem setAtc_pendingPri (s : State) (q : Sec) (l : List AtcReq) : (s.setAtc q l).pendingPri = s.pendingPri := by cases q <;> rfl
@[simp] theorem setAtc_irqs (s : State) (q : Sec) (l : List AtcReq) : (s.setAtc q l).irqs = s.irqs := by cases q <;> rfl
@[simp] theorem setAtc_gatosOp (s : State) (q : Sec) (l : List AtcReq) : (s.setAtc q l).gatosOp = s.gatosOp := by cases q <;> rfl
@[simp] theorem setAtc_sGatosOp (s : State) (q : Sec) (l : List AtcReq) : (s.setAtc q l).sGatosOp = s.sGatosOp := by cases q <;> rfl
@[simp] theorem setAtc_vatosOp (s : State) (q : Sec) (l : List AtcReq) : (s.setAtc q l).vatosOp = s.vatosOp := by cases q <;> rfl
@[simp] theorem setAtc_prefetches (s : State) (q : Sec) (l : List AtcReq) : (s.setAtc q l).prefetches = s.prefetches := by cases q <;> rfl
@[simp] theorem setAtc_steLog (s : State) (q : Sec) (l : List AtcReq) : (s.setAtc q l).steLog = s.steLog := by cases q <;> rfl
@[simp] theorem setAtc_cmdCache (s : State) (q : Sec) (l : List AtcReq) : (s.setAtc q l).cmdCache = s.cmdCache := by cases q <;> rfl
@[simp] theorem setAtc_cmdqNsWedged (s : State) (q : Sec) (l : List AtcReq) : (s.setAtc q l).cmdqNsWedged = s.cmdqNsWedged := by cases q <;> rfl
@[simp] theorem setAtc_cmdqSWedged (s : State) (q : Sec) (l : List AtcReq) : (s.setAtc q l).cmdqSWedged = s.cmdqSWedged := by cases q <;> rfl
@[simp] theorem setAtc_unknown (s : State) (q : Sec) (l : List AtcReq) : (s.setAtc q l).unknown = s.unknown := by cases q <;> rfl
@[simp] theorem setAtc_e2hWritten (s : State) (q : Sec) (l : List AtcReq) : (s.setAtc q l).e2hWritten = s.e2hWritten := by cases q <;> rfl
@[simp] theorem setAtc_sfm (s : State) (q : Sec) (l : List AtcReq) : (s.setAtc q l).sfm = s.sfm := by cases q <;> rfl
@[simp] theorem setAtc_off (s : State) (q : Sec) (l : List AtcReq) : (s.setAtc q l).off = s.off := by cases q <;> rfl
@[simp] theorem setAtc_mem (s : State) (q : Sec) (l : List AtcReq) : (s.setAtc q l).mem = s.mem := by cases q <;> rfl
@[simp] theorem setAtc_internal (s : State) (q : Sec) (l : List AtcReq) : (s.setAtc q l).internal = s.internal := by cases q <;> rfl
@[simp] theorem setAtc_meanwhile (s : State) (q : Sec) (l : List AtcReq) : (s.setAtc q l).meanwhile = s.meanwhile := by cases q <;> rfl
@[simp] theorem setAtc_fetchOrder (s : State) (q : Sec) (l : List AtcReq) : (s.setAtc q l).fetchOrder = s.fetchOrder := by cases q <;> rfl
@[simp] theorem setAtc_pmcgs (s : State) (q : Sec) (l : List AtcReq) : (s.setAtc q l).pmcgs = s.pmcgs := by cases q <;> rfl
@[simp] theorem setAtc_pmcgPast (s : State) (q : Sec) (l : List AtcReq) : (s.setAtc q l).pmcgPast = s.pmcgPast := by cases q <;> rfl
@[simp] theorem setAtc_ras (s : State) (q : Sec) (l : List AtcReq) : (s.setAtc q l).ras = s.ras := by cases q <;> rfl
@[simp] theorem setAtc_agenda (s : State) (q : Sec) (l : List AtcReq) : (s.setAtc q l).agenda = s.agenda := by cases q <;> rfl
@[simp] theorem setAtc_out (s : State) (q : Sec) (l : List AtcReq) : (s.setAtc q l).out = s.out := by cases q <;> rfl
@[simp] theorem setAtc_draw (s : State) (q : Sec) (l : List AtcReq) : (s.setAtc q l).draw = s.draw := by cases q <;> rfl
@[simp] theorem setAtc_trail (s : State) (q : Sec) (l : List AtcReq) : (s.setAtc q l).trail = s.trail := by cases q <;> rfl
@[simp] theorem setAtc_turn (s : State) (q : Sec) (l : List AtcReq) : (s.setAtc q l).turn = s.turn := by cases q <;> rfl
@[simp] theorem setAtc_curQ (s : State) (q : Sec) (l : List AtcReq) : (s.setAtc q l).curQ = s.curQ := by cases q <;> rfl

@[simp] theorem emit_out (s : State) (o : Output) : (s.emit o).out = s.out ++ [o] := rfl
@[simp] theorem emit_iface (s : State) (o : Output) (q : Sec) : (s.emit o).iface q = s.iface q := by cases q <;> rfl
@[simp] theorem drawn_draw (s : State) : s.drawn.draw = s.draw + 1 := rfl
@[simp] theorem drawn_iface (s : State) (q : Sec) : s.drawn.iface q = s.iface q := by cases q <;> rfl
@[simp] theorem pend_pendingInval (s : State) (i : InvScope) (d : Option Nat) :
    (s.pend i d).pendingInval = s.pendingInval ++ [{ origin := some s.curQ, scope := i, subset := d, wait := none }] := rfl
@[simp] theorem pend_steLog (s : State) (i : InvScope) (d : Option Nat) :
    (s.pend i d).steLog = s.steLog ++ ({ origin := some s.curQ, scope := i, subset := d, wait := none } : Inval).logged := rfl
@[simp] theorem pend_iface (s : State) (i : InvScope) (d : Option Nat) (q : Sec) : (s.pend i d).iface q = s.iface q := by
  cases q <;> rfl
@[simp] theorem request_prefetches (s : State) (p : Prefetch) : (s.request p).prefetches = s.prefetches ++ [p] := rfl
@[simp] theorem request_iface (s : State) (p : Prefetch) (q : Sec) : (s.request p).iface q = s.iface q := by cases q <;> rfl
@[simp] theorem pushIrqs_irqs (s : State) (l : List Irq) : (s.pushIrqs l).irqs = s.irqs ++ l := rfl
@[simp] theorem pushIrqs_iface (s : State) (l : List Irq) (q : Sec) : (s.pushIrqs l).iface q = s.iface q := by cases q <;> rfl
@[simp] theorem store_mem (s : State) (sw ns : Bool) (pa : Nat) (bs : List Byte) :
    (s.store sw ns pa bs).mem = storeMem s.impl s.mem ns pa bs := rfl
@[simp] theorem store_internal (s : State) (sw ns : Bool) (pa : Nat) (bs : List Byte) :
    (s.store sw ns pa bs).internal = storeInternal s.impl sw s.internal ns pa bs := rfl
@[simp] theorem store_iface (s : State) (sw ns : Bool) (pa : Nat) (bs : List Byte) (q : Sec) :
    (s.store sw ns pa bs).iface q = s.iface q := by cases q <;> rfl
@[simp] theorem agentStore_mem (s : State) (ns : Bool) (pa : Nat) (bs : List Byte) :
    (s.agentStore ns pa bs).mem = storeMem s.impl s.mem ns pa bs := rfl
@[simp] theorem agentStore_internal (s : State) (ns : Bool) (pa : Nat) (bs : List Byte) :
    (s.agentStore ns pa bs).internal = storeInternal s.impl true s.internal ns pa bs := rfl
@[simp] theorem agentStore_steLog (s : State) (ns : Bool) (pa : Nat) (bs : List Byte) :
    (s.agentStore ns pa bs).steLog = s.steLog ++ [.wrote ns pa bs.length] := rfl
@[simp] theorem agentStore_iface (s : State) (ns : Bool) (pa : Nat) (bs : List Byte) (q : Sec) :
    (s.agentStore ns pa bs).iface q = s.iface q := by cases q <;> rfl
@[simp] theorem moveStrtab_steLog (s : State) (q : Sec) : (s.moveStrtab q).steLog = s.steLog ++ [.moved q] := rfl
@[simp] theorem moveStrtab_iface (s : State) (q p : Sec) : (s.moveStrtab q).iface p = s.iface p := by cases p <;> rfl
@[simp] theorem setEvents_iface (s : State) (q p : Sec) (l : List PendEv) : (s.setEvents q l).iface p = s.iface p := by
  cases q <;> cases p <;> rfl
@[simp] theorem events_setEvents (s : State) (q : Sec) (l : List PendEv) : (s.setEvents q l).events q = l := by cases q <;> rfl
theorem events_setEvents_ne (s : State) (q p : Sec) (l : List PendEv) (h : p ≠ q) : (s.setEvents q l).events p = s.events p := by
  cases q <;> cases p <;> first | rfl | exact absurd rfl h
@[simp] theorem setAtc_iface (s : State) (q p : Sec) (l : List AtcReq) : (s.setAtc q l).iface p = s.iface p := by
  cases q <;> cases p <;> rfl
@[simp] theorem atc_setAtc (s : State) (q : Sec) (l : List AtcReq) : (s.setAtc q l).atc q = l := by cases q <;> rfl
theorem atc_setAtc_ne (s : State) (q p : Sec) (l : List AtcReq) (h : p ≠ q) : (s.setAtc q l).atc p = s.atc p := by
  cases q <;> cases p <;> first | rfl | exact absurd rfl h

end Sys2Proof.Machine
end

