-- ==== Sys2Proof/Laws/Memory.lean ====
section
/-! SUPPORT. The laws of memory: the canonical form is kept by every write, a read after a write gives the value written, and
a write leaves every other byte alone. -/
namespace Sys2Proof.Machine

/-! ### The canonical form -/

/-- The keys of a memory in canonical form are above a bound. -/
def Memory.above (k : Nat) (m : List Host.Cell) : Prop := ∀ c ∈ m, k < c.1

theorem Memory.wf_cons (a : Nat) (b : Byte) (m : List Host.Cell) :
    Memory.wf ((a, b) :: m) = true ↔ b ≠ 0 ∧ Memory.above a m ∧ Memory.wf m = true := by
  induction m generalizing a b with
  | nil => simp [Memory.wf, Memory.above]
  | cons c m ih =>
    obtain ⟨a', b'⟩ := c
    rw [show Memory.wf ((a, b) :: (a', b') :: m) = (b != 0 && decide (a < a') && Memory.wf ((a', b') :: m)) from rfl]
    simp only [Bool.and_eq_true, bne_iff_ne, decide_eq_true_eq, ih, Memory.above, List.mem_cons, forall_eq_or_imp]
    constructor
    · rintro ⟨⟨hb, hlt⟩, hb', hab, hwf⟩
      exact ⟨hb, ⟨hlt, fun c hc => lt_trans hlt (hab c hc)⟩, hb', hab, hwf⟩
    · rintro ⟨hb, ⟨hlt, -⟩, hb', hab, hwf⟩
      exact ⟨⟨hb, hlt⟩, hb', hab, hwf⟩

theorem Memory.wf_nil : Memory.wf [] = true := rfl

theorem memSet_above {m : List Host.Cell} {k j : Nat} (v : Byte) (h : Memory.above j m) (hk : j < k) :
    Memory.above j (memSet m k v) := by
  induction m with
  | nil =>
    simp only [memSet]
    split <;> simp [Memory.above, hk]
  | cons c m ih =>
    obtain ⟨a, b⟩ := c
    have hm : Memory.above j m := fun c hc => h c (by simp [hc])
    have ha : j < a := h (a, b) (by simp)
    simp only [memSet]
    split
    · split <;> intro c hc <;> simp only [List.mem_cons] at hc
      · rcases hc with rfl | hc
        · exact ha
        · exact hm c hc
      · rcases hc with rfl | rfl | hc
        · exact hk
        · exact ha
        · exact hm c hc
    · split
      · split
        · exact hm
        · intro c hc
          simp only [List.mem_cons] at hc
          rcases hc with rfl | hc
          · exact hk
          · exact hm c hc
      · intro c hc
        simp only [List.mem_cons] at hc
        rcases hc with rfl | hc
        · exact ha
        · exact ih hm c hc

/-- Writing one byte keeps the canonical form. -/
theorem memSet_wf {m : List Host.Cell} (k : Nat) (v : Byte) (h : Memory.wf m = true) : Memory.wf (memSet m k v) = true := by
  induction m with
  | nil =>
    simp only [memSet]
    split
    · rfl
    · rename_i hv
      exact (Memory.wf_cons k v []).2 ⟨hv, by simp [Memory.above], rfl⟩
  | cons c m ih =>
    obtain ⟨a, b⟩ := c
    obtain ⟨hb, hab, hm⟩ := (Memory.wf_cons a b m).1 h
    simp only [memSet]
    split
    · rename_i hk
      split
      · exact h
      · rename_i hv
        refine (Memory.wf_cons k v _).2 ⟨hv, ?_, h⟩
        intro c hc
        simp only [List.mem_cons] at hc
        rcases hc with rfl | hc
        · exact hk
        · exact lt_trans hk (hab c hc)
    · rename_i hk
      split
      · rename_i hka
        split
        · exact hm
        · rename_i hv
          exact (Memory.wf_cons k v m).2 ⟨hv, hka ▸ hab, hm⟩
      · rename_i hka
        exact (Memory.wf_cons a b _).2 ⟨hb, memSet_above v hab (by omega), ih hm⟩

/-- Writing bytes keeps the canonical form, of memory and of the storage inside the SMMU. -/
theorem storeMem_wf (p : Impl) {m : List Host.Cell} (ns : Bool) (pa : Nat) (bs : List Byte) (h : Memory.wf m = true) :
    Memory.wf (storeMem p m ns pa bs) = true := by
  induction bs generalizing m pa with
  | nil => exact h
  | cons b bs ih =>
    refine ih (pa + 1) ?_
    split
    · exact memSet_wf _ b h
    · exact h

theorem storeInternal_wf (p : Impl) (sw : Bool) {m : List Host.Cell} (ns : Bool) (pa : Nat) (bs : List Byte)
    (h : Memory.wf m = true) : Memory.wf (storeInternal p sw m ns pa bs) = true := by
  induction bs generalizing m pa with
  | nil => exact h
  | cons b bs ih =>
    refine ih (pa + 1) ?_
    split
    · exact h
    · split
      · exact h
      · exact memSet_wf _ _ h

theorem store_wf (s : State) (sw ns : Bool) (pa : Nat) (bs : List Byte) (h : Memory.wf s.mem = true)
    (h' : Memory.wf s.internal = true) :
    Memory.wf (s.store sw ns pa bs).mem = true ∧ Memory.wf (s.store sw ns pa bs).internal = true :=
  ⟨storeMem_wf _ _ _ _ h, storeInternal_wf _ _ _ _ _ h'⟩

/-! ### Reading -/

theorem memGet_above {m : List Host.Cell} {k j : Nat} (h : Memory.above j m) (hk : k ≤ j) : memGet m k = 0 := by
  cases m with
  | nil => rfl
  | cons c m =>
    obtain ⟨a, b⟩ := c
    have ha : j < a := h (a, b) (by simp)
    simp only [memGet]
    rw [if_neg (by omega), if_pos (by omega)]

/-- A read after a write of the same byte. -/
theorem memGet_memSet_same {m : List Host.Cell} (k : Nat) (v : Byte) (h : Memory.wf m = true) : memGet (memSet m k v) k = v := by
  induction m with
  | nil => simp only [memSet]; split <;> simp_all [memGet]
  | cons c m ih =>
    obtain ⟨a, b⟩ := c
    obtain ⟨hb, hab, hm⟩ := (Memory.wf_cons a b m).1 h
    simp only [memSet]
    split
    · rename_i hk
      split
      · rename_i hv
        simp only [memGet]
        rw [if_neg (by omega), if_pos hk, hv]
      · simp [memGet]
    · rename_i hk
      split
      · rename_i hka
        subst hka
        split
        · rename_i hv
          rw [memGet_above hab le_rfl, hv]
        · simp [memGet]
      · rename_i hka
        simp only [memGet]
        rw [if_neg (by omega), if_neg (by omega)]
        exact ih hm

/-- A read after a write of another byte. -/
theorem memGet_memSet_ne {m : List Host.Cell} {k j : Nat} (v : Byte) (h : Memory.wf m = true) (hne : j ≠ k) :
    memGet (memSet m k v) j = memGet m j := by
  induction m with
  | nil =>
    simp only [memSet]
    split
    · rfl
    · simp only [memGet]
      rw [if_neg (by omega)]
      split <;> rfl
  | cons c m ih =>
    obtain ⟨a, b⟩ := c
    obtain ⟨hb, hab, hm⟩ := (Memory.wf_cons a b m).1 h
    simp only [memSet]
    split
    · rename_i hk
      split
      · rfl
      · rw [memGet, if_neg (by omega)]
        split
        · simp only [memGet]
          rw [if_neg (by omega), if_pos (by omega)]
        · rfl
    · split
      · rename_i hka
        subst hka
        split
        · rw [memGet, if_neg (by omega)]
          split
          · exact memGet_above hab (by omega)
          · rfl
        · rw [memGet, memGet, if_neg (Ne.symm hne), if_neg (Ne.symm hne)]
      · simp only [memGet]
        rw [ih hm]

theorem memGet_storeMem_ne (p : Impl) {m : List Host.Cell} (ns : Bool) (pa : Nat) (bs : List Byte) (k : Nat)
    (h : Memory.wf m = true) (hk : ∀ j, j < bs.length → k ≠ memKey ns (pa + j)) :
    memGet (storeMem p m ns pa bs) k = memGet m k := by
  induction bs generalizing m pa with
  | nil => rfl
  | cons b bs ih =>
    have h0 := hk 0 (by simp)
    have h1 : ∀ j, j < bs.length → k ≠ memKey ns (pa + 1 + j) := fun j hj => by
      have := hk (j + 1) (by simpa using hj)
      rwa [show pa + 1 + j = pa + (j + 1) by omega]
    rw [storeMem]
    split
    · rw [ih (pa + 1) (memSet_wf _ b h) h1, memGet_memSet_ne b h (by simpa using h0)]
    · exact ih (pa + 1) h h1

theorem memGet_storeInternal_ne (p : Impl) (sw : Bool) {m : List Host.Cell} (ns : Bool) (pa : Nat) (bs : List Byte) (k : Nat)
    (h : Memory.wf m = true) (hk : ∀ j, j < bs.length → k ≠ memKey ns (pa + j)) :
    memGet (storeInternal p sw m ns pa bs) k = memGet m k := by
  induction bs generalizing m pa with
  | nil => rfl
  | cons b bs ih =>
    have h0 := hk 0 (by simp)
    have h1 : ∀ j, j < bs.length → k ≠ memKey ns (pa + 1 + j) := fun j hj => by
      have := hk (j + 1) (by simpa using hj)
      rwa [show pa + 1 + j = pa + (j + 1) by omega]
    rw [storeInternal]
    split
    · exact ih (pa + 1) h h1
    · split
      · exact ih (pa + 1) h h1
      · rw [ih (pa + 1) (memSet_wf _ _ h) h1, memGet_memSet_ne _ h (by simpa using h0)]

theorem memKey_inj {ns : Bool} {a b : Nat} (h : memKey ns a = memKey ns b) : a % 2 ^ 52 = b % 2 ^ 52 := by
  unfold memKey at h
  omega

theorem memGet_storeMem_at (p : Impl) {m : List Host.Cell} (ns : Bool) (pa : Nat) (bs : List Byte) (i : Nat)
    (h : Memory.wf m = true) (hl : bs.length ≤ 2 ^ 52) (hi : i < bs.length) (hr : intRange p ns (pa + i) = none) :
    memGet (storeMem p m ns pa bs) (memKey ns (pa + i)) = bs[i] := by
  induction bs generalizing m pa i with
  | nil => simp at hi
  | cons b bs ih =>
    simp only [List.length_cons] at hl hi
    cases i with
    | zero =>
      have h0 : intRange p ns pa = none := hr
      rw [storeMem, if_pos (by rw [h0]; rfl), memGet_storeMem_ne p ns (pa + 1) bs _ (memSet_wf _ b h) (fun j hj hc => ?_)]
      · simpa using memGet_memSet_same (memKey ns pa) b h
      · have := memKey_inj hc
        omega
    | succ i =>
      have h1 : intRange p ns (pa + 1 + i) = none := by rwa [show pa + 1 + i = pa + (i + 1) by omega]
      rw [storeMem, show pa + (i + 1) = pa + 1 + i by omega]
      split
      · rw [ih (pa + 1) i (memSet_wf _ b h) (by omega) (by omega) h1]
        rfl
      · rw [ih (pa + 1) i h (by omega) (by omega) h1]
        rfl

theorem load_length (s : State) (ns : Bool) (pa n : Nat) : (s.load ns pa n).length = n := by
  induction n generalizing pa with
  | zero => rfl
  | succ n ih => simp [State.load, ih]

theorem load_getElem (s : State) (ns : Bool) (pa n i : Nat) (h : i < (s.load ns pa n).length) :
    (s.load ns pa n)[i] = s.byte ns (pa + i) := by
  induction n generalizing pa i with
  | zero => simp [State.load] at h
  | succ n ih =>
    cases i with
    | zero => rfl
    | succ i =>
      simp only [State.load, List.getElem_cons_succ]
      rw [ih, show pa + 1 + i = pa + (i + 1) by omega]

/-! ### Bytes and numbers -/

theorem leBytes_length (n v : Nat) : (leBytes n v).length = n := by
  induction n generalizing v with
  | zero => rfl
  | succ n ih => simp [leBytes, ih]

theorem leNat_leBytes (n v : Nat) : leNat (leBytes n v) = v % 256 ^ n := by
  induction n generalizing v with
  | zero => simp [leBytes, leNat, Nat.mod_one]
  | succ n ih =>
    rw [leBytes, leNat, ih, pow_succ', Nat.mod_mul]
    simp

theorem leNat_lt (bs : List Byte) : leNat bs < 256 ^ bs.length := by
  induction bs with
  | nil => simp [leNat]
  | cons b bs ih =>
    have := b.isLt
    simp only [leNat, List.length_cons, pow_succ']
    omega

theorem leBytes_leNat (bs : List Byte) : leBytes bs.length (leNat bs) = bs := by
  induction bs with
  | nil => rfl
  | cons b bs ih =>
    have := b.isLt
    have h1 : (b.toNat + 256 * leNat bs) / 256 = leNat bs := by omega
    have h2 : BitVec.ofNat 8 (b.toNat + 256 * leNat bs) = b := by
      apply BitVec.eq_of_toNat_eq
      simp only [BitVec.toNat_ofNat]
      omega
    simp only [List.length_cons, leBytes, leNat, h1, h2, ih]

/-! ### The reset memory -/

theorem reset_mem_wf : Memory.wf ([] : List Host.Cell) = true := rfl

/-- A byte after bytes were written elsewhere. -/
theorem byte_store_ne (s : State) (sw ns' : Bool) (pa : Nat) (bs : List Byte) (h : Memory.wf s.mem = true)
    (h' : Memory.wf s.internal = true) (ns : Bool) (a : Nat) (hw : ¬ inWindow ns' pa bs.length ns a) :
    (s.store sw ns' pa bs).byte ns a = s.byte ns a := by
  have hk : ∀ j, j < bs.length → memKey ns a ≠ memKey ns' (pa + j) := fun j hj he => hw ⟨j, hj, he⟩
  simp only [State.byte, store_impl, store_mem, store_internal]
  split
  · exact memGet_storeMem_ne _ _ _ _ _ h hk
  · rw [memGet_storeInternal_ne _ _ _ _ _ _ h' hk]

/-- Reading back what was written outside the storage of the SMMU. -/
theorem load_store (s : State) (sw ns : Bool) (pa : Nat) (bs : List Byte) (h : Memory.wf s.mem = true) (hl : bs.length ≤ 2 ^ 52)
    (hr : ∀ j, j < bs.length → intRange s.impl ns (pa + j) = none) : (s.store sw ns pa bs).load ns pa bs.length = bs := by
  apply List.ext_getElem (load_length _ _ _ _)
  intro i h1 h2
  rw [load_getElem]
  simp only [State.byte, store_impl, store_mem, hr i h2]
  exact memGet_storeMem_at _ _ _ _ _ h hl h2 (hr i h2)

end Sys2Proof.Machine
end

