-- ==== Sys2Proof/Laws/Ops.lean ====
section
/-! SUPPORT. One lemma for each shared operation: everything it can do. -/
namespace Sys2Proof.Machine

/-! ### RAS -/

/-- What a RAS detection can change: the records, interrupts that wait, outputs and free values taken. -/
def RasOnly (s t : State) : Prop :=
  ∃ l m r d, t = { s with out := s.out ++ l, irqs := s.irqs ++ m, ras := r, draw := s.draw + d }

theorem RasOnly.refl (s : State) : RasOnly s s := ⟨[], [], s.ras, 0, by simp⟩

theorem RasOnly.trans {s t u : State} (h : RasOnly s t) (h' : RasOnly t u) : RasOnly s u := by
  obtain ⟨l, m, r, d, rfl⟩ := h
  obtain ⟨l', m', r', d', rfl⟩ := h'
  exact ⟨l ++ l', m ++ m', r', d + d', by simp [List.append_assoc, Nat.add_assoc]⟩

theorem pushIrqs_only (s : State) (l : List Irq) : RasOnly s (s.pushIrqs l) := ⟨[], l, s.ras, 0, by simp [State.pushIrqs]⟩

@[simp] theorem pushIrqs_nil (s : State) : s.pushIrqs [] = s := by simp [State.pushIrqs]

theorem drawn_only (s : State) : RasOnly s s.drawn := ⟨[], [], s.ras, 1, by simp [State.drawn]⟩

theorem emit_only (s : State) (o : Output) : RasOnly s (s.emit o) := ⟨[o], [], s.ras, 0, by simp [State.emit]⟩

theorem bus_only (s : State) (kind : AccKind) (rw : RW) (ns : Bool) (pa n : Nat) (a : Attrs) :
    RasOnly s (s.bus kind rw ns pa n a) := emit_only s _

theorem rasIrqs_only (s : State) (g f : Nat) (q : RasIrq) : RasOnly s (s.rasIrqs g f q) := by
  unfold State.rasIrqs
  split
  · exact RasOnly.refl s
  · exact pushIrqs_only _ _

theorem rasDetect_only (s : State) (g n : Nat) (e : RasErr) : RasOnly s (s.rasDetect g n e) := by
  unfold State.rasDetect
  split
  · exact RasOnly.refl s
  · exact RasOnly.trans ⟨[], [], _, 1, by simp [State.drawn]; rfl⟩ (rasIrqs_only _ _ _ _)

theorem rasAborted_only (s : State) (sec : Sec) (kind : AccKind) (ns : Bool) (pa : Nat) :
    RasOnly s (s.rasAborted sec kind ns pa) := by
  unfold State.rasAborted
  split
  · exact RasOnly.refl s
  · exact rasDetect_only s _ _ _

/-! ### Accesses -/

/-- What writing bytes can change: the two memories, whose canonical form is kept, in windows, beside what a RAS detection can. -/
def WritesOnly (w : List (Bool × Nat × Nat)) (s t : State) : Prop :=
  ∃ m i, RasOnly { s with mem := m, internal := i } t ∧
    (Memory.wf s.mem = true → Memory.wf s.internal = true →
      Memory.wf m = true ∧ Memory.wf i = true ∧
        ∀ k, (∀ x ∈ w, ∀ j, j < x.2.2 → k ≠ memKey x.1 (x.2.1 + j)) → memGet m k = memGet s.mem k ∧ memGet i k = memGet s.internal k)

theorem WritesOnly.of_ras {w : List (Bool × Nat × Nat)} {s t : State} (h : RasOnly s t) : WritesOnly w s t :=
  ⟨s.mem, s.internal, h, fun h1 h2 => ⟨h1, h2, fun _ _ => ⟨rfl, rfl⟩⟩⟩

theorem WritesOnly.trans {w : List (Bool × Nat × Nat)} {s t u : State} (h : WritesOnly w s t) (h' : WritesOnly w t u) :
    WritesOnly w s u := by
  obtain ⟨m, i, ⟨l, q, r, d, rfl⟩, h1⟩ := h
  obtain ⟨m', i', h2, h3⟩ := h'
  have h4 : RasOnly { s with mem := m', internal := i' } u := RasOnly.trans ⟨l, q, r, d, rfl⟩ h2
  refine ⟨m', i', h4, fun hm hi => ?_⟩
  obtain ⟨a1, a2, a3⟩ := h1 hm hi
  obtain ⟨b1, b2, b3⟩ := h3 a1 a2
  exact ⟨b1, b2, fun k hk => ⟨(b3 k hk).1.trans (a3 k hk).1, (b3 k hk).2.trans (a3 k hk).2⟩⟩

theorem WritesOnly.mono {w w' : List (Bool × Nat × Nat)} {s t : State} (h : WritesOnly w s t) (hw : ∀ x ∈ w, x ∈ w') :
    WritesOnly w' s t := by
  obtain ⟨m, i, h1, h2⟩ := h
  refine ⟨m, i, h1, fun hm hi => ?_⟩
  obtain ⟨a1, a2, a3⟩ := h2 hm hi
  exact ⟨a1, a2, fun k hk => a3 k fun x hx => hk x (hw x hx)⟩

theorem WritesOnly.impl {w : List (Bool × Nat × Nat)} {s t : State} (h : WritesOnly w s t) : t.impl = s.impl := by
  obtain ⟨m, i, ⟨l, q, r, d, rfl⟩, -⟩ := h
  rfl

theorem WritesOnly.iface {w : List (Bool × Nat × Nat)} {s t : State} (h : WritesOnly w s t) (q : Sec) : t.iface q = s.iface q := by
  obtain ⟨m, i, ⟨l, q', r, d, rfl⟩, -⟩ := h
  cases q <;> rfl

theorem WritesOnly.wf {w : List (Bool × Nat × Nat)} {s t : State} (h : WritesOnly w s t) (hm : Memory.wf s.mem = true)
    (hi : Memory.wf s.internal = true) : Memory.wf t.mem = true ∧ Memory.wf t.internal = true := by
  obtain ⟨m, i, ⟨l, q, r, d, rfl⟩, h1⟩ := h
  exact ⟨(h1 hm hi).1, (h1 hm hi).2.1⟩

theorem WritesOnly.bytes {w : List (Bool × Nat × Nat)} {s t : State} (h : WritesOnly w s t) (hm : Memory.wf s.mem = true)
    (hi : Memory.wf s.internal = true) : SameBytesBut w s t := by
  obtain ⟨m, i, ⟨l, q, r, d, rfl⟩, h1⟩ := h
  intro ns a ha
  obtain ⟨e1, e2⟩ := (h1 hm hi).2.2 (memKey ns a) fun x hx j hj he => ha x hx ⟨j, hj, he⟩
  simp only [State.byte, e1, e2]

theorem store_writes (s : State) (sw ns : Bool) (pa : Nat) (bs : List Byte) :
    WritesOnly [(ns, pa, bs.length)] s (s.store sw ns pa bs) := by
  refine ⟨_, _, RasOnly.refl _, fun hm hi => ⟨storeMem_wf _ _ _ _ hm, storeInternal_wf _ _ _ _ _ hi, fun k hk => ?_⟩⟩
  have h := hk (ns, pa, bs.length) (by simp)
  exact ⟨memGet_storeMem_ne _ _ _ _ _ hm h, memGet_storeInternal_ne _ _ _ _ _ _ hi h⟩

/-- A write: its bytes, unless it aborts, and what a RAS detection can change. -/
theorem busWrite_writes (s : State) (sec : Sec) (kind : AccKind) (ns : Bool) (pa : Nat) (bs : List Byte) (a : Attrs) :
    WritesOnly [(ns, pa, bs.length)] s (s.busWrite sec kind ns pa bs a).2 := by
  have hb : WritesOnly [(ns, pa, bs.length)] s (s.bus kind .write ns pa bs.length a) := WritesOnly.of_ras (bus_only _ _ _ _ _ _ _)
  unfold State.busWrite
  dsimp only
  split
  · split
    · exact hb.trans (WritesOnly.of_ras (rasAborted_only _ sec kind ns pa))
    · exact hb
  · exact hb.trans (store_writes _ _ _ _ _)

/-- A write that does not abort. -/
theorem busWrite_ok (s : State) (sec : Sec) (kind : AccKind) (ns : Bool) (pa : Nat) (bs : List Byte) (a : Attrs)
    (ha : s.aborts kind ns pa bs.length = false) :
    s.busWrite sec kind ns pa bs a = (true, (s.bus kind .write ns pa bs.length a).store false ns pa bs) := by
  have h1 : (s.bus kind .write ns pa bs.length a).aborts kind ns pa bs.length = false := ha
  simp only [State.busWrite, h1]
  rfl

/-- A read before which no other agent writes, that does not abort and is not in PCIe space: its value, and one output. -/
theorem busRead_ok (s : State) (sec : Sec) (kind : AccKind) (ns : Bool) (pa n : Nat) (a : Attrs) (hm : s.meanwhile = [])
    (ha : s.aborts kind ns pa n = false) (hp : s.pcieSpace ns pa n = false) :
    s.busRead sec kind ns pa n a = (some (leNat (s.load ns pa n)), s.bus kind .read ns pa n a) := by
  have h0 : s.others = s := by unfold State.others; rw [hm]
  have h1 : (s.bus kind .read ns pa n a).aborts kind ns pa n = false := ha
  have h2 : (s.bus kind .read ns pa n a).pcieSpace ns pa n = false := hp
  have h3 : ∀ pa, (s.bus kind .read ns pa n a).load ns pa n = s.load ns pa n := by
    intro pa
    apply List.ext_getElem (by rw [load_length, load_length])
    intro i i1 i2
    rw [load_getElem, load_getElem]
    rfl
  have h4 : (s.bus kind .read ns pa n a).load ns pa n = s.load ns pa n := by
    apply List.ext_getElem (by rw [load_length, load_length])
    intro i i1 i2
    rw [load_getElem, load_getElem]
    rfl
  simp only [State.busRead, h0, h1, h2, h4]
  rfl

/-- A read that aborts, likewise. -/
theorem busRead_abort (s : State) (sec : Sec) (kind : AccKind) (ns : Bool) (pa n : Nat) (a : Attrs) (hm : s.meanwhile = [])
    (ha : s.aborts kind ns pa n = true) :
    s.busRead sec kind ns pa n a = (none, (s.bus kind .read ns pa n a).rasAborted sec kind ns pa) := by
  have h0 : s.others = s := by unfold State.others; rw [hm]
  have h1 : (s.bus kind .read ns pa n a).aborts kind ns pa n = true := ha
  simp only [State.busRead, h0, h1]
  rfl

theorem foldStores_wf (ws : List MemWr) (s : State) (hm : Memory.wf s.mem = true) (hi : Memory.wf s.internal = true) :
    let t := ws.foldl (fun s w => s.agentStore w.ns w.pa w.bytes) s
    t = { s with mem := t.mem, internal := t.internal, steLog := t.steLog } ∧ Memory.wf t.mem = true ∧ Memory.wf t.internal = true := by
  induction ws generalizing s with
  | nil => exact ⟨rfl, hm, hi⟩
  | cons w ws ih =>
    obtain ⟨h1, h2⟩ := store_wf s true w.ns w.pa w.bytes hm hi
    obtain ⟨h3, h4⟩ := ih (s.agentStore w.ns w.pa w.bytes) h1 h2
    exact ⟨h3, h4⟩

/-- Any read: other agents' writes before it keep the canonical form of the memories; it changes no register but the RAS
records. -/
theorem busRead_effect (s : State) (sec : Sec) (kind : AccKind) (ns : Bool) (pa n : Nat) (a : Attrs) (hm : Memory.wf s.mem = true)
    (hi : Memory.wf s.internal = true) :
    ∃ m i w e, RasOnly { s with mem := m, internal := i, meanwhile := w, steLog := e } (s.busRead sec kind ns pa n a).2 ∧
      Memory.wf m = true ∧ Memory.wf i = true := by
  have ho : ∃ m i w e, s.others = { s with mem := m, internal := i, meanwhile := w, steLog := e } ∧ Memory.wf m = true ∧ Memory.wf i = true := by
    unfold State.others
    split
    · exact ⟨s.mem, s.internal, s.meanwhile, s.steLog, rfl, hm, hi⟩
    · rename_i ws rest _
      obtain ⟨h1, h2, h3⟩ := foldStores_wf ws { s with meanwhile := rest } hm hi
      exact ⟨_, _, rest, _, h1, h2, h3⟩
  obtain ⟨m, i, w, e, he, h1, h2⟩ := ho
  refine ⟨m, i, w, e, ?_, h1, h2⟩
  have hb := bus_only s.others kind .read ns pa n a
  unfold State.busRead
  dsimp only
  rw [← he]
  split
  · exact hb.trans (rasAborted_only _ sec kind ns pa)
  · split
    · split
      · exact (hb.trans (drawn_only _)).trans (rasAborted_only _ sec kind ns pa)
      · exact (hb.trans (drawn_only _)).trans (drawn_only _)
    · exact hb

/-! ### Interrupts -/

/-- A register-configured interrupt (60 R1722) waits to be delivered; nothing else changes. -/
theorem irqRaise_eq (s : State) (q : Sec) (src : IrqSrc) (en : Bool) (c : IrqCfg) :
    ∃ l, s.irqRaise q src en c = s.pushIrqs l ∧ (en = false → l = []) := by
  unfold State.irqRaise
  split
  · rename_i h
    exact ⟨_, rfl, fun h' => by rw [h] at h'; cases h'⟩
  · exact ⟨[], by simp [State.pushIrqs], fun _ => rfl⟩

theorem msiWrite_writes (s : State) (src : IrqSrc) (ns : Bool) (addr : W64) (data : W32) (a : Attrs) :
    WritesOnly [(ns, (truncTo addr s.oas).toNat, 4)] s (s.msiWrite src ns addr data a).2 := by
  have h := busWrite_writes s (.ofNs ns) .msi ns (truncTo addr s.oas).toNat (leBytes 4 data.toNat) a
  rw [leBytes_length] at h
  exact h.trans (WritesOnly.of_ras (emit_only _ _))

/-! ### GERROR -/

theorem bit_setFld1 {w : Nat} (x : BitVec w) (p n : Nat) (v : BitVec 1) (hp : p < w) :
    bit (setFld x p v) n = if n = p then v.getLsbD 0 else bit x n := by
  have ht : ∀ m, (BitVec.allOnes 1).getLsbD m = decide (m < 1) := fun m => by simp
  by_cases hw : n < w
  · by_cases he : n = p
    · subst he
      simp [bit, setFld, place, hw]
    · have hv : ∀ m, 0 < m → v.getLsbD m = false := fun m hm => BitVec.getLsbD_of_ge v m (by omega)
      simp only [bit, setFld, place, BitVec.getLsbD_or, BitVec.getLsbD_and, BitVec.getLsbD_not, BitVec.getLsbD_shiftLeft,
        BitVec.getLsbD_setWidth, hw, decide_true, Bool.true_and, he, if_false, ht]
      by_cases hlt : n < p
      · simp [hlt]
      · have := hv (n - p) (by omega)
        simp [this, hlt, show ¬ (n - p < 1) by omega]
  · rw [if_neg (by omega)]
    simp only [bit]
    rw [BitVec.getLsbD_of_ge _ _ (by omega), BitVec.getLsbD_of_ge _ _ (by omega)]

theorem bit_setBit {w : Nat} (x : BitVec w) (p n : Nat) (b : Bool) (hp : p < w) :
    bit (setBit x p b) n = if n = p then b else bit x n := by
  rw [setBit, bit_setFld1 x p n _ hp]
  simp

theorem Gerr.pos_lt (g : Gerr) : g.pos < 32 := by cases g <;> decide

/-- The registers of an interface with another GERROR. -/
def Iface.withGerror (i : Iface) (g : W32) : Iface := { i with gerror := g }

@[simp] theorem withGerror_gerror (i : Iface) (g : W32) : (i.withGerror g).gerror = g := rfl
@[simp] theorem withGerror_self (i : Iface) : i.withGerror i.gerror = i := rfl
@[simp] theorem withGerror_withGerror (i : Iface) (g h : W32) : (i.withGerror g).withGerror h = i.withGerror h := rfl
@[simp] theorem withGerror_gerrorn (i : Iface) (g : W32) : (i.withGerror g).gerrorn = i.gerrorn := rfl
@[simp] theorem withGerror_irqCtrlEff (i : Iface) (g : W32) : (i.withGerror g).irqCtrlEff = i.irqCtrlEff := rfl
@[simp] theorem withGerror_gerrorCfg (i : Iface) (g : W32) : (i.withGerror g).gerrorCfg = i.gerrorCfg := rfl
@[simp] theorem setIface_msi (s : State) (q p : Sec) (i : Iface) : (s.setIface q i).msi p = s.msi p := by
  cases q <;> cases p <;> rfl
@[simp] theorem setIface_oas (s : State) (q : Sec) (i : Iface) : (s.setIface q i).oas = s.oas := by cases q <;> rfl

/-- After an activation the error is active; the other flags and the other registers stand (60 R1701). -/
theorem gerrToggle_active (i : Iface) (g : Gerr) : (i.gerrToggle g).gerrActive g = true := by
  unfold Iface.gerrToggle
  split
  · assumption
  · rename_i h
    simp only [Iface.gerrActive, bne_iff_ne, ne_eq, not_not] at h
    simp only [Iface.gerrActive]
    rw [bit_setBit _ _ _ _ g.pos_lt, if_pos rfl, h]
    cases bit i.gerrorn g.pos <;> rfl

theorem gerrToggle_frame (i : Iface) (g : Gerr) : i.gerrToggle g = i.withGerror (i.gerrToggle g).gerror := by
  unfold Iface.gerrToggle
  split <;> rfl

theorem gerrToggle_other (i : Iface) (g : Gerr) (n : Nat) (h : n ≠ g.pos) :
    bit (i.gerrToggle g).gerror n = bit i.gerror n := by
  unfold Iface.gerrToggle
  split
  · rfl
  · rw [bit_setBit _ _ _ _ g.pos_lt, if_neg h]

theorem gerrToggle_keeps_active (i : Iface) (g g' : Gerr) (h : i.gerrActive g' = true) : (i.gerrToggle g).gerrActive g' = true := by
  by_cases he : g'.pos = g.pos
  · have : g' = g := by cases g <;> cases g' <;> first | rfl | (exact absurd he (by decide))
    rw [this]
    exact gerrToggle_active i g
  · unfold Iface.gerrActive at *
    rw [gerrToggle_other i g _ he, gerrToggle_frame, withGerror_gerrorn]
    exact h

/-- Activation of a global error (60 R1701): it is active afterwards; of the registers only GERROR changes, at its flag, and its
interrupt waits to be delivered. -/
theorem gerrorActivate_effect (s : State) (q : Sec) (g : Gerr) :
    ∃ v l, s.gerrorActivate q g = (s.setIface q ((s.iface q).withGerror v)).pushIrqs l ∧
      ((s.gerrorActivate q g).iface q).gerrActive g = true ∧ ∀ n, n ≠ g.pos → bit v n = bit (s.iface q).gerror n := by
  unfold State.gerrorActivate
  split
  · rename_i h
    exact ⟨(s.iface q).gerror, [], by simp [State.pushIrqs], h, fun _ _ => rfl⟩
  · have hi : (s.gerrToggle q g).iface q = (s.iface q).gerrToggle g := by rw [State.gerrToggle, iface_setIface]
    split
    · refine ⟨((s.iface q).gerrToggle g).gerror, [], ?_, by rw [hi]; exact gerrToggle_active _ _, fun n hn => gerrToggle_other _ _ _ hn⟩
      rw [← gerrToggle_frame, pushIrqs_nil]
      rfl
    · obtain ⟨l, hl, -⟩ := irqRaise_eq (s.gerrToggle q g) q (.gerror q) ((s.gerrToggle q g).irqOn q 0)
        ((s.gerrToggle q g).iface q).gerrorCfg
      refine ⟨((s.iface q).gerrToggle g).gerror, l, ?_, ?_, fun n hn => gerrToggle_other _ _ _ hn⟩
      · rw [State.gerrorIrq, hl, ← gerrToggle_frame]
        rfl
      · rw [State.gerrorIrq, hl, pushIrqs_iface, hi]
        exact gerrToggle_active _ _

/-! ### Operands -/

theorem sidParam_in (s : State) (sec : Sec) (sid : BitVec 32) (h : sid.toNat < 2 ^ s.sidSize sec) :
    s.sidParam sec sid = (some sid, s) := by
  simp only [State.sidParam, h, if_true]

theorem sidParam_out (s : State) (sec : Sec) (sid : BitVec 32) (h : ¬ sid.toNat < 2 ^ s.sidSize sec) :
    s.sidParam sec sid = (none, s.drawn) ∨ ∃ x, s.sidParam sec sid = (some x, s.drawn) ∧ x.toNat < 2 ^ s.sidSize sec := by
  unfold State.sidParam
  rw [if_neg h]
  split
  · right
    refine ⟨_, rfl, ?_⟩
    rw [BitVec.toNat_ofNat]
    exact lt_of_le_of_lt (Nat.mod_le _ _) (Nat.mod_lt _ (by positivity))
  · exact .inl rfl

theorem ssidParam_in (s : State) (ssid : BitVec 20) (h : ssid.toNat < 2 ^ s.ssidSize) : s.ssidParam ssid = (some ssid, s) := by
  simp only [State.ssidParam, h, if_true]

theorem ssidParam_out (s : State) (ssid : BitVec 20) (h : ¬ ssid.toNat < 2 ^ s.ssidSize) :
    s.ssidParam ssid = (none, s.drawn) ∨ ∃ x, s.ssidParam ssid = (some x, s.drawn) ∧ x.toNat < 2 ^ s.ssidSize := by
  unfold State.ssidParam
  rw [if_neg h]
  split
  · right
    refine ⟨_, rfl, ?_⟩
    rw [BitVec.toNat_ofNat]
    exact lt_of_le_of_lt (Nat.mod_le _ _) (Nat.mod_lt _ (by positivity))
  · exact .inl rfl

/-! ### Queue indexes -/

theorem cmdqs_le (s : State) (q : Sec) : s.cmdqs q ≤ 19 := by unfold State.cmdqs; omega
theorem eventqs_le (s : State) (q : Sec) : s.eventqs q ≤ 19 := by unfold State.eventqs; omega
theorem priqs_le (s : State) : s.priqs ≤ 19 := by unfold State.priqs; omega

theorem fld_setFld0 (x : W32) (v : BitVec 20) : fld (setFld x 0 v) 20 12 = fld x 20 12 := by
  apply BitVec.eq_of_getLsbD_eq
  intro i hi
  have hv : v.getLsbD (20 + i) = false := BitVec.getLsbD_of_ge v _ (by omega)
  have ho : (BitVec.allOnes 20).getLsbD (20 + i) = false := BitVec.getLsbD_of_ge _ _ (by omega)
  simp only [fld, setFld, place, BitVec.getLsbD_extractLsb', BitVec.getLsbD_or, BitVec.getLsbD_and, BitVec.getLsbD_not,
    BitVec.getLsbD_shiftLeft, BitVec.getLsbD_setWidth, Nat.sub_zero, hv, ho]
  have h : 20 + i < 32 := by omega
  simp [h]

theorem toNat_setFld0 (x : W32) (v : BitVec 20) : (setFld x 0 v).toNat % 2 ^ 20 = v.toNat := by
  have h : (setFld x 0 v).setWidth 20 = v := by
    apply BitVec.eq_of_getLsbD_eq
    intro i hi
    have ho : (BitVec.allOnes 20).getLsbD i = true := by rw [BitVec.getLsbD_allOnes]; simp [hi]
    simp only [setFld, place, BitVec.getLsbD_or, BitVec.getLsbD_and, BitVec.getLsbD_not,
      BitVec.getLsbD_shiftLeft, BitVec.getLsbD_setWidth, Nat.sub_zero, ho]
    simp [hi, show i < 32 by omega]
  have := congrArg BitVec.toNat h
  simpa using this

/-- The wrap flag and index of a queue register after `qInc` (20 R458); the bits above 19 stand. -/
theorem qPos_qInc (x : W32) (qs : Nat) (h : qs ≤ 19) : qPos (qInc x qs) qs = (qPos x qs + 1) % 2 ^ (qs + 1) := by
  have hlt : (qPos x qs + 1) % 2 ^ (qs + 1) < 2 ^ (qs + 1) := Nat.mod_lt _ (by positivity)
  have hle : 2 ^ (qs + 1) ≤ 2 ^ 20 := Nat.pow_le_pow_right (by omega) (by omega)
  have h1 := toNat_setFld0 x (BitVec.ofNat 20 ((qPos x qs + 1) % 2 ^ (qs + 1)))
  rw [BitVec.toNat_ofNat, Nat.mod_eq_of_lt (lt_of_lt_of_le hlt hle)] at h1
  have h2 : (setFld x 0 (BitVec.ofNat 20 ((qPos x qs + 1) % 2 ^ (qs + 1)))).toNat % 2 ^ (qs + 1) =
      (setFld x 0 (BitVec.ofNat 20 ((qPos x qs + 1) % 2 ^ (qs + 1)))).toNat % 2 ^ 20 % 2 ^ (qs + 1) := by
    rw [Nat.mod_mod_of_dvd]
    exact pow_dvd_pow 2 (by omega)
  show (setFld x 0 _).toNat % 2 ^ (qs + 1) = _
  rw [h2, h1, Nat.mod_eq_of_lt hlt]

theorem fld_qInc (x : W32) (qs : Nat) : fld (qInc x qs) 20 12 = fld x 20 12 := fld_setFld0 x _

/-! ### Counters -/

/-- What counting events can change: the counter groups, the interrupts that wait, and the draws. -/
def CountsOnly (s t : State) : Prop := ∃ p l d, t = { s with pmcgs := p, irqs := s.irqs ++ l, draw := d }

theorem CountsOnly.refl (s : State) : CountsOnly s s := ⟨s.pmcgs, [], s.draw, by simp⟩

theorem CountsOnly.trans {s t u : State} (h : CountsOnly s t) (h' : CountsOnly t u) : CountsOnly s u := by
  obtain ⟨p, l, d, rfl⟩ := h
  obtain ⟨p', l', d', rfl⟩ := h'
  exact ⟨p', l ++ l', d', by simp [List.append_assoc]⟩

theorem asWas_self (g : Pmcg) : g.asWas g = g := rfl
@[simp] theorem asWas_asWas (g a b : Pmcg) : (g.asWas a).asWas b = g.asWas b := rfl
@[simp] theorem asWas_evcntr (g a : Pmcg) : (g.asWas a).evcntr = g.evcntr := rfl
@[simp] theorem asWas_ovs (g a : Pmcg) : (g.asWas a).ovs = g.ovs := rfl

/-- What an event finds: the group as it is, with no draw where no earlier configuration counts; else it with one of the
configurations. -/
theorem pmcgSeen_cases (s : State) (n : Nat) (g : Pmcg) (src : Option (Sec × BitVec 32)) :
    s.pmcgSeen n g src = (g, s) ∨ s.pmcgSeen n g src = (g, s.drawn) ∨
      ∃ p ∈ s.trail.past, p.group = n ∧ s.pmcgSeen n g src = (g.asWas p.was, s.drawn) := by
  unfold State.pmcgSeen
  cases src with
  | none => exact .inl rfl
  | some x =>
    simp only [Option.elim]
    split
    next => exact .inl rfl
    next =>
      split
      next => exact .inr (.inl rfl)
      next p h =>
        have hm := List.mem_filter.mp (List.mem_of_getElem? h)
        exact .inr (.inr ⟨p, hm.1, by simpa using hm.2, rfl⟩)

theorem pmcgSeen_noPast (s : State) (n : Nat) (g : Pmcg) (src : Option (Sec × BitVec 32)) (h : s.trail.past = []) :
    s.pmcgSeen n g src = (g, s) := by
  unfold State.pmcgSeen
  cases src <;> simp [h]

theorem pmcgSeen_only (s : State) (n : Nat) (g : Pmcg) (src : Option (Sec × BitVec 32)) : CountsOnly s (s.pmcgSeen n g src).2 := by
  obtain h | h | ⟨_, _, _, h⟩ := pmcgSeen_cases s n g src <;> rw [h]
  · exact CountsOnly.refl s
  · exact ⟨s.pmcgs, [], s.draw + 1, by simp [State.drawn]⟩
  · exact ⟨s.pmcgs, [], s.draw + 1, by simp [State.drawn]⟩

theorem offered_only (s : State) (n : Nat) (g : Pmcg) (irq : Bool) :
    CountsOnly s (if irq then { s with pmcgs := s.pmcgs.set n g }.pmcgIrq n g else { s with pmcgs := s.pmcgs.set n g }) := by
  cases irq
  · exact ⟨s.pmcgs.set n g, [], s.draw, by simp⟩
  · exact ⟨s.pmcgs.set n g, _, s.draw, rfl⟩

theorem pmuFrom_only (id : Nat) (src : Option (Sec × BitVec 32)) (k n : Nat) (s : State) : CountsOnly s (State.pmuFrom id src k n s) := by
  induction k generalizing n s with
  | zero => exact CountsOnly.refl s
  | succ k ih =>
    unfold State.pmuFrom
    split
    next => exact CountsOnly.refl s
    next g _ => exact ((pmcgSeen_only s n g src).trans (offered_only _ n _ _)).trans (ih _ _)

theorem pmu_only (s : State) (id : Nat) (src : Option (Sec × BitVec 32)) : CountsOnly s (s.pmu id src) := by
  unfold State.pmu
  split
  · exact pmuFrom_only _ _ _ _ _
  · exact CountsOnly.refl s

theorem countMisses_only (s : State) (sec : Sec) (sid : BitVec 32) : CountsOnly s (s.countMisses sec sid) := by
  have step : ∀ (c : Bool) (n : Nat) (u : State), CountsOnly u (if c then u.pmu n (some (sec, sid)) else u) := fun c n u => by
    cases c
    · exact CountsOnly.refl u
    · exact pmu_only u n _
  exact (step _ 2 s).trans (step _ 3 _)

/-! ### The trail of an operation -/

/-- What remembering how an operation went can change. -/
def TrailOnly (s t : State) : Prop := t = { s with trail := t.trail }

theorem freshTrail_only (s : State) : TrailOnly s s.freshTrail := rfl
theorem beginWalk_only (s : State) : TrailOnly s s.beginWalk := rfl
theorem beginFetch_only (s : State) : TrailOnly s s.beginFetch := rfl
theorem useTlb_only (s : State) : TrailOnly s s.useTlb := rfl
theorem useCfg_only (s : State) (e : CfgEnt) : TrailOnly s (s.useCfg e) := rfl
theorem noteTlb_only (s : State) (e : TlbEnt) : TrailOnly s (s.noteTlb e) := rfl
theorem noteCfg_only (s : State) (e : CfgEnt) : TrailOnly s (s.noteCfg e) := rfl

/-! ### Stalled transactions -/

/-- What acknowledging stall records can change. -/
def StallsOnly (s t : State) : Prop := ∃ l m, t = { s with stalled := l, stags := m }

theorem ackStag_only (s : State) (sec : Sec) (sid : BitVec 32) (tag : BitVec 16) : StallsOnly s (s.ackStag sec sid tag) := ⟨_, _, rfl⟩

theorem ackStags_only (l : List StagUse) (s : State) : StallsOnly s (l.foldl (fun s y => s.ackStag y.sec y.sid y.tag) s) := by
  induction l generalizing s with
  | nil => exact ⟨_, _, rfl⟩
  | cons y l ih =>
    obtain ⟨a, b, h⟩ := ih (s.ackStag y.sec y.sid y.tag)
    exact ⟨a, b, h⟩

/-- A CMD_SYNC leaves no event of an interface pending, and what becomes of stalled transactions is all else. -/
theorem staleStalls_only (s : State) (q : Sec) : StallsOnly (s.setEvents q []) (s.staleStalls q) := by
  obtain ⟨a, b, h⟩ := ackStags_only _ _
  exact ⟨a, b, h⟩

end Sys2Proof.Machine
end

