-- ==== Sys2Proof/Laws/Commands.lean ====
section
/-! SUPPORT. What Consumption and the command error procedure do, and what the shared parts of the commands' meanings do. -/
namespace Sys2Proof.Machine

/-! ### Consumption -/

/-- The registers of an interface with other consume indexes: the SMMU's and the one that software sees. -/
def Iface.withCons (i : Iface) (c v : W32) : Iface := { i with cmdqCons := c, cmdqSeen := v }

@[simp] theorem withCons_cons (i : Iface) (c v : W32) : (i.withCons c v).cmdqCons = c := rfl
@[simp] theorem withCons_seen (i : Iface) (c v : W32) : (i.withCons c v).cmdqSeen = v := rfl
@[simp] theorem withCons_gerrActive (i : Iface) (c v : W32) (g : Gerr) : (i.withCons c v).gerrActive g = i.gerrActive g := rfl

/-- The wake-up event when the index that software sees catches up (30 R1066). -/
def State.showOut (s : State) (q : Sec) : List Output :=
  if s.sev && qFull (s.iface q).cmdqProd (s.iface q).cmdqSeen (s.cmdqs q) &&
      qPos (s.iface q).cmdqCons (s.cmdqs q) != qPos (s.iface q).cmdqSeen (s.cmdqs q) then [.sendEvent] else []

/-- The index that software sees catches up: what changes (13 R288). -/
theorem showCons_eq (s : State) (q : Sec) :
    s.showCons q = { s.setIface q ((s.iface q).withCons (s.iface q).cmdqCons (s.iface q).cmdqCons) with out := s.out ++ s.showOut q } := by
  unfold State.showCons State.showOut
  dsimp only
  split
  · rw [← setIface_out s q]
    rfl
  · rw [List.append_nil, ← setIface_out s q]
    rfl

theorem setIface_copies (s : State) (k : List (Sec × Nat × CmdWord)) (q : Sec) (i : Iface) :
    ({ s with cmdCache := k } : State).setIface q i = { s.setIface q i with cmdCache := k } := by cases q <;> rfl

/-- Other registers, copies of commands and outputs: nothing else changes. -/
theorem setIface_frame (s : State) (q : Sec) (i : Iface) (k : List (Sec × Nat × CmdWord)) (o : List Output) :
    ({ s.setIface q i with cmdCache := k, out := o } : State) =
      { s with ns := (s.setIface q i).ns, s := (s.setIface q i).s, cmdCache := k, out := o } := by cases q <;> rfl

theorem cmdCache_iface (s : State) (c : List (Sec × Nat × CmdWord)) (q : Sec) :
    ({ s with cmdCache := c } : State).iface q = s.iface q := by cases q <;> rfl

theorem setCons_cmdqs (s : State) (k : List (Sec × Nat × CmdWord)) (q : Sec) (c : W32) :
    (({ s with cmdCache := k } : State).setIface q { s.iface q with cmdqCons := c }).cmdqs q = s.cmdqs q := by
  cases q <;> rfl

/-- The wake-up event, once the consume index has moved on. -/
theorem showOut_setCons (s : State) (k : List (Sec × Nat × CmdWord)) (q : Sec) (c : W32) :
    (({ s with cmdCache := k } : State).setIface q { s.iface q with cmdqCons := c }).showOut q =
      if s.sev && qFull (s.iface q).cmdqProd (s.iface q).cmdqSeen (s.cmdqs q) &&
        qPos c (s.cmdqs q) != qPos (s.iface q).cmdqSeen (s.cmdqs q) then [.sendEvent] else [] := by
  have hv : (({ s with cmdCache := k } : State).setIface q { s.iface q with cmdqCons := c }).sev = s.sev := by
    cases q <;> rfl
  unfold State.showOut
  rw [setCons_cmdqs, hv, iface_setIface]

/-- What Consumption leaves: the state with the next consume index, fewer copies of commands, and the wake-up event. -/
theorem consume_eq (s : State) :
    s.consume = { s.setIface s.curQ ((s.iface s.curQ).withCons (qInc (s.iface s.curQ).cmdqCons (s.cmdqs s.curQ))
        (if s.shows then qInc (s.iface s.curQ).cmdqCons (s.cmdqs s.curQ) else (s.iface s.curQ).cmdqSeen)) with
      cmdCache := s.cmdCache.filter fun x => !(x.1 == s.curQ && x.2.1 == qPos (s.iface s.curQ).cmdqCons (s.cmdqs s.curQ)),
      out := s.out ++ s.consumeOut } := by
  unfold State.consume State.consumeOut
  dsimp only
  by_cases h : s.shows = true
  · rw [if_pos (by simpa [State.shows] using h), if_pos h, if_pos h, showCons_eq, showOut_setCons, iface_setIface,
      setIface_setIface, setIface_copies, setIface_copies, setIface_out]
    rfl
  · rw [if_neg (by simpa [State.shows] using h), if_neg h, if_neg h, List.append_nil, setIface_copies, ← setIface_out s s.curQ]
    rfl

theorem consume_iface (s : State) :
    s.consume.iface s.curQ = (s.iface s.curQ).withCons (qInc (s.iface s.curQ).cmdqCons (s.cmdqs s.curQ))
        (if s.shows then qInc (s.iface s.curQ).cmdqCons (s.cmdqs s.curQ) else (s.iface s.curQ).cmdqSeen) := by
  rw [consume_eq]
  cases s.curQ <;> rfl

theorem consume_iface_ne (s : State) (q : Sec) (h : q ≠ s.curQ) : s.consume.iface q = s.iface q := by
  rw [consume_eq]
  cases hq : s.curQ <;> cases q <;> first | rfl | exact absurd hq.symm h

/-- Consumption (30 R1061, R1064, R1066, 13 R288). -/
theorem consume_effect (s : State) :
    Consumed s s.consume ∧ s.consume.out = s.out ++ s.consumeOut ∧ SameBytes s s.consume ∧
      s.consume = { s with ns := s.consume.ns, s := s.consume.s, out := s.consume.out, cmdCache := s.consume.cmdCache } := by
  have hi := consume_iface s
  have hp := qPos_qInc (s.iface s.curQ).cmdqCons _ (cmdqs_le s s.curQ)
  refine ⟨⟨?_, ?_, ?_, ?_, consume_iface_ne s⟩, ?_, ?_, ?_⟩
  · rw [hi, withCons_cons, hp]
  · rw [hi, withCons_cons, fld_qInc]
  · rw [hi, withCons_cons, withCons_seen]
    by_cases h : s.shows = true
    · exact .inl (if_pos h)
    · rw [if_neg h]
      refine .inr ⟨rfl, ?_⟩
      simpa [State.shows] using h
  · rw [hi]; rfl
  · rw [consume_eq]
  · intro ns a
    rw [consume_eq]
    cases s.curQ <;> rfl
  · have e := consume_eq s
    rw [setIface_frame] at e
    rw [e]

/-- Consumption after work was asked for that touches neither the interfaces nor the queue sizes. -/
theorem consume_after (s t : State) (h : t = { s with
      draw := t.draw, prefetches := t.prefetches, pendingInval := t.pendingInval,
      steLog := s.steLog ++ (t.pendingInval.drop s.pendingInval.length).flatMap Inval.logged }) :
    Queued s t.consume ∧ t.consume.pendingInval = t.pendingInval ∧ t.consume.prefetches = t.prefetches ∧ t.consume.draw = t.draw := by
  have hq : t.curQ = s.curQ := by rw [h]
  have hi : ∀ q, t.iface q = s.iface q := fun q => by rw [h]; cases q <;> rfl
  have hs : ∀ q, t.cmdqs q = s.cmdqs q := fun q => by rw [h]; cases q <;> rfl
  have hw : t.consumeOut = s.consumeOut := by rw [h]; rfl
  have ho : t.out = s.out := by rw [h]
  have hp : t.impl = s.impl := by rw [h]
  have hm : SameBytes s t := fun ns a => by rw [h]; rfl
  obtain ⟨⟨h1, h2, h8, h3, h4⟩, h5, h6, h7⟩ := consume_effect t
  rw [hq, hi, hs] at h1 h8
  rw [hp] at h8
  rw [hq, hi] at h2 h3
  refine ⟨⟨⟨h1, h2, h8, h3, ?_⟩, ?_, fun ns a => (h6 ns a).trans (hm ns a), ?_⟩, ?_, ?_, ?_⟩
  · intro q hne
    rw [h4 q (hq ▸ hne), hi]
  · rw [h5, ho, hw]
  · rw [h7, h]
  · rw [h7]
  · rw [h7]
  · rw [h7]

/-! ### The command error procedure -/

theorem bit_setFld {w n : Nat} (x : BitVec w) (lo : Nat) (v : BitVec n) (m : Nat) (h : m < lo ∨ lo + n ≤ m) :
    bit (setFld x lo v) m = bit x m := by
  by_cases hw : m < w
  · simp only [bit, setFld, place, BitVec.getLsbD_or, BitVec.getLsbD_and, BitVec.getLsbD_not, BitVec.getLsbD_shiftLeft,
      BitVec.getLsbD_setWidth, hw, decide_true, Bool.true_and]
    rcases h with h | h
    · simp [h]
    · have h1 : v.getLsbD (m - lo) = false := BitVec.getLsbD_of_ge v _ (by omega)
      have h2 : (BitVec.allOnes n).getLsbD (m - lo) = false := BitVec.getLsbD_of_ge _ _ (by omega)
      simp [h1, h2]
  · simp only [bit]
    rw [BitVec.getLsbD_of_ge _ _ (by omega), BitVec.getLsbD_of_ge _ _ (by omega)]

theorem fld_setFld_same {w n : Nat} (x : BitVec w) (lo : Nat) (v : BitVec n) (h : lo + n ≤ w) : fld (setFld x lo v) lo n = v := by
  apply BitVec.eq_of_getLsbD_eq
  intro i hi
  have h1 : (BitVec.allOnes n).getLsbD i = true := by rw [BitVec.getLsbD_allOnes]; simp [hi]
  simp only [fld, setFld, place, BitVec.getLsbD_extractLsb', BitVec.getLsbD_or, BitVec.getLsbD_and, BitVec.getLsbD_not,
    BitVec.getLsbD_shiftLeft, BitVec.getLsbD_setWidth, hi, decide_true, Bool.true_and, Nat.add_sub_cancel_left, h1]
  simp [show lo + i < w by omega, show i < w by omega]

/-- The command error procedure (30 R1062). -/
theorem cmdError_effect (s : State) (c : Cerror) : CommandError c.code s (s.cmdError c) := by
  let u : State := { s with cmdCache := s.cmdCache.filter fun x => x.1 != s.curQ }
  let v : State := (u.showCons s.curQ).setIface s.curQ
    (((u.showCons s.curQ).iface s.curQ) |> fun i => { i with cmdqCons := setFld i.cmdqCons 24 c.code })
  have hu : (u.showCons s.curQ).iface s.curQ = (s.iface s.curQ).withCons (s.iface s.curQ).cmdqCons (s.iface s.curQ).cmdqCons := by
    rw [showCons_eq]
    cases s.curQ <;> rfl
  have hvi : v.iface s.curQ = (s.iface s.curQ).withCons (setFld (s.iface s.curQ).cmdqCons 24 c.code) (s.iface s.curQ).cmdqCons := by
    show (State.setIface _ _ _).iface _ = _
    rw [iface_setIface, hu]
    rfl
  have hvn : ∀ q, q ≠ s.curQ → v.iface q = s.iface q := fun q hq => by
    show (State.setIface _ _ _).iface _ = _
    rw [iface_setIface_ne _ _ _ _ hq, showCons_eq]
    cases hc : s.curQ <;> cases q <;> first | rfl | exact absurd hc.symm hq
  have hvf : v = { s with ns := v.ns, s := v.s, out := s.out ++ u.showOut s.curQ, cmdCache := u.cmdCache } := by
    have h1 : ∀ (q : Sec) (i : Iface), (u.showCons q).setIface q i =
        { s with ns := ((u.showCons q).setIface q i).ns, s := ((u.showCons q).setIface q i).s, out := s.out ++ u.showOut q,
                 cmdCache := u.cmdCache } := fun q i => by
      rw [showCons_eq]
      cases q <;> rfl
    exact h1 s.curQ _
  obtain ⟨g, l, he, h2, h3⟩ := gerrorActivate_effect v s.curQ .cmdq
  have hc : (u.showCons s.curQ).curQ = s.curQ := by
    rw [showCons_eq]
    exact setIface_curQ u _ _
  have hdef : s.cmdError c = v.gerrorActivate s.curQ .cmdq := by
    show ((u.showCons s.curQ).setIface (u.showCons s.curQ).curQ { (u.showCons s.curQ).iface (u.showCons s.curQ).curQ with
      cmdqCons := setFld ((u.showCons s.curQ).iface (u.showCons s.curQ).curQ).cmdqCons 24 c.code }).gerrorActivate
        (u.showCons s.curQ).curQ .cmdq = _
    rw [hc]
  rw [hdef]
  have hf : (v.gerrorActivate s.curQ .cmdq).iface s.curQ = (v.iface s.curQ).withGerror g := by
    rw [he, pushIrqs_iface, iface_setIface]
  have hn : ∀ q, q ≠ s.curQ → (v.gerrorActivate s.curQ .cmdq).iface q = v.iface q := fun q hq => by
    rw [he, pushIrqs_iface, iface_setIface_ne _ _ _ _ hq]
  have hb : ∀ ns a, (v.gerrorActivate s.curQ .cmdq).byte ns a = v.byte ns a := fun ns a => by
    rw [he]
    cases s.curQ <;> rfl
  have hfr : v.gerrorActivate s.curQ .cmdq =
      { v with ns := (v.gerrorActivate s.curQ .cmdq).ns, s := (v.gerrorActivate s.curQ .cmdq).s, irqs := v.irqs ++ l } := by
    have h1 : ∀ (q : Sec) (i : Iface), (v.setIface q i).pushIrqs l =
        { v with ns := ((v.setIface q i).pushIrqs l).ns, s := ((v.setIface q i).pushIrqs l).s, irqs := v.irqs ++ l } :=
      fun q i => by cases q <;> rfl
    rw [he]
    exact h1 s.curQ _
  generalize v.gerrorActivate s.curQ .cmdq = t at *
  rw [hvi] at hf h3
  have hcons : (t.iface s.curQ).cmdqCons = setFld (s.iface s.curQ).cmdqCons 24 c.code := by rw [hf]; rfl
  have hseen : (t.iface s.curQ).cmdqSeen = (s.iface s.curQ).cmdqCons := by rw [hf]; rfl
  refine ⟨?_, ?_, hseen, h2, ?_, hf.trans ?_, ?_, ?_, ⟨u.showOut s.curQ, l, ?_, ?_⟩, ?_⟩
  · rw [hcons, fld_setFld_same _ _ _ (by omega)]
  · intro n hn
    rw [hcons, bit_setFld _ _ _ _ (by omega)]
  · intro n hn
    rw [hf]
    exact h3 n hn
  · rw [hcons, hseen, hf]; rfl
  · intro q hq
    rw [hn q hq, hvn q hq]
  · intro ns a
    rw [hb ns a, hvf]
    rfl
  · rw [hfr, hvf]
  · rw [hfr, hvf]
  · rw [hfr, hvf]

/-- An ILLEGAL command takes CERROR_ILL (30 R1057, R1062). -/
theorem ill_effect (s : State) : ∃ t, ill s = .next t ∧ CommandError 1 s t := ⟨_, rfl, cmdError_effect s .ill⟩

end Sys2Proof.Machine
end

