-- ==== Sys2Proof/Laws/PerInstr.lean ====
section
/-! SUPPORT. What holds of every command as syntax, one lemma for each constructor: the low byte of a command's encoding is
the opcode of its row (30_encoding.md R1054). -/

-- The theorems of this file are checked one after another: many threads at once would need too much memory.
set_option Elab.async false
namespace Sys2Proof.Laws
open Sys2Proof.Machine

/-! ### Fields of a word built by OR -/

theorem fld_or {w : Nat} (a b : BitVec w) (lo n : Nat) : fld (a ||| b) lo n = fld a lo n ||| fld b lo n := by
  apply BitVec.eq_of_getLsbD_eq
  intro i hi
  simp [fld, hi]

theorem fld_place_above {n : Nat} (v : BitVec n) (lo : Nat) (h : 8 ≤ lo) : fld (place 128 v lo) 0 8 = 0 := by
  apply BitVec.eq_of_getLsbD_eq
  intro i hi
  simp [fld, place, hi, show i < lo by omega]

theorem fld_placeBit_above (b : Bool) (lo : Nat) (h : 8 ≤ lo) : fld (placeBit 128 b lo) 0 8 = 0 := by
  apply BitVec.eq_of_getLsbD_eq
  intro i hi
  cases b <;> simp [fld, placeBit, hi, show i < lo by omega]

theorem fld_residue (r m : CmdWord) (h : (r &&& ~~~m == 0) = true) (hm : fld m 0 8 = 0) : fld r 0 8 = 0 := by
  have h0 : r &&& ~~~m = 0 := by simpa using h
  apply BitVec.eq_of_getLsbD_eq
  intro i hi
  have h1 := congrArg (fun x => x.getLsbD i) h0
  have h2 := congrArg (fun x => x.getLsbD i) hm
  simp [fld, hi, show i < 128 by omega] at h1 h2 ⊢
  cases hr : r[i]
  · rfl
  · exact absurd (h1 hr) (by simp [h2])

namespace Opcode

/-- The opcode of a command's row. -/
def value : Instr → BitVec 8
  | .prefetchConfig _ _ _ _ _ => 0x01
  | .prefetchAddr _ _ _ _ _ _ _ _ => 0x02
  | .cfgiSte _ _ _ _ => 0x03
  | .cfgiSteRange _ _ _ _ => 0x04
  | .cfgiAll _ _ _ => 0x04
  | .cfgiCd _ _ _ _ _ => 0x05
  | .cfgiCdAll _ _ _ => 0x06
  | .tlbiNhAll _ _ => 0x10
  | .tlbiNhAsid _ _ _ => 0x11
  | .tlbiNhVa _ _ _ _ _ => 0x12
  | .tlbiNhVaa _ _ _ _ => 0x13
  | .tlbiEl3All _ => 0x18
  | .tlbiEl3Va _ _ _ => 0x1a
  | .tlbiEl2All _ => 0x20
  | .tlbiEl2Asid _ _ => 0x21
  | .tlbiEl2Va _ _ _ _ => 0x22
  | .tlbiEl2Vaa _ _ _ => 0x23
  | .tlbiS12Vmall _ _ => 0x28
  | .tlbiS2Ipa _ _ _ _ => 0x2a
  | .tlbiNsnhAll _ => 0x30
  | .atcInv _ _ _ _ _ _ _ => 0x40
  | .priResp _ _ _ _ _ _ => 0x41
  | .resume _ _ _ _ _ _ => 0x44
  | .stallTerm _ _ _ => 0x45
  | .sync _ _ _ _ _ _ => 0x46
  | .reserved w => fld w 0 8
  | .impdef w => fld w 0 8

/-- The low byte of the encoding of a well-formed command is its opcode. -/
def Statement (i : Instr) : Prop := i.wf = true → fld (encode i) 0 8 = value i

theorem prefetchConfig (ssec : Bool) (ssv : Bool) (ssid : BitVec 20) (sid : BitVec 32) (res : CmdWord) : Statement (.prefetchConfig ssec ssv ssid sid res) := by
  intro h
  have hr := fld_residue res (res0Mask (.prefetchConfig ssec ssv ssid sid res)) (by simp only [Instr.wf, Bool.and_eq_true] at h; exact h.1) (by simp only [res0Mask]; decide)
  simp [encode, fld_or, hr, fld_place_above, fld_placeBit_above]
  rfl

theorem prefetchAddr (ssec : Bool) (ssv : Bool) (ssid : BitVec 20) (sid : BitVec 32) (size : BitVec 5) (stride : BitVec 5) (addr : BitVec 52) (res : CmdWord) : Statement (.prefetchAddr ssec ssv ssid sid size stride addr res) := by
  intro h
  have hr := fld_residue res (res0Mask (.prefetchAddr ssec ssv ssid sid size stride addr res)) (by simp only [Instr.wf, Bool.and_eq_true] at h; exact h.1) (by simp only [res0Mask]; decide)
  simp [encode, fld_or, hr, fld_place_above, fld_placeBit_above]
  rfl

theorem cfgiSte (ssec : Bool) (sid : BitVec 32) (leaf : Bool) (res : CmdWord) : Statement (.cfgiSte ssec sid leaf res) := by
  intro h
  have hr := fld_residue res (res0Mask (.cfgiSte ssec sid leaf res)) (by simp only [Instr.wf, Bool.and_eq_true] at h; exact h.1) (by simp only [res0Mask]; decide)
  simp [encode, fld_or, hr, fld_place_above, fld_placeBit_above]
  rfl

theorem cfgiSteRange (ssec : Bool) (sid : BitVec 32) (range : BitVec 5) (res : CmdWord) : Statement (.cfgiSteRange ssec sid range res) := by
  intro h
  have hr := fld_residue res (res0Mask (.cfgiSteRange ssec sid range res)) (by simp only [Instr.wf, Bool.and_eq_true] at h; exact h.1) (by simp only [res0Mask]; decide)
  simp [encode, fld_or, hr, fld_place_above, fld_placeBit_above]
  rfl

theorem cfgiAll (ssec : Bool) (sid : BitVec 32) (res : CmdWord) : Statement (.cfgiAll ssec sid res) := by
  intro h
  have hr := fld_residue res (res0Mask (.cfgiAll ssec sid res)) (by simp only [Instr.wf, Bool.and_eq_true] at h; exact h.1) (by simp only [res0Mask]; decide)
  simp [encode, fld_or, hr, fld_place_above, fld_placeBit_above]
  rfl

theorem cfgiCd (ssec : Bool) (ssid : BitVec 20) (sid : BitVec 32) (leaf : Bool) (res : CmdWord) : Statement (.cfgiCd ssec ssid sid leaf res) := by
  intro h
  have hr := fld_residue res (res0Mask (.cfgiCd ssec ssid sid leaf res)) (by simp only [Instr.wf, Bool.and_eq_true] at h; exact h.1) (by simp only [res0Mask]; decide)
  simp [encode, fld_or, hr, fld_place_above, fld_placeBit_above]
  rfl

theorem cfgiCdAll (ssec : Bool) (sid : BitVec 32) (res : CmdWord) : Statement (.cfgiCdAll ssec sid res) := by
  intro h
  have hr := fld_residue res (res0Mask (.cfgiCdAll ssec sid res)) (by simp only [Instr.wf, Bool.and_eq_true] at h; exact h.1) (by simp only [res0Mask]; decide)
  simp [encode, fld_or, hr, fld_place_above, fld_placeBit_above]
  rfl

theorem tlbiNhAll (vmid : BitVec 16) (res : CmdWord) : Statement (.tlbiNhAll vmid res) := by
  intro h
  have hr := fld_residue res (res0Mask (.tlbiNhAll vmid res)) (by simp only [Instr.wf, Bool.and_eq_true] at h; exact h.1) (by simp only [res0Mask]; decide)
  simp [encode, fld_or, hr, fld_place_above]
  rfl

theorem tlbiNhAsid (vmid : BitVec 16) (asid : BitVec 16) (res : CmdWord) : Statement (.tlbiNhAsid vmid asid res) := by
  intro h
  have hr := fld_residue res (res0Mask (.tlbiNhAsid vmid asid res)) (by simp only [Instr.wf, Bool.and_eq_true] at h; exact h.1) (by simp only [res0Mask]; decide)
  simp [encode, fld_or, hr, fld_place_above]
  rfl

theorem tlbiNhVa (vmid : BitVec 16) (asid : BitVec 16) (leaf : Bool) (addr : BitVec 52) (res : CmdWord) : Statement (.tlbiNhVa vmid asid leaf addr res) := by
  intro h
  have hr := fld_residue res (res0Mask (.tlbiNhVa vmid asid leaf addr res)) (by simp only [Instr.wf, Bool.and_eq_true] at h; exact h.1) (by simp only [res0Mask]; decide)
  simp [encode, fld_or, hr, fld_place_above, fld_placeBit_above]
  rfl

theorem tlbiNhVaa (vmid : BitVec 16) (leaf : Bool) (addr : BitVec 52) (res : CmdWord) : Statement (.tlbiNhVaa vmid leaf addr res) := by
  intro h
  have hr := fld_residue res (res0Mask (.tlbiNhVaa vmid leaf addr res)) (by simp only [Instr.wf, Bool.and_eq_true] at h; exact h.1) (by simp only [res0Mask]; decide)
  simp [encode, fld_or, hr, fld_place_above, fld_placeBit_above]
  rfl

theorem tlbiEl3All (res : CmdWord) : Statement (.tlbiEl3All res) := by
  intro h
  have hr := fld_residue res (res0Mask (.tlbiEl3All res)) (by simp only [Instr.wf, Bool.and_eq_true] at h; exact h.1) (by simp only [res0Mask]; decide)
  simp [encode, fld_or, hr]
  rfl

theorem tlbiEl3Va (leaf : Bool) (addr : BitVec 52) (res : CmdWord) : Statement (.tlbiEl3Va leaf addr res) := by
  intro h
  have hr := fld_residue res (res0Mask (.tlbiEl3Va leaf addr res)) (by simp only [Instr.wf, Bool.and_eq_true] at h; exact h.1) (by simp only [res0Mask]; decide)
  simp [encode, fld_or, hr, fld_place_above, fld_placeBit_above]
  rfl

theorem tlbiEl2All (res : CmdWord) : Statement (.tlbiEl2All res) := by
  intro h
  have hr := fld_residue res (res0Mask (.tlbiEl2All res)) (by simp only [Instr.wf, Bool.and_eq_true] at h; exact h.1) (by simp only [res0Mask]; decide)
  simp [encode, fld_or, hr]
  rfl

theorem tlbiEl2Asid (asid : BitVec 16) (res : CmdWord) : Statement (.tlbiEl2Asid asid res) := by
  intro h
  have hr := fld_residue res (res0Mask (.tlbiEl2Asid asid res)) (by simp only [Instr.wf, Bool.and_eq_true] at h; exact h.1) (by simp only [res0Mask]; decide)
  simp [encode, fld_or, hr, fld_place_above]
  rfl

theorem tlbiEl2Va (asid : BitVec 16) (leaf : Bool) (addr : BitVec 52) (res : CmdWord) : Statement (.tlbiEl2Va asid leaf addr res) := by
  intro h
  have hr := fld_residue res (res0Mask (.tlbiEl2Va asid leaf addr res)) (by simp only [Instr.wf, Bool.and_eq_true] at h; exact h.1) (by simp only [res0Mask]; decide)
  simp [encode, fld_or, hr, fld_place_above, fld_placeBit_above]
  rfl

theorem tlbiEl2Vaa (leaf : Bool) (addr : BitVec 52) (res : CmdWord) : Statement (.tlbiEl2Vaa leaf addr res) := by
  intro h
  have hr := fld_residue res (res0Mask (.tlbiEl2Vaa leaf addr res)) (by simp only [Instr.wf, Bool.and_eq_true] at h; exact h.1) (by simp only [res0Mask]; decide)
  simp [encode, fld_or, hr, fld_place_above, fld_placeBit_above]
  rfl

theorem tlbiS12Vmall (vmid : BitVec 16) (res : CmdWord) : Statement (.tlbiS12Vmall vmid res) := by
  intro h
  have hr := fld_residue res (res0Mask (.tlbiS12Vmall vmid res)) (by simp only [Instr.wf, Bool.and_eq_true] at h; exact h.1) (by simp only [res0Mask]; decide)
  simp [encode, fld_or, hr, fld_place_above]
  rfl

theorem tlbiS2Ipa (vmid : BitVec 16) (leaf : Bool) (addr : BitVec 40) (res : CmdWord) : Statement (.tlbiS2Ipa vmid leaf addr res) := by
  intro h
  have hr := fld_residue res (res0Mask (.tlbiS2Ipa vmid leaf addr res)) (by simp only [Instr.wf, Bool.and_eq_true] at h; exact h.1) (by simp only [res0Mask]; decide)
  simp [encode, fld_or, hr, fld_place_above, fld_placeBit_above]
  rfl

theorem tlbiNsnhAll (res : CmdWord) : Statement (.tlbiNsnhAll res) := by
  intro h
  have hr := fld_residue res (res0Mask (.tlbiNsnhAll res)) (by simp only [Instr.wf, Bool.and_eq_true] at h; exact h.1) (by simp only [res0Mask]; decide)
  simp [encode, fld_or, hr]
  rfl

theorem atcInv (glob : Bool) (ssv : Bool) (ssid : BitVec 20) (sid : BitVec 32) (size : BitVec 6) (addr : BitVec 52) (res : CmdWord) : Statement (.atcInv glob ssv ssid sid size addr res) := by
  intro h
  have hr := fld_residue res (res0Mask (.atcInv glob ssv ssid sid size addr res)) (by simp only [Instr.wf, Bool.and_eq_true] at h; exact h.1) (by simp only [res0Mask]; decide)
  simp [encode, fld_or, hr, fld_place_above, fld_placeBit_above]
  rfl

theorem priResp (ssv : Bool) (ssid : BitVec 20) (sid : BitVec 32) (group : BitVec 9) (resp : BitVec 2) (res : CmdWord) : Statement (.priResp ssv ssid sid group resp res) := by
  intro h
  have hr := fld_residue res (res0Mask (.priResp ssv ssid sid group resp res)) (by simp only [Instr.wf, Bool.and_eq_true] at h; exact h.1) (by simp only [res0Mask]; decide)
  simp [encode, fld_or, hr, fld_place_above, fld_placeBit_above]
  rfl

theorem resume (ssec : Bool) (ac : Bool) (ab : Bool) (sid : BitVec 32) (stag : BitVec 16) (res : CmdWord) : Statement (.resume ssec ac ab sid stag res) := by
  intro h
  have hr := fld_residue res (res0Mask (.resume ssec ac ab sid stag res)) (by simp only [Instr.wf, Bool.and_eq_true] at h; exact h.1) (by simp only [res0Mask]; decide)
  simp [encode, fld_or, hr, fld_place_above, fld_placeBit_above]
  rfl

theorem stallTerm (ssec : Bool) (sid : BitVec 32) (res : CmdWord) : Statement (.stallTerm ssec sid res) := by
  intro h
  have hr := fld_residue res (res0Mask (.stallTerm ssec sid res)) (by simp only [Instr.wf, Bool.and_eq_true] at h; exact h.1) (by simp only [res0Mask]; decide)
  simp [encode, fld_or, hr, fld_place_above, fld_placeBit_above]
  rfl

theorem sync (cs : BitVec 2) (msh : BitVec 2) (msiAttr : BitVec 4) (msiData : BitVec 32) (msiAddr : BitVec 50) (res : CmdWord) : Statement (.sync cs msh msiAttr msiData msiAddr res) := by
  intro h
  have hr := fld_residue res (res0Mask (.sync cs msh msiAttr msiData msiAddr res)) (by simp only [Instr.wf, Bool.and_eq_true] at h; exact h.1) (by simp only [res0Mask]; decide)
  simp [encode, fld_or, hr, fld_place_above]
  rfl

theorem reserved (w : CmdWord) : Statement (.reserved w) := fun _ => rfl

theorem impdef (w : CmdWord) : Statement (.impdef w) := fun _ => rfl

end Opcode

end Sys2Proof.Laws
end

