-- ==== Sys2Proof/Tests/Slice0.lean ====
section
/-! SUPPORT. Small tests: every command's word from 95_test_vectors.md, Part B2; ill-formed terms refused; single steps from the
programs of Part C; and a witness for the hypotheses of every statement. -/

-- The theorems of this file are checked one after another: many threads at once would need too much memory.
set_option Elab.async false
namespace Sys2Proof.Tests
open Sys2Proof Sys2Proof.Machine

/-! ### Decoding: the entries of 95_test_vectors.md B2, their four words written out -/

/-- An entry from its words at byte offsets 12, 8, 4 and 0. -/
abbrev entry (w3 w2 w1 w0 : BitVec 32) : CmdWord := w3 ++ w2 ++ w1 ++ w0

theorem test_decode_prefetch_config : decode (entry 0x00000000 0x00000000 0x00000123 0x00005801) = .prefetchConfig false true 5 0x123 0 := by decide +kernel
theorem test_decode_prefetch_addr : decode (entry 0x00000000 0x80004002 0x00000007 0x00000002) = .prefetchAddr false false 0 7 2 0 0x80004 0 := by decide +kernel
theorem test_decode_cfgi_ste : decode (entry 0x00000000 0x00000001 0x00000025 0x00000003) = .cfgiSte false 0x25 true 0 := by decide +kernel
theorem test_decode_cfgi_ste_range : decode (entry 0x00000000 0x00000007 0x00001234 0x00000004) = .cfgiSteRange false 0x1234 7 0 := by decide +kernel
theorem test_decode_cfgi_cd : decode (entry 0x00000000 0x00000001 0x00000040 0x00003005) = .cfgiCd false 3 0x40 true 0 := by decide +kernel
theorem test_decode_cfgi_cd_all : decode (entry 0x00000000 0x00000000 0x00000040 0x00000006) = .cfgiCdAll false 0x40 0 := by decide +kernel
theorem test_decode_cfgi_all : decode (entry 0x00000000 0x0000001F 0x00000000 0x00000004) = .cfgiAll false 0 0 := by decide +kernel
theorem test_decode_cfgi_all_secure : decode (entry 0x00000000 0x0000001F 0x00000000 0x00000404) = .cfgiAll true 0 0 := by decide +kernel
theorem test_decode_tlbi_nh_all : decode (entry 0x00000000 0x00000000 0x00000021 0x00000010) = .tlbiNhAll 0x21 0 := by decide +kernel
theorem test_decode_tlbi_nh_asid : decode (entry 0x00000000 0x00000000 0x00420001 0x00000011) = .tlbiNhAsid 1 0x42 0 := by decide +kernel
theorem test_decode_tlbi_nh_vaa : decode (entry 0x0000007F 0xC0001001 0x00000002 0x00000013) = .tlbiNhVaa 2 true 0x7FC0001 0 := by decide +kernel
theorem test_decode_tlbi_nh_va : decode (entry 0x00000000 0x12345001 0x00420001 0x00000012) = .tlbiNhVa 1 0x42 true 0x12345 0 := by decide +kernel
theorem test_decode_tlbi_el3_all : decode (entry 0x00000000 0x00000000 0x00000000 0x00000018) = .tlbiEl3All 0 := by decide +kernel
theorem test_decode_tlbi_el3_va : decode (entry 0x00000000 0x00400000 0x00000000 0x0000001A) = .tlbiEl3Va false 0x400 0 := by decide +kernel
theorem test_decode_tlbi_el2_all : decode (entry 0x00000000 0x00000000 0x00000000 0x00000020) = .tlbiEl2All 0 := by decide +kernel
theorem test_decode_tlbi_el2_va : decode (entry 0x00000000 0x00200001 0x00070000 0x00000022) = .tlbiEl2Va 7 true 0x200 0 := by decide +kernel
theorem test_decode_tlbi_el2_vaa : decode (entry 0x00000000 0x00200000 0x00000000 0x00000023) = .tlbiEl2Vaa false 0x200 0 := by decide +kernel
theorem test_decode_tlbi_el2_asid : decode (entry 0x00000000 0x00000000 0x00070000 0x00000021) = .tlbiEl2Asid 7 0 := by decide +kernel
theorem test_decode_tlbi_s2_ipa : decode (entry 0x00000008 0x40003001 0x00000020 0x0000002A) = .tlbiS2Ipa 0x20 true 0x840003 0 := by decide +kernel
theorem test_decode_tlbi_s12_vmall : decode (entry 0x00000000 0x00000000 0x00000020 0x00000028) = .tlbiS12Vmall 0x20 0 := by decide +kernel
theorem test_decode_tlbi_nsnh_all : decode (entry 0x00000000 0x00000000 0x00000000 0x00000030) = .tlbiNsnhAll 0 := by decide +kernel
theorem test_decode_atc_inv : decode (entry 0x00000000 0x12345000 0x00000100 0x00000040) = .atcInv false false 0 0x100 0 0x12345 0 := by decide +kernel
theorem test_decode_pri_resp : decode (entry 0x00000000 0x0000201F 0x00000100 0x00000041) = .priResp false 0 0x100 0x1F 2 0 := by decide +kernel
theorem test_decode_resume : decode (entry 0x00000000 0x00000003 0x00000025 0x00001044) = .resume false true false 0x25 3 0 := by decide +kernel
theorem test_decode_stall_term : decode (entry 0x00000000 0x00000000 0x00000025 0x00000045) = .stallTerm false 0x25 0 := by decide +kernel
theorem test_decode_sync : decode (entry 0x00000000 0x80001000 0xCAFE0001 0x0FC01046) = .sync 1 3 15 0xCAFE0001 0x20000400 0 := by decide +kernel
theorem test_decode_reserved : decode (entry 0x00000000 0x00000000 0x00000000 0x00000007) = .reserved 7 := by decide +kernel
theorem test_decode_impdef : decode (entry 0x00000000 0x00000000 0x00000000 0x0000008F) = .impdef 0x8F := by decide +kernel

/-- The table numbering and the bytes agree with the entry: an entry of which only the low byte is given. -/
theorem test_decode_table_word : decodeTableWord 8 0x30 = some (.tlbiNsnhAll 0) := by decide +kernel

/-- RES0 bits of an entry are kept: bit 8 of CMD_TLBI_NSNH_ALL. -/
theorem test_decode_keeps_reserved_bits : decode (entry 0 0 0 0x130) = .tlbiNsnhAll 0x100 := by decide +kernel

/-! ### Well-formed commands: one ill-formed term for each check -/

theorem test_wf_residue_outside_reserved_bits : ¬ WellFormed (.tlbiNsnhAll 1) := by decide +kernel
theorem test_wf_residue_inside_reserved_bits : WellFormed (.tlbiNsnhAll 0x100) := by decide +kernel
theorem test_wf_range_thirty_one_is_cfgi_all : ¬ WellFormed (.cfgiSteRange false 0 31 0) := by decide +kernel
theorem test_wf_reserved_with_architected_opcode : ¬ WellFormed (.reserved 0x46) := by decide +kernel
theorem test_wf_impdef_with_reserved_opcode : ¬ WellFormed (.impdef 0x90) := by decide +kernel
theorem test_decode_of_short_entry : decodeBytes (List.replicate 15 0) = .error .truncated := by decide +kernel
/-! ### One step -/

/-- A field of the next state. -/
def field {α : Type} (f : State → α) : Out → Option α
  | .next t => some (f t)
  | _ => none

/-- Right after reset, with a command in the Non-secure Command queue. -/
def withCommand (w : CmdWord) : State := State.reset.withFetchWord 128 w.toNat

/-- SMMUEN, EVENTQEN and CMDQEN of both interfaces in effect, queues of four entries with one command, nothing cached. -/
def Iface.on (i : Iface) : Iface :=
  { i with cr0 := 13, cr0Eff := 13, cr0Ack := 13, cmdqBase := 0x10002, cmdqProd := 1, eventqBase := 0x20002 }
def on : State := { State.reset with ns := Iface.on State.reset.ns, s := Iface.on State.reset.s }

/-- The value of an operation on the way of a transaction, and that it has one. -/
def val {α : Type} [Inhabited α] (p : Except Flt α × State) : α := p.1.toOption.getD default
def good {α : Type} (p : Except Flt α × State) : Bool := p.1.toOption.isSome
theorem good_eq {α : Type} [Inhabited α] {p : Except Flt α × State} (h : good p = true) : p = (.ok (val p), p.2) := by
  obtain ⟨a, s⟩ := p
  cases a with
  | error _ => cases h
  | ok a => rfl

/-- The same with a command at RD of the Non-secure queue, whose turn it is. -/
def onCommand (w : CmdWord) : State := { on.store true true 0x10000 (leBytes 16 w.toNat) with turn := .cmdqNs }

/-- A read of four bytes by stream `sid`. -/
def client (id : Nat) (sid : BitVec 32) : Txn :=
  { id := id, sec := .ns, sid := sid, ssv := false, ssid := 0, addr := 0x1000, size := 4, data := [], rw := .read,
    attrs := { mt := none, sh := none, hi := none, ho := none, inst := none, priv := none, ns := none },
    cls := .plain, spec := false, translated := false, pcie := false, noSnoop := false, uut := false }

/-- Stream 8 with its STE cached, of a Config, and with Config 5 a CD of 4KB tables with 48-bit addresses, Attr0 Write-Back and a
page 0x1000 mapped to 0x5000 by stage 1; with Config 6 the same by stage 2. A read of 0x1000 is to be translated. -/
def stream (config : StructWord) : State :=
  let regs : CfgRegs := ⟨0, false, false, false, false⟩
  let s2 : StructWord := place 512 16#6 160 ||| place 512 2#2 166 ||| place 512 5#3 176 ||| place 512 1#1 179 ||| place 512 1#1 186
  let ste : CfgEnt := ⟨.ste, .ns, 8, 8, 8, 1 ||| config <<< 1 ||| s2, regs⟩
  let cd : CfgEnt := ⟨.cd, .ns, 8, 0, 0, place 512 0xFF#8 192 ||| 0x6205_C0000010, regs⟩
  let leaf (d : W64) : Leaf := ⟨d, 0, false, false, true, 0x5000, 12, 12, 3, true⟩
  let s : State := { on with cfgCache := [ste, cd] }
  let c : Ctx := { s.ctx .ns 8 ste.data regs with cd := cd.data }
  { s with agenda := [.process 0], inFlight := [⟨client 1 8, .accepted⟩]
           tlb := [s.tlbEntry c 0x1000 (some (leaf 0x5743)) none, s.tlbEntry { c with cd := 0 } 0x1000 none (some (leaf 0x57FF))] }

/-- The address of a transaction that is ready to go. -/
def readyPa (t : State) : List Nat :=
  t.inFlight.filterMap fun f => match f.stage with | .ready w _ _ => some w.pa | _ => none

/-- A RAS group with one record that holds an error of a status. -/
def rasWith (status : W64) : RasGroup :=
  { RasGroup.default true with recs := [{ first := 0, fr := 0x1A2, ctlr := 1, status := status, addr := 7, misc0 := 0, misc1 := 0 }] }
def rasError (typ : RasType) : RasErr :=
  { typ := typ, rw := .read, pn := false, ierr := 2, serr := 6, addr := some 0x1000, misc := none, sameLoc := false }

/-- A stalled transaction of stream 8 with a tag. -/
def stall (tag : BitVec 16) : Stall :=
  { txn := client 5 8, stag := some tag, parent := none, recorded := true, stale := false, act := none, serial := tag.toNat }

/-- 52 R1560: of ERRFR with ED 3, DUI and CFI 1, CEC 7, CEO 3 and RP 1 only UI, UE and FI stand, and ED is a defined encoding. -/
theorem test_ras_feature : ({ (rasWith 0).recs.head! with fr := 0xDF6A3 } : RasRec).feature = 0x2A1 := by decide +kernel

/-- 20 R462: the second empty location of the Event queue is written ahead, and PROD stands. -/
theorem test_event_written_ahead :
    field (fun t => (t.out.filterMap (fun o => match o with | .bus .eventq .write _ pa n _ => some (pa, n) | _ => none), t.ns.eventqProd))
      (step { on with agenda := [.writeEventq .ns 1] }) = some ([(0x20020, 32)], 0#32) := by
  decide +kernel

/-- 60 R1682 with 43 R1244: the record of a withdrawn stall is dropped; its tag is free and its duplicate is retried. -/
theorem test_withdrawn_stall :
    let s : State := { on with stalled := [{ stall 0 with stag := none, parent := some 0, recorded := false }], stags := [⟨.ns, 8, 0, 7⟩]
                               eventsNs := [{ ev := 0, stag := some 0, mev := false, serial := 7 }] }
    ((s.staleStalls .ns).stalled.map (·.act), (s.staleStalls .ns).stags, (s.staleStalls .ns).eventsNs) = ([some .retry], [], []) := by
  decide +kernel

/-- 95_test_vectors.md P2, step 2: the Reserved opcode 0x07. -/
theorem test_step_reserved : field (fun t => (t.ns.cmdqCons, t.ns.gerror)) (step (withCommand 0x07)) = some (0x01000000#32, 1#32) := by
  decide +kernel

/-- 30_encoding.md R1058 with the default P_IMPDEF_CMDS. -/
theorem test_step_impdef : field (fun t => (t.ns.cmdqCons, t.ns.gerror)) (step (withCommand 0x8F)) = some (0x01000000#32, 1#32) := by
  decide +kernel

/-- P1, steps 7 to 9: each command pends one invalidation and RD moves on. -/
theorem test_step_cfgi_all :
    field (fun t => (t.ns.cmdqCons, t.pendingInval.map (·.scope))) (step (withCommand (entry 0 0x1F 0 4))) =
      some (1#32, [.ste .ns 0 0xFFFFFFFF true]) := by
  decide +kernel
theorem test_step_tlbi_nsnh_all :
    field (fun t => (t.ns.cmdqCons, t.pendingInval.length)) (step (withCommand 0x30)) = some (1#32, 1) := by decide +kernel
theorem test_step_tlbi_el2_all :
    field (fun t => (t.ns.cmdqCons, t.pendingInval.length)) (step (withCommand 0x20)) = some (1#32, 1) := by decide +kernel

/-- 40_cmd_prefetch_cfgi.md R1115: StreamIDs 0x1200 to 0x12FF. -/
theorem test_step_cfgi_ste_range :
    field (fun t => t.pendingInval.map (·.scope)) (step (onCommand (entry 0 7 0x1234 4))) = some [.ste .ns 0x1200 0x12FF true] := by
  decide +kernel

/-- 41_cmd_tlbi.md R1164: on the Non-secure Command queue CERROR_ILL. -/
theorem test_step_tlbi_el3_all : field (fun t => (t.ns.cmdqCons, t.pendingInval)) (step (withCommand 0x18)) = some (0x01000000#32, []) := by
  decide +kernel

/-- 40_cmd_prefetch_cfgi.md R1103, R1105: without and with SMMUEN. -/
theorem test_step_prefetch_config_disabled :
    field (fun t => (t.ns.cmdqCons, t.prefetches)) (step (withCommand (entry 0 0 0x123 0x5801))) = some (1#32, []) := by decide +kernel
theorem test_step_prefetch_addr :
    field (fun t => t.prefetches) (step (onCommand (entry 0 0x80004002 7 2))) =
      some [{ sec := .ns, sid := 7, ssid := none, addr := some (0x80004000, 2, 0) }] := by
  decide +kernel

/-- 42_cmd_ats_pri.md R1203, R1204; 60_exceptions.md R1761. -/
theorem test_step_atc_inv :
    field (fun t => t.atcNs.map fun r => (r.sid, r.pasid, r.addr)) (step (onCommand (entry 0 0x12345000 0x100 0x40))) =
      some [(0x100#32, none, 0x12345000#64)] := by
  decide +kernel
theorem test_step_pri_resp :
    field (fun t => t.out.drop 1) (step (onCommand (entry 0 0x201F 0x100 0x41))) = some [.prgResponse 0x100 none 0x1F 0b0000] := by
  decide +kernel

/-- P4, step 5, and its variants: CMD_RESUME with Retry, and with Ac 0 and Ab 1. -/
theorem test_step_resume_retry :
    field (fun t => (t.stalled.map (·.act), t.stags))
      (step { onCommand (entry 0 0 8 0x1044) with stalled := [stall 0], stags := [⟨.ns, 8, 0, 0⟩] }) = some ([some .retry], []) := by
  decide +kernel
theorem test_step_resume_abort :
    field (fun t => t.stalled.map (·.act)) (step { onCommand (entry 0 0 8 0x2044) with stalled := [stall 0] }) = some [some .abort] := by
  decide +kernel

/-- 43_cmd_fault_sync.md R1233: a transaction of another stream stays as it is. -/
theorem test_step_stall_term_other_stream :
    field (fun t => t.stalled) (step { onCommand (entry 0 0 9 0x45) with stalled := [stall 0], stags := [⟨.ns, 8, 0, 0⟩] }) = some [stall 0] := by
  decide +kernel

/-- 43_cmd_fault_sync.md R1240: the MSI of B2's CMD_SYNC waits to be delivered before the wired pulse; delivered, least
significant byte first (60_exceptions.md R1716). -/
theorem test_step_sync_msi :
    field (fun t => t.irqs.map Irq.src) (step (withCommand (entry 0 0x80001000 0xCAFE0001 0x0FC01046))) =
      some [.cmdSync .ns, .cmdSync .ns] := by
  decide +kernel
theorem test_step_send_msi :
    field (fun t => (t.load true 0x80001000 4, t.irqs))
      (step { on with agenda := [.sendIrq 0], irqs := [.msi (.cmdSync .ns) true 0x80001000 0xCAFE0001 (msiAttrs 15 3 true)] }) =
      some ([0x01, 0x00, 0xFE, 0xCA], []) := by
  decide +kernel

/-- P1, step 10: CMD_SYNC completes what is pending and raises no signal. -/
theorem test_step_sync_completes :
    field (fun t => (t.ns.cmdqCons, t.pendingInval)) (step { withCommand 0x46 with pendingInval := [⟨some .ns, .ste .ns 0 7 true, none, none⟩] }) =
      some (1#32, []) := by
  decide +kernel

/-- P3, step 2: StreamID outside the Stream table with RECINVSID. -/
theorem test_step_bad_stream :
    field (fun t => (t.out, t.eventsNs.length))
      (step { on with ns := { on.ns with cr2Eff := 2 }, agenda := [.process 0], inFlight := [⟨client 1 0x40, .accepted⟩] }) =
      some ([.abort 1], 1) := by
  decide +kernel

/-- 23_translation.md R830, R842: bypassed, translated by stage 1, by stage 2. -/
theorem test_step_stream_bypass : field readyPa (step (stream 4)) = some [0x1000] := by decide +kernel
theorem test_step_stream_stage1 : field readyPa (step (stream 5)) = some [0x5000] := by decide +kernel
theorem test_step_stream_stage2 : field readyPa (step (stream 6)) = some [0x5000] := by decide +kernel

/-- 52_ras.md R1525, R1527: UEU over a Corrected error is written, with V, UE, ER (ERRFR.UE is 0b01), UET 0b01, AV, IERR and SERR; a Deferred error over
UEU sets DE only. The population that R1510 names meets its constraints. -/
theorem test_step_ras_overwrite :
    field (fun t => t.ras.map fun g => g.recs.map fun r => (r.status &&& ~~~(maskOf 64 24 2), r.addr))
      (step { on with ras := [rasWith 0x42000009], agenda := [.rasError 0 0 (rasError .ueu)] }) = some [[(0xF0100206#64, 0x1000#64)]] := by
  decide +kernel
theorem test_step_ras_keep :
    field (fun t => t.ras.map fun g => g.recs.map fun r => (r.status &&& ~~~(maskOf 64 27 1), r.addr))
      (step { on with ras := [rasWith 0x60100009], agenda := [.rasError 0 0 (rasError .de)] }) = some [[(0x60900009#64, 7#64)]] := by
  decide +kernel
theorem test_ras_default : ({ State.reset with ras := [RasGroup.default true] } : State).rasConsistent = true := by decide +kernel

/-- P2, step 5: the acknowledgement of a command error. -/
theorem test_step_acknowledge :
    field (fun t => (t.ns.gerror, t.ns.gerrorn))
      (step { on with ns := { on.ns with gerror := 1 }, agenda := [.regWrite .ns 0x64 4 1] }) = some (1#32, 1#32) := by
  decide +kernel

/-- 95_test_vectors.md B1, QS 3. -/
theorem test_queue_valid : (qEmpty 4 0 3, qFull 8 0 3, qFull 0xF 7 3, qInconsistent 9 6 3) = (false, true, true, false) := by decide +kernel
theorem test_queue_inconsistent : (qInconsistent 0xB 1 3, qInconsistent 1 3 3) = (true, true) := by decide +kernel
theorem test_queue_increment : (qInc 6 3, qInc 7 3, qInc 0xF 3, qInc 1 0) = (7#32, 8#32, 0#32, 0#32) := by decide +kernel
/-! ### Witnesses: states and operands that meet the hypotheses of each statement, one for each clause -/

/-- The abort ranges and other parameters changed. -/
abbrev withImpl (s : State) (f : Impl → Impl) : State := { s with impl := f s.impl }
abbrev withIds (s : State) (f : IdRegs → IdRegs) : State := { s with ids := f s.ids }
abbrev withNs (s : State) (f : Iface → Iface) : State := { s with ns := f s.ns }

/-- 22 R714, R716: an AArch32 CD with T0SZ 7 and EPD0, with T1SZ 1 and EPD1 and without it, and the VA 0x80000000. -/
theorem test_ignored_txsz :
    let at2G := fun c => State.reset.s1Select .nsEL1 c 0x80000000
    (at2G 0x4007, at2G 0x40010000, at2G 0x10000) =
      (some (false, 32, 0x80000000), some (false, 32, 0x80000000), some (true, 31, 0x80000000)) := by decide +kernel
/-- 21 R561, R620: without stages 1 and 2 a bypass STE with S1STALLD and S2R is valid under the RES0 check, but not with bit 52. -/
theorem test_ignored_not_illegal :
    let s := withIds (withImpl State.reset fun p => { p with structRes0Check := true }) fun x => { x with idr0 := 0 }
    let ste := 9#512 ||| place 512 1#1 91 ||| place 512 1#1 186
    (s.steIllegal .ns ste, s.steIllegal .ns (ste ||| place 512 1#1 52)) = (false, true) := by decide +kernel
/-- 51 R1405: a write of CR that changes it leaves the old configuration to the transaction in flight, another one leaves nothing. -/
theorem test_past_configuration :
    let s : State := { State.reset with inFlight := [⟨client 1 8, .accepted⟩] }
    let kept := fun w => (s.pmcgWriteWord 0 false .s 0xE04 w).pmcgPast.map fun p => (p.txn.id, p.group, p.was.cr)
    (kept 1, kept 0) = ([(1, 0, 0)], []) := by decide +kernel
/-- 51 R1450, 10 R107: the bits that exist of IRQ_CFG0, IRQ_CFG1 and IRQ_CFG2 with an OAS of 48 bits. -/
theorem test_pmcg_msi_bits :
    [0xE58, 0xE5C, 0xE60, 0xE64].map (Pmcg.default.msiWordMask 48) = [0xFFFFFFFC#32, 0xFFFF#32, 0xFFFFFFFF#32, 0x3F#32] := by
  decide +kernel
/-- 26 R913: a PCIe transaction that names no attributes is shareable, another one is not (24 R955). -/
theorem test_pcie_input :
    let sh := fun b => ({ client 1 8 with pcie := b }.inAttrs Impl.default).sh
    (sh true == .nsh, sh false) = (false, .nsh) := by decide +kernel

theorem witness_DecodeOfEncode : WellFormed (.resume true false true 0xFFFFFFFF 0xFFFF 0) := by decide +kernel

theorem witness_DecodeOfCommandBytes :
    WellFormed (.sync 2 3 15 0xFFFFFFFF 0x3FFFFFFFFFFFF 0) ∧ (List.replicate 15 (0 : Byte)).length < 16 := by decide +kernel

theorem witness_ImplementationDefinedOpcodes :
    fld (0x8F : CmdWord) 0 8 ∉ State.reset.impl.impdefCmds ∧
    fld (0x80 : CmdWord) 0 8 ∈ (withImpl State.reset fun p => { p with impdefCmds := [0x80] }).impl.impdefCmds := by decide +kernel

theorem witness_StepRunsDecodedCommand :
    (onCommand 0x30).agenda = [] ∧ (onCommand 0x30).off = false ∧ (onCommand 0x30).turn = queueTurn .ns ∧ (onCommand 0x30).fetches .ns ∧
    (onCommand 0x30).aborts .cmdq true ((onCommand 0x30).headAddr .ns) 16 = false ∧
    (onCommand 0x30).pcieSpace true ((onCommand 0x30).headAddr .ns) 16 = false ∧
    decodeBytes ((onCommand 0x30).load true ((onCommand 0x30).headAddr .ns) 16) = .ok (.tlbiNsnhAll 0, []) ∧
    WellFormed (.tlbiNsnhAll 0) :=
  ⟨rfl, rfl, rfl, ⟨by decide +kernel, rfl, by decide +kernel, by decide +kernel⟩, by decide +kernel⟩

/-- The turn of the Secure queue, whose memory is zero: the command at RD is the Reserved opcode 0; and a copy read ahead. -/
theorem witness_TurnRunsDecodedCommand :
    ({ on with agenda := [.runCmdq .s] } : State).off = false ∧ ({ on with agenda := [.runCmdq .s] } : State).fetches .s ∧
    on.aborts .cmdq false (on.headAddr .s) 16 = false ∧ on.pcieSpace false (on.headAddr .s) 16 = false ∧
    decodeBytes (on.load false (on.headAddr .s) 16) = .ok (.reserved 0, []) ∧ WellFormed (.reserved 0) ∧
    on.cmdqReady .ns = true ∧ qInconsistent (on.iface .ns).cmdqProd (on.iface .ns).cmdqCons (on.cmdqs .ns) = false ∧
    ({ on with cmdCache := [(.ns, 0, 0x30)] } : State).cmdCache = [(.ns, qPos (on.iface .ns).cmdqCons (on.cmdqs .ns), 0x30)] :=
  ⟨rfl, ⟨by decide +kernel, rfl, by decide +kernel, by decide +kernel⟩, by decide +kernel⟩

theorem witness_FetchAbortIsCommandError :
    let s := withImpl { on with agenda := [.runCmdq .ns] } fun p => { p with abortRanges := [⟨true, 0x1000F, 1, [.cmdq]⟩] }
    s.off = false ∧ s.fetches .ns ∧ s.aborts .cmdq true (s.headAddr .ns) 16 = true :=
  ⟨rfl, ⟨by decide +kernel, rfl, by decide +kernel, by decide +kernel⟩, by decide +kernel⟩

theorem witness_StoppedQueueExecutesNothing :
    State.reset.cmdqen .ns = false ∧ State.reset.cmdqEmpty .s = true ∧
    ((withNs on fun i => { i with gerror := 1 }).iface .ns).gerrActive .cmdq = true ∧ ({ on with sfm := true } : State).sfm = true ∧
    (withIds on fun r => { r with sidr1 := 0 }).secureImpl = false := by decide +kernel

/-- The StreamID and SubstreamID at the top of their ranges. -/
theorem witness_PrefetchIsRequested :
    on.sec false = some .ns ∧ on.res0Ok 0 0 ∧ on.smmuen on.curQ = true ∧ (0xFFFFFFFF : BitVec 32).toNat < 2 ^ on.sidSize .ns ∧
    on.ssidSize ≠ 0 ∧ (0xFFFFF : BitVec 20).toNat < 2 ^ on.ssidSize ∧ on.v31 = true ∧
    (withIds on fun r => { r with aidr := 0 }).v31 = false ∧ on.impl.v30StrideIll = false :=
  ⟨by decide +kernel, rfl, by decide +kernel⟩

theorem witness_PrefetchWhileDisabled :
    State.reset.sec false = some .ns ∧ State.reset.res0Ok 0 0 ∧ State.reset.smmuen State.reset.curQ = false :=
  ⟨by decide +kernel, rfl, by decide +kernel⟩

theorem witness_PrefetchRecordsNothing :
    let s : State := { on with agenda := [.prefetch 0 0], prefetches := [{ sec := .ns, sid := 7, ssid := none, addr := some (0x80004000, 2, 0) }] }
    s.agenda = .prefetch 0 0 :: [] ∧ s.off = false := ⟨rfl, rfl⟩

theorem witness_CfgiSteIsAccepted :
    ({ on with curQ := .s } : State).sec true = some .s ∧ on.res0Ok 0 0 ∧ (0xFFFFFFFF : BitVec 32).toNat < 2 ^ on.sidSize .s :=
  ⟨by decide +kernel, rfl, by decide +kernel⟩

/-- Range 30 with the StreamID at the top. -/
theorem witness_CfgiRangeIsAccepted :
    on.sec false = some .ns ∧ on.res0Ok 0 0 ∧
    (0xFFFFFFFF : BitVec 32).toNat - (0xFFFFFFFF : BitVec 32).toNat % 2 ^ ((30 : BitVec 5).toNat + 1) < 2 ^ on.sidSize .ns :=
  ⟨by decide +kernel, rfl, by decide +kernel⟩

theorem witness_CfgiCdIsAccepted :
    on.s1p = true ∧ on.sec false = some .ns ∧ on.res0Ok 0 0 ∧ (0xFFFFFFFF : BitVec 32).toNat < 2 ^ on.sidSize .ns ∧
    (0xFFFFF : BitVec 20).toNat < 2 ^ on.ssidSize :=
  ⟨by decide +kernel, by decide +kernel, rfl, by decide +kernel⟩

/-- VMID matched; VMID not matched and zero; not matched and not zero. -/
theorem witness_TlbiNonHypIsAccepted :
    on.s1p = true ∧ on.res0Ok 0 0 ∧ on.useVmid = true ∧
    (¬ (({ on with curQ := .s } : State).useVmid = true ∨ (1 : BitVec 16) = 0)) ∧
    (({ on with curQ := .s } : State).useVmid = true ∨ (0 : BitVec 16) = 0) :=
  ⟨by decide +kernel, rfl, by decide +kernel⟩

/-- E2H known and UNKNOWN. -/
theorem witness_TlbiRegimeIsAccepted :
    ({ on with curQ := .s } : State).s1p = true ∧ ({ on with curQ := .s } : State).res0Ok 0 0 ∧
    ({ on with curQ := .s } : State).curQ = .s ∧ ({ on with curQ := .s } : State).hyp = true ∧ on.e2hUnknown = false ∧
    ({ on with e2hWritten := true } : State).e2hUnknown = true :=
  ⟨by decide +kernel, rfl, by decide +kernel⟩

/-- E2H in effect, 0 and 1; E2H UNKNOWN. -/
theorem witness_TlbiElTwoVaIsAccepted :
    on.s1p = true ∧ on.hyp = true ∧ on.res0Ok 0 0 ∧ on.e2hUnknown = false ∧ on.e2h = false ∧
    (withNs on fun i => { i with cr2 := 1, cr2Eff := 1 }).e2hUnknown = false ∧ (withNs on fun i => { i with cr2 := 1, cr2Eff := 1 }).e2h = true ∧
    ({ on with e2hWritten := true } : State).e2hUnknown = true :=
  ⟨by decide +kernel, by decide +kernel, rfl, by decide +kernel⟩

theorem witness_TlbiStageTwoIsAccepted : on.s2p = true ∧ on.res0Ok 0 0 ∧ on.res0Ok 0 (v30Ipa 0xFFFFFFFFFF) :=
  ⟨by decide +kernel, rfl, rfl⟩

/-- A CMD_CFGI_STE that is pending: a transaction with the STE that waits downstream, and none; then one that took effect and
waits for a transaction, under way and answered; that of an ATS invalidation likewise; a synchronisation alone, and behind a
broadcast operation; INV_ALL. -/
theorem witness_InvalidationCompletes :
    let e : CfgEnt := ⟨.ste, .ns, 8, 8, 8, 1, ⟨0, false, false, false, false⟩⟩
    let f : Flight := ⟨client 1 8, .issued ⟨.ns, 8, .plain, .read, 0x1000, msiAttrs 15 3 true, false⟩ [e] []⟩
    let i : Inval := { origin := some .ns, scope := .ste .ns 0 8 true, subset := none, wait := none }
    let b : Inval := { origin := none, scope := .dvmSync 3, subset := none, wait := none }
    let s (l : List Inval) : State := { on with agenda := [.completeInval 0], pendingInval := l, inFlight := [f], cfgCache := [e] }
    (s [i]).off = false ∧ (s [i]).pendingInval[0]? = some i ∧ (∀ id, i.scope ≠ .dvmSync id) ∧ i.wait = none ∧
    (∃ f ∈ (s [i]).inFlight, (s [i]).waitedFor i f = true) ∧ (∀ f ∈ on.inFlight, on.waitedFor i f = false) ∧
    (let j := { i with wait := some [f] }
     (s [j]).pendingInval[0]? = some j ∧ (∀ sid, j.scope ≠ .atc sid) ∧ (∃ f ∈ [f], f ∈ (s [j]).inFlight) ∧ ∀ f ∈ [f], f ∉ on.inFlight) ∧
    (let j := { i with scope := .atc 8, wait := some [f] }
     (s [j]).pendingInval[0]? = some j ∧ (∀ id, j.scope ≠ .dvmSync id) ∧ (∃ x ∈ [f], ∃ g ∈ (s [j]).inFlight, g.txn = x.txn) ∧
       ∀ x ∈ [f], ∀ g ∈ on.inFlight, g.txn ≠ x.txn) ∧
    (s [b]).pendingInval[0]? = some b ∧ b.scope = .dvmSync 3 ∧ (∀ j ∈ (s [b]).pendingInval.take 0, j.origin ≠ none) ∧
    (∃ j ∈ (s [{ i with origin := none }, b]).pendingInval.take 1, j.origin = none) ∧
    ({ on with agenda := [.completeInit], sInit := true } : State).sInit = true := by
  refine ⟨rfl, rfl, fun _ h => (by cases h), rfl, ?_, ?_,
    ⟨rfl, fun _ h => (by cases h), ⟨_, List.mem_singleton.2 rfl, List.mem_singleton.2 rfl⟩, fun _ _ h => List.not_mem_nil h⟩,
    ⟨rfl, fun _ h => (by cases h), ⟨_, List.mem_singleton.2 rfl, _, List.mem_singleton.2 rfl, rfl⟩,
      fun _ _ _ h => absurd h List.not_mem_nil⟩, rfl, rfl, ?_, ?_, rfl⟩ <;> decide +kernel

/-- The greatest Size; a system without ATS. -/
theorem witness_AtcInvSendsRequest :
    on.ats = true ∧ (¬ (on.curQ = .s ∧ on.sams = true)) ∧ on.res0Ok 0 0 ∧ (52 : BitVec 6).toNat ≤ 52 ∧ on.impl.sysAts = true ∧
    on.smmuen .ns = true ∧ on.smmuen on.curQ = true ∧ (0xFFFFFFFF : BitVec 32).toNat < 2 ^ on.sidSize .ns ∧ on.ssidSize ≠ 0 ∧
    (0xFFFFF : BitVec 20).toNat < 2 ^ on.ssidSize ∧ (withImpl on fun p => { p with sysAts := false }).impl.sysAts = false ∧
    State.reset.smmuen .ns = false :=
  ⟨by decide +kernel, by decide +kernel, rfl, by decide +kernel⟩

theorem witness_PriRespSendsResponse :
    on.pri = true ∧ (2 : BitVec 2) ≠ 3 ∧ (¬ (on.curQ = .s ∧ on.sams = true)) ∧ on.res0Ok 0 0 ∧ on.impl.sysPri = true ∧
    on.smmuen .ns = true ∧ on.smmuen on.curQ = true ∧ (0xFFFFFFFF : BitVec 32).toNat < 2 ^ on.sidSize .ns ∧ on.ssidSize ≠ 0 ∧
    (0xFFFFF : BitVec 20).toNat < 2 ^ on.ssidSize ∧ (withImpl on fun p => { p with sysPri := false }).impl.sysPri = false ∧
    State.reset.smmuen .ns = false :=
  ⟨by decide +kernel, by decide +kernel, by decide +kernel, rfl, by decide +kernel⟩

/-- Two stalled transactions of a stream: the second is named; then a tag that none holds. -/
def twoStalls : State := { on with stalled := [stall 0, stall 3], stags := [⟨.ns, 8, 0, 0⟩, ⟨.ns, 8, 3, 3⟩] }

theorem witness_ResumeMarksStall :
    twoStalls.noStall = false ∧ twoStalls.sec false = some .ns ∧ twoStalls.res0Ok 0 0 ∧ (8 : BitVec 32).toNat < 2 ^ twoStalls.sidSize .ns ∧
    twoStalls.stalled[1]? = some (stall 3) ∧ (stall 3).isOf .ns 8 3 ∧ (stall 3).recorded = true ∧ (stall 3).act = none ∧
    (∀ m y, twoStalls.stalled[m]? = some y → y.isOf .ns 8 3 → m = 1) ∧
    ∀ x ∈ twoStalls.stalled, ¬ x.isOf .ns 8 1 ∧ ¬ (x.parent = some 1 ∧ x.txn.sec = .ns ∧ x.txn.sid = 8) := by
  refine ⟨by decide +kernel, by decide +kernel, rfl, by decide +kernel, rfl, ⟨rfl, rfl, rfl⟩, rfl, rfl, ?_, ?_⟩
  · intro m y hm hy
    match m, hm with
    | 0, hm => cases hm; exact absurd hy.2.2 (by decide)
    | 1, _ => rfl
    | _ + 2, hm => cases hm
  · unfold Stall.isOf
    decide +kernel

/-- The greatest StreamID, of either Security state. -/
theorem witness_StallTermCompletes :
    twoStalls.noStall = false ∧ (twoStalls.curQ = .s ∨ false = false) ∧ twoStalls.res0Ok 0 0 ∧
    (0xFFFFFFFF : BitVec 32).toNat < 2 ^ twoStalls.sidSize .ns ∧
    ({ twoStalls with curQ := .s } : State).noStall = false ∧ ({ twoStalls with curQ := .s } : State).curQ = .s ∧
    (0xFFFFFFFF : BitVec 32).toNat < 2 ^ ({ twoStalls with curQ := .s } : State).sidSize .s :=
  ⟨by decide +kernel, .inr rfl, rfl, by decide +kernel⟩

/-- The stream's STE is cached with Config 0b000, in memory it is not valid; and a stalled transaction of another stream. -/
theorem witness_StallTermMarksStream :
    twoStalls.noStall = false ∧ twoStalls.sec false = some .ns ∧ twoStalls.res0Ok 0 0 ∧ (8 : BitVec 32).toNat < 2 ^ twoStalls.sidSize .ns ∧
    twoStalls.stalled[1]? = some (stall 3) ∧ ((stall 3).txn.sec = .ns ∧ (stall 3).txn.sid = 8) ∧
    ({ twoStalls with cfgCache := [⟨.ste, .ns, 8, 8, 8, 1, ⟨0, false, false, false, false⟩⟩] } : State).streamTerminates .ns 8 = true ∧
    ¬ ((stall 3).txn.sec = .ns ∧ (stall 3).txn.sid = 9) :=
  ⟨by decide +kernel, by decide +kernel, rfl, by decide +kernel⟩

/-- 43 R1233: the update of an STE needs its invalidation, which came after it, and the CMD_SYNC of the same queue. -/
theorem test_stall_term_needs_maintenance :
    let s (l : List SteEvent) : State := { withNs twoStalls fun i => { i with strtabCfg := 4 } with steLog := l }
    let w : SteEvent := .wrote true 0x200 8
    (s [w]).streamTerminates .ns 8 = false ∧ (s [w, .inval .ns .ns 8 8 false]).streamTerminates .ns 8 = false ∧
    (s [w, .inval .ns .ns 8 8 false, .synced .ns]).streamTerminates .ns 8 = true ∧
    (s [.inval .ns .ns 8 8 false, w, .synced .ns]).streamTerminates .ns 8 = false := by decide +kernel

theorem witness_MarkedStallIsTerminated :
    let s (a : Option StallAct) : State := { on with agenda := [.resolveStall 0], stalled := [{ stall 0 with act := a }] }
    (s none).off = false ∧ (stall 0).txn.cls ≠ .nwDcp ∧ (s (some .abort)).stalled[0]? = some { stall 0 with act := some .abort } ∧
    (s (some .razwi)).stalled[0]? = some { stall 0 with act := some .razwi } ∧
    (s (some .retry)).stalled[0]? = some { stall 0 with act := some .retry } ∧ (s none).secureImpl = true ∧ (s none).ats = true ∧
    (s none).stalled[0]? = some (stall 0) ∧ (stall 0).stale = false ∧ (s none).sfm = false ∧
    ({ s none with sfm := true } : State).sfm = true := by
  decide +kernel

theorem witness_SyncCompletesInvalidations :
    (2 : BitVec 2) ≠ 3 ∧ on.res0Ok 0 (v30Msi 0) ∧ on.atcTimedOut = false ∧ on.atc on.curQ = [] ∧ on.sfm = false ∧
    (let i : Inval := { origin := some .ns, scope := .ste .ns 0 8 true, subset := none, wait := none }
     let e : CfgEnt := ⟨.ste, .ns, 8, 8, 8, 1, ⟨0, false, false, false, false⟩⟩
     let w : Fwd := ⟨.ns, 8, .plain, .read, 0x1000, msiAttrs 15 3 true, false⟩
     let s (st : Stage) : State := { on with pendingInval := [i], inFlight := [⟨client 1 8, st⟩], cfgCache := [e] }
     (∀ f ∈ (s (.ready w [e] [])).inFlight, ∀ w cfg tlb, f.stage ≠ .issued w cfg tlb) ∧
     (∀ i ∈ (s (.ready w [e] [])).pendingInval, i.origin = some on.curQ → ∀ l, i.wait = some l →
       ∀ f ∈ l, ∀ g ∈ (s (.ready w [e] [])).inFlight, g.txn ≠ f.txn) ∧
     (∃ f ∈ (s (.issued w [e] [])).inFlight, ∃ i ∈ (s (.issued w [e] [])).pendingInval,
       i.origin = some on.curQ ∧ i.wait = none ∧ (s (.issued w [e] [])).waitedFor i f = true) ∧
     (let f : Flight := ⟨client 1 8, .issued w [e] []⟩
      let u : State := { s (.issued w [e] []) with pendingInval := [{ i with scope := .atc 8, wait := some [f] }] }
      ∃ f ∈ u.inFlight, ∃ i ∈ u.pendingInval, i.origin = some on.curQ ∧
        ∃ sid l, i.scope = .atc sid ∧ i.wait = some l ∧ ∃ g ∈ l, f.txn = g.txn)) := by
  refine ⟨by decide, rfl, by decide +kernel, rfl, rfl, ?_, ?_, ?_, ?_⟩
  · intro f hf w cfg tlb h
    cases List.mem_singleton.1 hf
    cases h
  · intro i hi _ l h
    cases List.mem_singleton.1 hi
    cases h
  · exact ⟨_, List.mem_singleton.2 rfl, _, List.mem_singleton.2 rfl, rfl, rfl, by decide +kernel⟩
  · exact ⟨_, List.mem_singleton.2 rfl, _, List.mem_singleton.2 rfl, rfl, _, _, rfl, rfl, _, List.mem_singleton.2 rfl, rfl⟩

/-- Each signal; the MSI at the top of the address field, and its delivery and that of a pulse. -/
theorem witness_SyncSignals :
    (0 : BitVec 2) ≠ 3 ∧ (1 : BitVec 2) ≠ 3 ∧ (2 : BitVec 2) ≠ 3 ∧ on.res0Ok 0 (v30Msi 0x3FFFFFFFFFFFF) ∧ on.atcTimedOut = false ∧
    on.atc on.curQ = [] ∧ on.eventsNs = [] ∧ on.eventsS = [] ∧ (∀ i ∈ on.pendingInval, i.origin ≠ some on.curQ) ∧
    (∀ x ∈ on.irqs, x.isSyncMsi on.curQ = false) ∧ on.msi on.curQ = true ∧
    (let a : W64 := 0xFFFFFFFFFFFFC
     let l : List Irq := [.msi (.cmdSync .ns) true a 1 (msiAttrs 0 0 true), .wired .priq]
     let s : State := { on with irqs := l, agenda := [.sendIrq 0] }
     s.agenda = .sendIrq 0 :: [] ∧ s.off = false ∧ s.irqs[0]? = some (.msi (.cmdSync .ns) true a 1 (msiAttrs 0 0 true)) ∧
     s.irqs[1]? = some (.wired .priq) ∧ s.aborts .msi true (a.toNat % 2 ^ s.oas) 4 = false) :=
  ⟨by decide, by decide, by decide, rfl, by decide +kernel⟩

theorem witness_SyncMemoryFrame :
    Memory.wf (withCommand 0x46).mem = true ∧ Memory.wf (withCommand 0x46).internal = true ∧ (field State.draw (exec (.sync 1 3 15 0xCAFE0001 0x20000400 0) (withCommand 0x46))).isSome = true := by
  decide +kernel

/-- A request outstanding; timed out, with and without the report. -/
theorem witness_SyncWaitsForInvalidateRequests :
    let r : AtcReq := { sid := 1, pasid := none, glob := false, addr := 0, size := 0 }
    let s : State := { on with atcNs := [r] }
    let late : State := { s with atcNsLate := [r] }
    (0 : BitVec 2) ≠ 3 ∧ s.res0Ok 0 (v30Msi 0) ∧ s.atcTimedOut = false ∧ s.atc s.curQ ≠ [] ∧ late.atcTimedOut = true ∧
    late.impl.atcTimeoutErr = true ∧ (withImpl late fun p => { p with atcTimeoutErr := false }).impl.atcTimeoutErr = false :=
  ⟨by decide, rfl, by decide +kernel⟩

theorem witness_SecureOperandOnNonSecureQueue : on.curQ = .ns := rfl

theorem witness_CommandsWithoutFeature :
    let none := withIds on fun r => { r with idr0 := 0x01000000, sidr1 := 0 }
    none.s1p = false ∧ on.curQ = .ns ∧ none.hyp = false ∧ none.s2p = false ∧ none.ats = false ∧ none.pri = false ∧ none.noStall = true ∧
    (withIds { on with curQ := .s } fun r => { r with sidr3 := 0x40 }).sams = true := by decide +kernel

theorem witness_ReservedFieldsAreIllegal :
    (withImpl on fun p => { p with cmdRes0Check := true }).impl.cmdRes0Check = true ∧ residue (.tlbiNsnhAll 0x100) ≠ 0 := by decide +kernel

/-- The first StreamID and SubstreamID out of range with SIDSIZE 16 and SSIDSIZE 14. -/
theorem witness_StreamOutOfRange :
    let s := withIds on fun r => { r with idr1 := 0x0E739B90 }
    s.sec false = some .ns ∧ s.res0Ok 0 0 ∧ 2 ^ s.sidSize .ns ≤ (0x10000 : BitVec 32).toNat ∧
    2 ^ s.ssidSize ≤ (0x4000 : BitVec 20).toNat ∧ s.v31 = true ∧ s.s1p = true ∧ s.noStall = false ∧
    (¬ (s.curQ = .s ∧ s.sams = true)) ∧ s.ats = true ∧ (52 : BitVec 6).toNat ≤ 52 ∧ s.pri = true ∧ (2 : BitVec 2) ≠ 3 :=
  ⟨by decide +kernel, rfl, by decide +kernel⟩

/-- An inactive and an active error; of two active errors one acknowledged, and all. -/
theorem witness_GlobalErrorActivation :
    (on.iface .ns).gerrActive .cmdq = false ∧ ((withNs on fun i => { i with gerror := 1 }).iface .ns).gerrActive .cmdq = true ∧
    (let s := withNs on fun i => { i with gerror := 5 }
     (((4 : W32) &&& s.gerrorMask .ns) ^^^ (s.iface .ns).gerrorn) &&& ~~~((s.iface .ns).gerror ^^^ (s.iface .ns).gerrorn) = 0 ∧
     bit (s.gerrorMask .ns) Gerr.cmdq.pos = true ∧ bit (s.gerrorMask .ns) Gerr.eventqAbt.pos = true) ∧
    ((withNs on fun i => { i with gerror := 0x1FD }).iface .ns).gerror &&& ~~~((withNs on fun i => { i with gerror := 0x1FD }).gerrorMask .ns) = 0 := by
  decide +kernel

theorem witness_AcknowledgementRestartsQueue :
    let s : State := { withNs on fun i => { i with gerror := 1 } with agenda := [.regWrite .ns 0x64 4 1] }
    s.agenda = .regWrite .ns 0x64 4 (s.ns.gerror.setWidth 64) :: [] ∧ s.off = false ∧ s.ns.gerror &&& ~~~(s.gerrorMask .ns) = 0 ∧
    s.cmdqen .ns = true ∧ s.cmdqEmpty .ns = false ∧ s.sfm = false ∧ s.cmdqNsWedged = false := by decide +kernel

/-- The entry; the interrupt of a global error enabled, wired and with an MSI, and not. -/
theorem witness_ServiceFailureIsSignalled :
    let s : State := { on with agenda := [.enterSfm] }
    s.agenda = .enterSfm :: [] ∧ s.off = false ∧ s.secureImpl = true ∧
    (withNs on fun i => { i with irqCtrlEff := 1, irqCtrlAck := 1 }).irqOn .ns 0 = true ∧ on.impl.wiredIrq = true ∧ on.msi .ns = true ∧
    fld ((withNs on fun i => { i with gerrorCfg := ⟨4, 0, 0⟩ }).iface .ns).gerrorCfg.cfg0 2 50 ≠ 0 ∧ on.irqOn .ns 0 = false := by
  decide +kernel

/-- One record pending, for the last free entry; and for a full queue. -/
def pending (prod : W32) (tag : Option (BitVec 16)) : State :=
  { withNs on fun i => { i with eventqProd := prod } with
    agenda := [.deliverEvent .ns 0], eventsNs := [{ ev := 0x40_00000002, stag := tag, mev := false }] }

theorem witness_EventQueueWritable :
    bit (on.iface .ns).cr0Eff 2 = bit (on.iface .ns).cr0Ack 2 ∧ on.sfm = false ∧
    (pending 4 none).agenda = .deliverEvent .ns 0 :: [] ∧ (pending 4 none).off = false ∧ (pending 4 none).eventqWritable .ns = false := by
  decide +kernel

theorem witness_EventIsWritten :
    let s := withIds (pending 3 none) fun r => { r with idr0 := 0x081FD7BF }
    s.off = false ∧ (s.events .ns)[0]? = some { ev := 0x40_00000002, stag := none, mev := false } ∧ s.eventqWritable .ns = true ∧
    qInconsistent (s.iface .ns).eventqProd (s.iface .ns).eventqCons (s.eventqs .ns) = false ∧
    s.aborts .eventq true (s.queueBase (s.iface .ns).eventqBase (s.eventqs .ns + 5) + 32 * qIndex (s.iface .ns).eventqProd (s.eventqs .ns)) 32 = false ∧
    (∀ j, j < 32 → intRange s.impl true (s.queueBase (s.iface .ns).eventqBase (s.eventqs .ns + 5) +
      32 * qIndex (s.iface .ns).eventqProd (s.eventqs .ns) + j) = none) ∧
    Memory.wf s.mem = true ∧ Memory.wf s.internal = true ∧
    qEmpty ((pending 0 none).iface .ns).eventqProd ((pending 0 none).iface .ns).eventqCons ((pending 0 none).eventqs .ns) = true ∧
    (withNs on fun i => { i with irqCtrlEff := 4, irqCtrlAck := 4 }).irqOn .ns 2 = true ∧ s.impl.wiredIrq = true := by
  refine ⟨rfl, by decide +kernel, by decide +kernel, by decide +kernel, by decide +kernel, fun _ _ => rfl, by decide +kernel⟩

/-- A record that is not of a stall and one that is, with the queue full; and a disabled queue. -/
theorem witness_UnwritableQueueDiscards :
    (pending 4 none).off = false ∧ ((pending 4 none).events .ns)[0]? = some { ev := 0x40_00000002, stag := none, mev := false } ∧
    ((pending 4 (some 3)).events .ns)[0]? = some { ev := 0x40_00000002, stag := some 3, mev := false } ∧
    (pending 4 none).eventqWritable .ns = false ∧ (pending 4 none).sfm = false ∧
    qInconsistent ((pending 4 none).iface .ns).eventqProd ((pending 4 none).iface .ns).eventqCons ((pending 4 none).eventqs .ns) = false ∧
    (pending 4 none).eventqen .ns = true ∧ (pending 4 none).eventqFull .ns = true ∧
    (withNs (pending 0 none) fun i => { i with cr0Eff := 8, cr0Ack := 8 }).eventqWritable .ns = false ∧
    ¬ ((withNs (pending 0 none) fun i => { i with cr0Eff := 8, cr0Ack := 8 }).eventqen .ns = true ∧
      (withNs (pending 0 none) fun i => { i with cr0Eff := 8, cr0Ack := 8 }).eventqFull .ns = true) := by decide +kernel

theorem witness_EventRecordFields : (Flt.of .translation).kind.isTrf = true := by decide +kernel

/-- The largest queue full, empty and inconsistent; an index below its top and at its top. -/
theorem witness_QueueArithmetic :
    19 ≤ 19 ∧ qFull 0x80000 0 19 = true ∧ qEmpty 0x80000 0x80000 19 = true ∧ qInconsistent 0x80001 0 19 = true ∧
    qIndex 0x7FFFE 19 + 1 < 2 ^ 19 ∧ qIndex 0x7FFFF 19 + 1 = 2 ^ 19 := by decide +kernel

/-- The first and the last Secure offset, and a pair of registers; a Non-secure access; no Secure interface; SMMU_S_INIT not exposed. -/
theorem witness_SecureRegistersAreHidden :
    on.off = false ∧ 0x8000 ≤ 0x8000 ∧ 0x8000 < 0x10000 ∧ 0x8000 % 4 = 0 ∧ 0x8000 ≤ 0xFFFC ∧ 0xFFFC < 0x10000 ∧ 0xFFFC % 4 = 0 ∧
    on.regAt 0x8000 ≠ none ∧ 0x8000 % 8 = 0 ∧ 0x8000 + 8 ≤ 0x803C ∧
    on.impl.sInitNsAccess = false ∧ (withIds on fun r => { r with sidr1 := 0 }).secureImpl = false := by decide +kernel

theorem witness_ControlHandshake :
    State.reset.off = false ∧ State.reset.ns.cr0 = 0 ∧ State.reset.ns.cr0Ack = 0 ∧ State.reset.ns.cr0Eff = 0 := by decide +kernel

theorem witness_GlobalBypassUpdate : on.off = false ∧ bit on.ns.gbpa 31 = false ∧ bit (0x80100000 : W64) 31 = true := by decide +kernel

/-- What the lookups of the transaction of `stream` give, one after another. -/
def atSte (s : State) : Except Flt (StructWord × CfgRegs) × State := getSte .ns 8 { s with agenda := [], inFlight := [] }
def atSel (s : State) : Except Flt CdSel × State := cdSelect (val (atSte s)).1 false 0 (atSte s).2
def atCtx (s : State) : Ctx := (atSel s).2.ctx .ns 8 (val (atSte s)).1 (val (atSte s)).2
def atAcc (s : State) : Acc :=
  (client 1 8).acc ((atSel s).2.override (Ste.overrides (val (atSte s)).1) (client 1 8) ((client 1 8).inAttrs s.impl))
def atCd (s : State) : Except Flt StructWord × State := getCd (atCtx s) 0 (atSel s).2
def atS1 (s : State) : Except Flt XRes × State := vaTranslate { atCtx s with cd := val (atCd s) } 0x1000 (atAcc s) (atCd s).2
def atS2 (s : State) : Except Flt XRes × State := ipaTranslate (atCtx s).noS1 0x1000 (atAcc s) (atSel s).2

/-- Bypass by GBPA and its ABORT; an address outside the OAS; the streams of Config 4, 5 and 6; one ready and one issued. -/
theorem witness_TransactionOutcome :
    on.secureImpl = true ∧ on.ats = true ∧ ({ on with sfm := true } : State).sfm = true ∧ (client 1 8).cls ≠ .nwDcp ∧
    (client 1 8).sec = .ns ∧ (client 1 8).cls = .plain ∧ (client 1 8).translated = false ∧ (client 1 8).spec = false ∧
    (let s (g : W32) : State := { withNs State.reset fun i => { i with gbpaEff := g } with inFlight := [⟨client 1 8, .accepted⟩] }
     (s 0).inFlight[0]? = some { txn := client 1 8, stage := .accepted } ∧ (s 0).off = false ∧ (s 0).sfm = false ∧
     (s 0).uut (client 1 8) = false ∧ (s 0).smmuen .ns = false ∧ bit (s 0).ns.gbpaEff 20 = false ∧
     addrOutside (client 1 8).addr (s 0).oas = false ∧ bit (s 0x100000).ns.gbpaEff 20 = true ∧
     addrOutside (0x10000000000000 : W64) (s 0).oas = true) ∧
    (stream 4).off = false ∧ (stream 4).sfm = false ∧ (stream 4).smmuen .ns = true ∧ (stream 4).uut (client 1 8) = false ∧
    (stream 4).inFlight[0]? = some { txn := client 1 8, stage := .accepted } ∧
    atSte (stream 4) = (.ok (val (atSte (stream 4))), (atSte (stream 4)).2) ∧ Ste.enabled (val (atSte (stream 4))).1 = true ∧
    atSel (stream 4) = (.ok (val (atSel (stream 4))), (atSel (stream 4)).2) ∧
    Ste.cfgS1 (val (atSte (stream 4))).1 = false ∧ Ste.cfgS2 (val (atSte (stream 4))).1 = false ∧
    addrOutside (client 1 8).addr (atSel (stream 4)).2.oas = false ∧ (atSel (stream 4)).2.trail.conflict = none ∧
    atSte (stream 5) = (.ok (val (atSte (stream 5))), (atSte (stream 5)).2) ∧ Ste.enabled (val (atSte (stream 5))).1 = true ∧
    atSel (stream 5) = (.ok (val (atSel (stream 5))), (atSel (stream 5)).2) ∧
    val (atSel (stream 5)) = .cd 0 ∧ Ste.cfgS1 (val (atSte (stream 5))).1 = true ∧
    atCd (stream 5) = (.ok (val (atCd (stream 5))), (atCd (stream 5)).2) ∧
    atS1 (stream 5) = (.ok (val (atS1 (stream 5))), (atS1 (stream 5)).2) ∧ (atS1 (stream 5)).2.trail.conflict = none ∧
    (atS1 (stream 5)).2.uut (client 1 8) = false ∧
    atSte (stream 6) = (.ok (val (atSte (stream 6))), (atSte (stream 6)).2) ∧ Ste.enabled (val (atSte (stream 6))).1 = true ∧
    atSel (stream 6) = (.ok (val (atSel (stream 6))), (atSel (stream 6)).2) ∧ val (atSel (stream 6)) = .bypass ∧
    Ste.cfgS2 (val (atSte (stream 6))).1 = true ∧ addrOutside (client 1 8).addr (atSel (stream 6)).2.ias = false ∧
    atS2 (stream 6) = (.ok (val (atS2 (stream 6))), (atS2 (stream 6)).2) ∧ (atS2 (stream 6)).2.trail.conflict = none ∧
    (atS2 (stream 6)).2.uut (client 1 8) = false ∧
    (let w : Fwd := ⟨.ns, 8, .plain, .read, 0x1000, msiAttrs 15 3 true, false⟩
     ({ on with inFlight := [⟨client 1 8, .ready w [] []⟩] } : State).inFlight[0]? = some ⟨client 1 8, .ready w [] []⟩ ∧
     ({ on with inFlight := [⟨client 1 8, .issued w [] []⟩] } : State).inFlight[0]? = some ⟨client 1 8, .issued w [] []⟩ ∧
     w.cls = .plain ∧ w.rw = .read ∧ { w with rw := .write }.rw = .write) := by
  refine ⟨?_, ?_, ?_, ?_, ?_, ?_, ?_, ?_, ?_, ?_, ?_, ?_, ?_, ?_, good_eq ?_, ?_, good_eq ?_, ?_, ?_, ?_, ?_, good_eq ?_, ?_,
    good_eq ?_, ?_, ?_, good_eq ?_, good_eq ?_, ?_, ?_, good_eq ?_, ?_, good_eq ?_, ?_, ?_, ?_, good_eq ?_, ?_, ?_, ?_⟩ <;>
    decide +kernel

/-- The same streams where the page gives no read permission: stage 1 with CD bits 44 to 46 (S, R, A) exchanged, stage 2 with STE bits 185
and 186 (S2S, S2R) exchanged. -/
def denied (config flip : StructWord) : State :=
  let s := stream config
  let bare := fun l : Leaf => { l with desc := l.desc &&& ~~~0xC0 }
  { s with cfgCache := s.cfgCache.map fun e => { e with data := e.data ^^^ (if (e.kind == .cd) == (config == 5) then flip else 0) }
           tlb := s.tlb.map fun e => { e with s1 := e.s1.map bare, s2 := e.s2.map bare } }

/-- The fault of an operation. -/
def bad {α : Type} (p : Except Flt α × State) : Flt := match p.1 with | .error f => f | .ok _ => Flt.of .uut
def fails {α : Type} (p : Except Flt α × State) : Bool := p.1.toOption.isNone
theorem fails_eq {α : Type} {p : Except Flt α × State} (h : fails p = true) : p = (.error (bad p), p.2) := by
  obtain ⟨a, s⟩ := p
  cases a with
  | error _ => rfl
  | ok a => cases h

/-- The lookups of a stream succeed and its translation, at the stage that its Config enables, is denied with nothing in the way of the
outcome: whether it stalls, is recorded, aborts. -/
def deniedAs (config flip : StructWord) (stall log abort : Bool) : Bool :=
  let s := denied config flip
  let p := if config == 5 then atS1 s else atS2 s
  let f := bad p
  let ste := (val (atSte s)).1
  good (atSte s) && good (atSel s) && Ste.enabled ste && (config == 6 || good (atCd s)) && fails p && f.kind.isTrf && !f.fixedAbort &&
    f.s2 == (config == 6) && p.2.impl.stallDemote.isEmpty && !p.2.impl.suppressDupStall && !p.2.impl.mergeEvents && !p.2.stallFull &&
    (if f.s2 then Ste.s2s ste else Cd.s (val (atCd s))) == stall && (if f.s2 then Ste.s2r ste else Cd.r (val (atCd s))) == log &&
    (f.s2 || Cd.a (val (atCd s))) == abort

/-- Stage 1: aborted and recorded, completed as RAZ/WI without a record, stalled; stage 2: recorded, not recorded, stalled. -/
theorem witness_TransactionOutcome_faults :
    deniedAs 5 0 false true true = true ∧ deniedAs 5 (place 512 3#2 45) false false false = true ∧
    deniedAs 5 (place 512 1#1 44) true true true = true ∧ deniedAs 6 0 false true true = true ∧
    deniedAs 6 (place 512 1#1 186) false false true = true ∧ deniedAs 6 (place 512 1#1 185) true true true = true := by decide +kernel

/-- What the statement takes from it, for a stage 1 that stalls. -/
theorem witness_TransactionOutcome_stall :
    let s := denied 5 (place 512 1#1 44)
    atSte s = (.ok (val (atSte s)), (atSte s).2) ∧ atSel s = (.ok (val (atSel s)), (atSel s).2) ∧ val (atSel s) = .cd 0 ∧
    Translates (atCtx s) (.cd 0) (client 1 8)
      ((atSel s).2.override (Ste.overrides (val (atSte s)).1) (client 1 8) ((client 1 8).inAttrs s.impl)) (atSel s).2
      { atCtx s with cd := val (atCd s) } (.error (bad (atS1 s)), (atS1 s).2) :=
  ⟨good_eq (by decide +kernel), good_eq (by decide +kernel), by decide +kernel,
    .inl ⟨0, _, _, rfl, good_eq (by decide +kernel), rfl, fails_eq (by decide +kernel)⟩⟩

/-- With and without RECINVSID. -/
theorem witness_BadStreamIsAborted :
    on.off = false ∧ on.sfm = false ∧
    ({ on with inFlight := [⟨client 1 0x40, .accepted⟩] } : State).inFlight[0]? = some { txn := client 1 0x40, stage := .accepted } ∧ (client 1 0x40).sec = .ns ∧ (client 1 0x40).cls = .plain ∧
    (client 1 0x40).translated = false ∧ on.uut (client 1 0x40) = false ∧ (client 1 0x40).spec = false ∧
    on.impl.mergeEvents = false ∧ on.smmuen .ns = true ∧ on.sidInRange .ns (client 1 0x40).sid = false ∧
    on.cfgSteHits .ste .ns (client 1 0x40).sid = [] ∧ bit (withNs on fun i => { i with cr2Eff := 2 }).ns.cr2Eff 1 = true ∧
    bit (withNs on fun i => { i with cr2Eff := 0 }).ns.cr2Eff 1 = false := by decide +kernel

theorem witness_TranslationRequestRefused :
    let r : AtsReq := { id := 7, sec := .ns, sid := 6, ssv := false, ssid := 0, addr := 0x1000, nw := false, exe := false, priv := false, span := 0 }
    let s : State := { State.reset with agenda := [.atsRequest r] }
    s.off = false ∧ s.sfm = false ∧ s.ats = true ∧ s.impl.mergeEvents = false ∧ r.sec = .ns ∧ s.smmuen .ns = false := by decide +kernel

/-- A PRI queue with one entry free, no MSIs; and a disabled one; a last request behind an earlier one. -/
theorem witness_PageRequestIsQueued :
    let m : Ppr := { sec := .ns, sid := 6, pasid := none, addr := 0x1000, prgi := 0x1F, last := true, w := false, r := true, x := false, priv := false }
    let s : State := { withIds (withNs on fun i => { i with cr0Eff := 0xF, cr0Ack := 0xF }) fun r => { r with idr0 := 0x081FD7BF } with
      agenda := [.takePri 0], priqBase := 0x30002, priqProd := 3, pendingPri := [.received m, .response 6 none 0x1F 15] }
    s.off = false ∧ s.pri = true ∧ s.pendingPri[0]? = some (.received m) ∧ s.pendingPri[1]? = some (.response 6 none 0x1F 15) ∧ s.sfm = false ∧ s.priqen = true ∧ m.sec = .ns ∧ s.ns.gerrActive .priqAbt = false ∧
    bit s.priqProd 31 = bit s.priqCons 31 ∧ s.priqFull = false ∧ qInconsistent s.priqProd s.priqCons s.priqs = false ∧
    s.aborts .priq true (s.queueBase s.priqBase (s.priqs + 4) + 16 * qIndex s.priqProd s.priqs) 16 = false ∧
    (∀ j, j < 16 → intRange s.impl true (s.queueBase s.priqBase (s.priqs + 4) + 16 * qIndex s.priqProd s.priqs + j) = none) ∧
    s.priBehind 0 m = false ∧ ({ s with pendingPri := [.received m, .received m] } : State).priBehind 1 m = true ∧
    Memory.wf s.mem = true ∧ Memory.wf s.internal = true ∧ on.priqen = false := by
  refine ⟨rfl, by decide +kernel, rfl, rfl, rfl, by decide +kernel, rfl, by decide +kernel, by decide +kernel, by decide +kernel,
    by decide +kernel, by decide +kernel, fun _ _ => rfl, by decide +kernel⟩

theorem witness_ReservedAtosRequest :
    let o : AtosOp := { sid := 6, addr := 0x1000, sel := 0, spoiled := false }
    let s : State := { on with gatosOp := some o, sGatosOp := some o, vatosOp := some o }
    s.off = false ∧ s.atosOp .gatos = some o ∧ s.atosOp .sGatos = some o ∧ s.atosOp .vatos = some o ∧ o.spoiled = false ∧
    fld o.addr 10 2 = 0 := by decide +kernel

/-- A 32-bit counter just below and at its greatest value; a record with a Corrected, a Deferred or an uncorrected error and an error
of higher, equal and lower priority. -/
theorem witness_CountersAndErrorRecords :
    let g : Pmcg := { Pmcg.default with evcntr := [0xFFFFFFFE, 0xFFFFFFFF] }
    g.width = 32 ∧ g.evcntr[0]? = some 0xFFFFFFFE ∧ g.evcntr[1]? = some 0xFFFFFFFF ∧ (0xFFFFFFFE : W64).toNat + 1 < 2 ^ g.width ∧
    (0xFFFFFFFF : W64).toNat < 2 ^ g.width ∧ (0xFFFFFFFF : W64).toNat + 1 = 2 ^ g.width ∧
    (let s : State := { on with ras := [rasWith 0x60100009], agenda := [.rasError 0 0 (rasError .uc)] }
     s.off = false ∧ s.ras[0]? = some (rasWith 0x60100009) ∧ (rasWith 0x60100009).recs[0]?.isSome = true ∧
     bit (rasNode (rasWith 0x60100009) 0).2 0 = true ∧ (rasError .uc).typ ≠ .none ∧
     (rasPrev 0x60100009).rank < RasType.uc.rank ∧ (rasPrev 0x60100009).isUe = true ∧ RasType.ueu.rank ≤ (rasPrev 0x60100009).rank ∧
     RasType.ueo.isUe = true ∧ RasType.ueo.rank ≤ (rasPrev 0x60100009).rank ∧ 2 ≤ (rasPrev 0x40800009).rank) := by decide +kernel

theorem witness_ResetFromAnyState :
    ({ on with off := true, agenda := [.reset] } : State).agenda = (if true then .reset else .errorRecoveryReset) :: [] ∧
    ({ on with agenda := [.errorRecoveryReset] } : State).agenda = (if false then .reset else .errorRecoveryReset) :: [] ∧
    on.off = false ∧ ({ on with off := true, agenda := [.errorRecoveryReset] } : State).off = true := by decide +kernel

/-- A step that answers a next state, from a memory that lists bytes; also for the rules over all steps and all commands. -/
theorem witness_StepKeepsMemoryCanonical :
    Memory.wf (withCommand 0x30).mem = true ∧ (withCommand 0x30).mem ≠ [] ∧ Memory.wf (withCommand 0x30).internal = true ∧ (field State.draw (step (withCommand 0x30))).isSome = true := by
  decide +kernel

theorem witness_StepIsOnward : (field State.draw (step (withCommand 0x46))).isSome = true := by decide +kernel

theorem witness_StepKeepsQueueEnables :
    (∀ q, bit ((withCommand 0x46).iface q).cr0Eff 2 = bit ((withCommand 0x46).iface q).cr0Ack 2 ∧
      bit ((withCommand 0x46).iface q).cr0Eff 3 = bit ((withCommand 0x46).iface q).cr0Ack 3) ∧
    (field State.draw (step (withCommand 0x46))).isSome = true := by
  refine ⟨fun q => ?_, by decide +kernel⟩
  cases q <;> decide +kernel

theorem witness_CommandsKeepRegisters : (field State.draw (exec (.resume false true false 8 3 0) twoStalls)).isSome = true := by decide +kernel

theorem witness_NonSecureCommandsSpareSecureParts :
    on.curQ = .ns ∧ (field State.draw (exec (.sync 0 0 0 0 0 0) on)).isSome = true := by decide +kernel

end Sys2Proof.Tests
end

section
/-! PROOF. A step on an input of the agenda; the Secure registers are hidden (10_state.md R106). -/
namespace Sys2Proof.Machine

/-! ### A step on an input -/

/-- A powered SMMU acts on the next input of the agenda. -/
theorem step_of_agenda {s : State} {x : Stimulus} {rest : List Stimulus} (h : s.agenda = x :: rest) (ho : s.off = false) :
    step s = ({ s with agenda := rest } : State).act x := by
  simp only [step, h, State.take, ho]
  rfl

/-! ### The Secure registers of Page 0 -/

/-- A register that a table gives is of the table's interface, and it is that of an entry at the offset or, of a 64-bit register, at
the word before. -/
theorem findReg_some {t : List (Nat × Reg)} {sec : Sec} {off : Nat} {l : RegLoc} (h : findReg t sec off = some l) :
    l.sec = sec ∧ ∃ x ∈ t, x.2 = l.reg ∧ (x.1 = off ∨ x.2.wide = true ∧ x.1 + 4 = off) := by
  unfold findReg at h
  split at h
  · next o r hf =>
    cases h
    exact ⟨rfl, (o, r), List.mem_of_find?_eq_some hf, rfl, by simpa using List.find?_some hf⟩
  · cases h

theorem regAt_secure (s : State) {off : Nat} (hlo : 0x8000 ≤ off) (hhi : off < 0x10000) :
    s.regAt off = findReg (sharedRegs .sGatos ++ sRegs) .s (off - 0x8000) := by
  rw [State.regAt, if_pos hhi, State.page0, if_pos hlo]

theorem page0_agenda (s : State) (rest : List Stimulus) (off : Nat) : ({ s with agenda := rest } : State).page0 off = s.page0 off := by
  unfold State.page0
  rfl

/-- The register map does not depend on the inputs to come. -/
theorem regAt_agenda (s : State) (rest : List Stimulus) (off : Nat) : ({ s with agenda := rest } : State).regAt off = s.regAt off := by
  unfold State.regAt
  simp only [page0_agenda]
  rfl

theorem secure_of_regAt {s : State} {off : Nat} {l : RegLoc} (hlo : 0x8000 ≤ off) (hhi : off < 0x10000) (h : s.regAt off = some l) :
    l.sec = .s := by
  rw [regAt_secure s hlo hhi] at h
  exact (findReg_some h).1

/-- SMMU_S_INIT stands at one offset alone. -/
theorem offset_of_sInit {s : State} {off : Nat} {l : RegLoc} (hlo : 0x8000 ≤ off) (hhi : off < 0x10000) (h : s.regAt off = some l)
    (hr : l.reg = .sInit) : off = 0x803C := by
  rw [regAt_secure s hlo hhi] at h
  obtain ⟨-, x, hx, hreg, hoff⟩ := findReg_some h
  have hbase : ∀ y ∈ sharedRegs .sGatos ++ sRegs, y.2 = .sInit → y.1 = 0x3C ∧ y.2.wide = false := by decide
  obtain ⟨h1, h2⟩ := hbase x hx (hreg.trans hr)
  rw [h1, h2] at hoff
  simp at hoff
  omega

/-- An SMMU_S_* register is not reached by a Non-secure access, nor by any where there is no Secure interface; SMMU_S_INIT may be
exposed (10_state.md R106). -/
theorem secure_not_reached {s : State} {acc : Sec} {off : Nat} {l : RegLoc} (hlo : 0x8000 ≤ off) (hhi : off < 0x10000)
    (hacc : acc = .ns ∨ s.secureImpl = false) (hinit : off ≠ 0x803C ∨ s.impl.sInitNsAccess = false ∨ s.secureImpl = false)
    (h : s.regAt off = some l) : s.reaches acc l = false := by
  have hsec := secure_of_regAt hlo hhi h
  rcases hacc with rfl | hno
  · rcases hinit with hne | hexp | hno
    · have hr : l.reg ≠ .sInit := fun hr => hne (offset_of_sInit hlo hhi h hr)
      simp [State.reaches, hsec, hr]
    · simp [State.reaches, hsec, hexp]
    · simp [State.reaches, hsec, hno]
  · simp [State.reaches, hsec, hno]

/-! ### Hidden accesses -/

theorem spanned_word {off : Nat} (h : off % 4 = 0) : spanned off 4 = [off] := by
  have h1 : off / 4 * 4 = off := by omega
  simp [spanned, h, h1, List.range_succ]

theorem spanned_pair {off : Nat} (h : off % 8 = 0) : spanned off 8 = [off, off + 4] := by
  have h0 : off % 4 = 0 := by omega
  have h1 : off / 4 * 4 = off := by omega
  simp [spanned, h0, h1, List.range_succ]

/-- A legal access that spans a register which it does not reach is hidden. -/
theorem hiddenAccess_of_spanned {s : State} {acc : Sec} {off size o : Nat} {l : RegLoc} (hleg : legalAccess off size = true)
    (ho : o ∈ spanned off size) (h : s.regAt o = some l) (hr : s.reaches acc l = false) : s.hiddenAccess acc off size = true := by
  simp only [State.hiddenAccess, hleg, Bool.true_and, List.any_eq_true]
  exact ⟨o, ho, by simp [h, hr]⟩

theorem regRead_hidden {s : State} {acc : Sec} {off size : Nat} (h : s.hiddenAccess acc off size = true) :
    s.regRead acc off size = s.emit (.regData 0) := by
  rw [State.regRead, if_pos h]

theorem regWrite_hidden {s : State} {acc : Sec} {off size : Nat} (v : W64) (h : s.hiddenAccess acc off size = true) :
    s.regWrite acc off size v = s := by
  rw [State.regWrite, if_pos h]

/-! ### A word where no register is -/

theorem hiddenAccess_none {s : State} (acc : Sec) {off : Nat} (ha : off % 4 = 0) (h : s.regAt off = none) :
    s.hiddenAccess acc off 4 = false := by
  simp [State.hiddenAccess, spanned_word ha, h]

theorem pairAccess_word (s : State) (off : Nat) : s.pairAccess off 4 = false := by simp [State.pairAccess]

theorem legalAccess_word {off : Nat} (h : off % 4 = 0) : legalAccess off 4 = true := by simp [legalAccess, h]

theorem regRead_none {s : State} (acc : Sec) {off : Nat} (ha : off % 4 = 0) (h : s.regAt off = none) :
    s.regRead acc off 4 = s.emit (.regData 0) := by
  have hw : s.readWord acc off = (0, s) := by simp only [State.readWord, h]
  simp [State.regRead, hiddenAccess_none acc ha h, State.readAccess, legalAccess_word ha, pairAccess_word, hw, ext]

theorem regWrite_none {s : State} (acc : Sec) {off : Nat} (v : W64) (ha : off % 4 = 0) (h : s.regAt off = none) :
    s.regWrite acc off 4 v = s := by
  simp [State.regWrite, hiddenAccess_none acc ha h, State.writeAccess, legalAccess_word ha, pairAccess_word, State.writeWord, h]

/-! ### SMMU_S_* registers are RAZ/WI -/

/-- An access to the Secure registers that may not reach them is hidden, or it is of one word where no register is. -/
theorem hidden_or_none {s : State} {acc : Sec} {off size : Nat} (hlo : 0x8000 ≤ off) (hhi : off < 0x10000)
    (hsize : size = 4 ∨ size = 8 ∧ (s.regAt off ≠ none ∨ s.regAt (off + 4) ≠ none)) (ha : off % size = 0)
    (hacc : acc = .ns ∨ s.secureImpl = false)
    (hinit : off + size ≤ 0x803C ∨ 0x8040 ≤ off ∨ s.impl.sInitNsAccess = false ∨ s.secureImpl = false) :
    s.hiddenAccess acc off size = true ∨ size = 4 ∧ s.regAt off = none := by
  have hunreached : ∀ o l, off ≤ o → o < 0x10000 → o + 4 ≤ off + size → s.regAt o = some l → s.reaches acc l = false := by
    intro o l h1 h2 h3 hl
    refine secure_not_reached (by omega) h2 hacc ?_ hl
    rcases hinit with h | h | h
    · exact .inl (by omega)
    · exact .inl (by omega)
    · exact .inr h
  rcases hsize with rfl | ⟨rfl, hreg⟩
  · cases hl : s.regAt off with
    | none => exact .inr ⟨rfl, rfl⟩
    | some l =>
      exact .inl (hiddenAccess_of_spanned (legalAccess_word ha) (by simp [spanned_word ha]) hl (hunreached off l le_rfl hhi le_rfl hl))
  · have hleg : legalAccess off 8 = true := by simp [legalAccess, ha]
    left
    rcases hreg with hreg | hreg <;> obtain ⟨l, hl⟩ := Option.ne_none_iff_exists'.1 hreg
    · exact hiddenAccess_of_spanned hleg (by simp [spanned_pair ha]) hl (hunreached _ l le_rfl hhi (by omega) hl)
    · exact hiddenAccess_of_spanned hleg (by simp [spanned_pair ha]) hl (hunreached _ l (by omega) (by omega) le_rfl hl)

/-- An access that the Security check hides, or of one word where no register is, is RAZ/WI (10_state.md R105, R106). -/
theorem razwi_of_hidden_or_none {s : State} {acc : Sec} {off size : Nat} (v : W64) (ha : off % size = 0)
    (h : s.hiddenAccess acc off size = true ∨ size = 4 ∧ s.regAt off = none) :
    s.regRead acc off size = s.emit (.regData 0) ∧ s.regWrite acc off size v = s := by
  rcases h with hh | ⟨rfl, hn⟩
  · exact ⟨regRead_hidden hh, regWrite_hidden v hh⟩
  · exact ⟨regRead_none acc ha hn, regWrite_none acc v ha hn⟩

/-- Settles O44: such an access is hidden by the Security check, or finds no register at all. -/
theorem secureRegistersAreHidden : Obligations.SecureRegistersAreHidden := by
  intro s acc off size v rest hoff hlo hhi hsize ha hacc hinit
  rw [← regAt_agenda s rest off, ← regAt_agenda s rest (off + 4)] at hsize
  obtain ⟨hread, hwrite⟩ := razwi_of_hidden_or_none v ha (hidden_or_none hlo hhi hsize ha hacc hinit)
  constructor <;> intro h <;> rw [step_of_agenda h hoff]
  · exact congrArg Host.Outcome.next hread
  · exact congrArg Host.Outcome.next hwrite

end Sys2Proof.Machine
end

section
/-! PROOF. The Page Requests that wait, and the entry of one in the PRI queue (60_exceptions.md R1751, R1752). -/
namespace Sys2Proof.Machine

/-! ### Fields of a word built by OR -/

theorem fld_place_same {w n : Nat} (v : BitVec n) (lo : Nat) (h : lo + n ≤ w) : fld (place w v lo) lo n = v := by
  apply BitVec.eq_of_getLsbD_eq
  intro i hi
  simp [fld, place, hi, show lo + i < w by omega]

/-- A field that does not meet the bits where a value was placed. -/
theorem fld_place_disjoint {w n : Nat} (v : BitVec n) (p lo k : Nat) (h : lo + k ≤ p ∨ p + n ≤ lo) : fld (place w v p) lo k = 0 := by
  apply BitVec.eq_of_getLsbD_eq
  intro i hi
  simp only [fld, place, BitVec.getLsbD_extractLsb', BitVec.getLsbD_shiftLeft, BitVec.getLsbD_setWidth]
  rcases h with h | h
  · simp [show lo + i < p by omega]
  · simp [BitVec.getLsbD_of_ge v (lo + i - p) (by omega)]

theorem placeBit_eq_place (w : Nat) (b : Bool) (p : Nat) : placeBit w b p = place w (BitVec.ofBool b) p := by
  cases b
  · simp [placeBit, place]
  · rw [placeBit, place, if_pos rfl]
    congr 1
    apply BitVec.eq_of_toNat_eq
    simp

/-- The entry of a Page Request has its StreamID in bits [31:0] (30_encoding.md R1090). -/
theorem encode_sid (ssids : Bool) (unk : BitVec 20) (m : Ppr) : fld (m.encode ssids unk) 0 32 = m.sid := by
  simp [Ppr.encode, Laws.fld_or, placeBit_eq_place, fld_place_same, fld_place_disjoint]

/-- It has its PRG index in bits [72:64]. -/
theorem encode_prgi (ssids : Bool) (unk : BitVec 20) (m : Ppr) : fld (m.encode ssids unk) 64 9 = m.prgi := by
  simp [Ppr.encode, Laws.fld_or, placeBit_eq_place, fld_place_same, fld_place_disjoint]

/-! ### Reads of bytes that stand -/

theorem load_of_byte {s t : State} (h : SameBytes s t) (ns : Bool) (pa n : Nat) : t.load ns pa n = s.load ns pa n := by
  apply List.ext_getElem (by rw [load_length, load_length])
  intro i _ _
  rw [load_getElem, load_getElem, h]

/-! ### What is taken of what waits -/

theorem takePri_response {s : State} {n : Nat} {sid : BitVec 32} {pasid : Option (BitVec 20)} {prgi : BitVec 9} {code : BitVec 4}
    (h : s.pendingPri[n]? = some (.response sid pasid prgi code)) :
    s.takePri n = ({ s with pendingPri := s.pendingPri.eraseIdx n } : State).emit (.prgResponse sid pasid prgi code) := by
  simp only [State.takePri, h]

theorem takePri_behind {s : State} {n : Nat} {m : Ppr} (h : s.pendingPri[n]? = some (.received m)) (hb : s.priBehind n m = true) :
    s.takePri n = s := by
  simp only [State.takePri, h, hb, if_true]

theorem takePri_received {s : State} {n : Nat} {m : Ppr} (h : s.pendingPri[n]? = some (.received m)) (hb : s.priBehind n m = false)
    (hh : s.priHolds m = false) : s.takePri n = ({ s with pendingPri := s.pendingPri.eraseIdx n } : State).priAccept m := by
  simp only [State.takePri, h, hb, hh]
  rfl

theorem priHolds_disabled {s : State} (m : Ppr) (h : s.priqen = false) : s.priHolds m = false := by
  simp [State.priHolds, State.priWritable, h]

theorem priHolds_consistent {s : State} (m : Ppr) (h : qInconsistent s.priqProd s.priqCons s.priqs = false) :
    s.priHolds m = false := by
  simp [State.priHolds, h]

/-- With the queue disabled a request is answered with ResponseFailure, a Stop marker with nothing (60_exceptions.md R1760, R1762). -/
theorem priAccept_disabled {s : State} (m : Ppr) (h : s.priqen = false) :
    s.priAccept m = { s with pendingPri := s.pendingPri ++ if m.isStop s.pasids then [] else [.response m.sid none m.prgi 0b1111] } := by
  have hdrop : s.priAccept m = s.priDrop m .failure := by simp [State.priAccept, h]
  rw [hdrop, State.priDrop]
  split
  · simp
  · rfl

/-- A message for a queue that is enabled, without an error, and neither in overflow nor full is written (60_exceptions.md R1751). -/
theorem priAccept_writes {s : State} {m : Ppr} (hsfm : s.sfm = false) (hen : s.priqen = true) (hsec : m.sec = .ns)
    (herr : s.ns.gerrActive .priqAbt = false) (hovf : bit s.priqProd 31 = bit s.priqCons 31) (hfull : s.priqFull = false) :
    s.priAccept m = s.priWrite m := by
  simp [State.priAccept, hsfm, hen, hsec, herr, hovf, hfull]

/-! ### The entry in the PRI queue -/

/-- The address of the entry at PROD.WR (20_memory.md R456). -/
def State.priqSlot (s : State) : Nat := s.queueBase s.priqBase (s.priqs + 4) + 16 * qIndex s.priqProd s.priqs

/-- The 16 bytes of a message, as the queue holds them (30_encoding.md R1090). -/
def State.priEntry (s : State) (m : Ppr) : List Byte := leBytes 16 (m.encode s.pasids (fld s.free 0 20)).toNat

/-- The bus has shown the write of a message at PROD.WR, and its bytes are stored there. -/
def State.priStored (s : State) (m : Ppr) : State :=
  (s.drawn.bus .priq .write true s.priqSlot (s.priEntry m).length (s.ns.queueAttrs s.priqBase)).store false true s.priqSlot (s.priEntry m)

/-- PROD.WR has moved on past the bytes. -/
def State.priAdvanced (s : State) (m : Ppr) : State := { s.priStored m with priqProd := qInc s.priqProd s.priqs }

@[simp] theorem priStored_ns (s : State) (m : Ppr) : (s.priStored m).ns = s.ns := by simp [State.priStored, State.bus]
@[simp] theorem priStored_pendingPri (s : State) (m : Ppr) : (s.priStored m).pendingPri = s.pendingPri := by simp [State.priStored, State.bus]
@[simp] theorem priAdvanced_ns (s : State) (m : Ppr) : (s.priAdvanced m).ns = (s.priStored m).ns := rfl
@[simp] theorem priAdvanced_pendingPri (s : State) (m : Ppr) : (s.priAdvanced m).pendingPri = (s.priStored m).pendingPri := rfl
@[simp] theorem priAdvanced_priqProd (s : State) (m : Ppr) : (s.priAdvanced m).priqProd = qInc s.priqProd s.priqs := rfl

theorem priEntry_length (s : State) (m : Ppr) : (s.priEntry m).length = 16 := leBytes_length _ _

/-- The interrupt of the PRI queue, if it is due, waits to be delivered (60_exceptions.md R1722). -/
theorem priqIrq_if_eq (s : State) (due : Bool) : ∃ l, (if due then s.priqIrq else s) = s.pushIrqs l := by
  cases due
  · exact ⟨[], (pushIrqs_nil s).symm⟩
  · obtain ⟨l, hl, -⟩ := irqRaise_eq s .ns .priq (s.irqOn .ns 1) s.priqCfg
    exact ⟨l, hl⟩

/-- A write that does not abort, with consistent indexes: the bytes are stored, WR moves on, and the interrupt may wait to be
delivered (60_exceptions.md R1752, R1763). -/
theorem priWrite_eq {s : State} (m : Ppr) (hidx : qInconsistent s.priqProd s.priqCons s.priqs = false)
    (ha : s.aborts .priq true s.priqSlot 16 = false) :
    ∃ l, s.priWrite m = (s.priAdvanced m).pushIrqs l := by
  have hpi : s.priqIndex = (qIndex s.priqProd s.priqs, s) := by simp only [State.priqIndex, hidx]; rfl
  have hw : s.drawn.busWrite .ns .priq true s.priqSlot (s.priEntry m) (s.ns.queueAttrs s.priqBase) = (true, s.priStored m) :=
    busWrite_ok _ _ _ _ _ _ _ (by rw [priEntry_length]; exact ha)
  unfold State.priqSlot State.priEntry at hw
  simp only [State.priWrite, hpi, hw]
  exact priqIrq_if_eq (s.priAdvanced m) _

/-- A message is taken for the PRI queue: its bytes stand at PROD.WR, no other byte changes, WR moves on by one and the registers of the
Non-secure interface stand. -/
theorem priWrite_effect {s : State} (m : Ppr) (hidx : qInconsistent s.priqProd s.priqCons s.priqs = false)
    (ha : s.aborts .priq true s.priqSlot 16 = false) (hr : ∀ j, j < 16 → intRange s.impl true (s.priqSlot + j) = none)
    (hm : Memory.wf s.mem = true) (hi : Memory.wf s.internal = true) :
    (s.priWrite m).load true s.priqSlot 16 = s.priEntry m ∧ SameBytesBut [(true, s.priqSlot, 16)] s (s.priWrite m) ∧
      (s.priWrite m).priqProd = qInc s.priqProd s.priqs ∧ (s.priWrite m).ns = s.ns ∧ (s.priWrite m).pendingPri = s.pendingPri := by
  obtain ⟨l, hl⟩ := priWrite_eq m hidx ha
  have hbyte : SameBytes (s.priStored m) (s.priWrite m) := fun _ _ => by rw [hl]; rfl
  have hlen := priEntry_length s m
  refine ⟨?_, ?_, by simp [hl], by simp [hl], by simp [hl]⟩
  · rw [load_of_byte hbyte]
    have hload := load_store (s.drawn.bus .priq .write true s.priqSlot (s.priEntry m).length (s.ns.queueAttrs s.priqBase)) false true
      s.priqSlot (s.priEntry m) hm (by rw [hlen]; decide) (by rw [hlen]; exact hr)
    rwa [hlen] at hload
  · intro ns a hout
    rw [hbyte]
    refine byte_store_ne _ false true s.priqSlot (s.priEntry m) hm hi ns a ?_
    rw [hlen]
    exact hout _ (List.mem_singleton.2 rfl)

/-! ### The obligation -/

/-- The state in which the n-th message that waits is taken. -/
def State.priTaken (s : State) (rest : List Stimulus) (n : Nat) : State :=
  { s with agenda := rest, pendingPri := s.pendingPri.eraseIdx n }

/-- Settles O50: by what waits at the index, and by whether its queue is enabled. -/
theorem pageRequestIsQueued : Obligations.PageRequestIsQueued := by
  refine ⟨?arrives, ?taken, ?response⟩
  case arrives =>
    intro s m rest h hoff hpri
    rw [step_of_agenda h hoff]
    exact congrArg Host.Outcome.next (if_pos hpri)
  case response =>
    intro s n sid pasid prgi code rest h hoff hn
    rw [step_of_agenda h hoff]
    exact congrArg Host.Outcome.next (takePri_response hn)
  case taken =>
    intro s n m rest h hoff hn
    rw [step_of_agenda h hoff]
    refine ⟨fun hb => congrArg Host.Outcome.next (takePri_behind hn hb), ?written, ?disabled⟩
    case written =>
      intro pa r hb hsfm hen hsec herr hovf hfull hidx ha hr hm hi
      have hstep : ({ s with agenda := rest } : State).takePri n = (s.priTaken rest n).priWrite m :=
        (takePri_received (s := { s with agenda := rest }) hn hb (priHolds_consistent m hidx)).trans
          (priAccept_writes hsfm hen hsec herr hovf hfull)
      obtain ⟨hload, hbytes, hprod, hns, hpend⟩ := priWrite_effect (s := s.priTaken rest n) m hidx ha hr hm hi
      have hpos : qPos ((s.priTaken rest n).priWrite m).priqProd s.priqs = (qPos s.priqProd s.priqs + 1) % 2 ^ (s.priqs + 1) :=
        (congrArg (qPos · s.priqs) hprod).trans (qPos_qInc s.priqProd s.priqs (priqs_le s))
      have hupper : fld ((s.priTaken rest n).priWrite m).priqProd 20 12 = fld s.priqProd 20 12 :=
        (congrArg (fld · 20 12) hprod).trans (fld_qInc s.priqProd s.priqs)
      exact ⟨_, congrArg Host.Outcome.next hstep, hload, hbytes, hpos, hupper, hns, hpend, encode_sid _ _ m, encode_prgi _ _ m⟩
    case disabled =>
      intro hb hen
      have htake := takePri_received (s := { s with agenda := rest }) hn hb (priHolds_disabled m hen)
      exact congrArg Host.Outcome.next (htake.trans (priAccept_disabled m hen))

end Sys2Proof.Machine
end

section
/-! PROOF. What a pending invalidation removes, and when it completes (10_state.md R153). -/
namespace Sys2Proof.Machine

/-! ### Cached translations -/

/-- An entry that a TLB invalidation leaves was cached, and its place was not among those removed. -/
theorem mem_invalTlb {s : State} {p : TlbPred} {d : Option Nat} {e : TlbEnt} :
    e ∈ (s.invalTlb p d).tlb ↔ ∃ k, s.tlb[k]? = some e ∧
      (s.tlbMatch p e && (s.tlbDue p e || s.pickBit s.draw k) && d.all fun d => s.pickBit d k) = false := by
  simp only [State.invalTlb, List.mem_map, List.mem_filter, Prod.exists, exists_and_right, exists_eq_right,
    List.mem_zipIdx_iff_getElem?, Bool.not_eq_true']

theorem mem_of_mem_invalTlb {s : State} {p : TlbPred} {d : Option Nat} {e : TlbEnt} (h : e ∈ (s.invalTlb p d).tlb) : e ∈ s.tlb := by
  obtain ⟨k, hk, -⟩ := mem_invalTlb.1 h
  exact List.mem_of_getElem? hk

/-- Every entry out of scope stays. -/
theorem mem_invalTlb_of_not_match {s : State} {p : TlbPred} (d : Option Nat) {e : TlbEnt} (h : e ∈ s.tlb) (hp : s.tlbMatch p e = false) :
    e ∈ (s.invalTlb p d).tlb := by
  obtain ⟨k, hk⟩ := List.mem_iff_getElem?.1 h
  exact mem_invalTlb.2 ⟨k, hk, by simp [hp]⟩

/-- Without a subset every entry that must go is gone (10_state.md R150). -/
theorem tlbDue_of_mem_invalTlb {s : State} {p : TlbPred} {e : TlbEnt} (h : e ∈ (s.invalTlb p none).tlb) : s.tlbDue p e = false := by
  obtain ⟨k, -, hstays⟩ := mem_invalTlb.1 h
  by_contra hdue
  rw [Bool.not_eq_false] at hdue
  have hmatch : s.tlbMatch p e = true := by
    rw [State.tlbDue, Bool.and_eq_true] at hdue
    exact hdue.1
  simp [hmatch, hdue] at hstays

/-- The SIF of now counts in the cached structures of Secure streams, after a TLB invalidation of a world that SIF concerns
(log entry 45). -/
theorem refreshSif_cfgCache (s : State) (p : TlbPred) :
    (s.refreshSif p).cfgCache = s.cfgCache.map fun e =>
      if (World.secure ∈ p.worlds ∨ World.el3 ∈ p.worlds) ∧ e.sec = .s then { e with regs := { e.regs with sif := s.sif } } else e := by
  by_cases h : World.secure ∈ p.worlds ∨ World.el3 ∈ p.worlds
  · simp [State.refreshSif, h]
  · simp [State.refreshSif, h]

theorem refreshSif_frame (s : State) (p : TlbPred) : s.refreshSif p = { s with cfgCache := (s.refreshSif p).cfgCache } := by
  unfold State.refreshSif
  split <;> rfl

/-! ### An invalidation takes effect -/

/-- The translated transactions that an invalidation reaches start again (20_memory.md R480, R485). -/
def State.restarted (s : State) (i : Inval) : State :=
  { s with inFlight := s.inFlight.map fun f => if s.stopped i f then { f with stage := .accepted } else f }

theorem applyInval_tlb {s : State} {i : Inval} {p : TlbPred} (h : i.scope = .tlb p) :
    s.applyInval i = ((s.restarted i).invalTlb p i.subset).refreshSif p := by
  simp only [State.applyInval, h]
  rfl

theorem applyInval_cfg {s : State} {i : Inval} (h : ∀ p, i.scope ≠ .tlb p) :
    s.applyInval i = { s.restarted i with cfgCache := s.cfgCache.filter fun e => !cfgMatch i.scope e } := by
  unfold State.applyInval
  split
  · next p hp => exact absurd hp (h p)
  · rfl

theorem applyInval_frame (s : State) (i : Inval) : s.applyInval i =
    { s with cfgCache := (s.applyInval i).cfgCache, tlb := (s.applyInval i).tlb, inFlight := (s.applyInval i).inFlight,
             draw := (s.applyInval i).draw } := by
  by_cases h : ∃ p, i.scope = .tlb p
  · obtain ⟨p, hp⟩ := h
    rw [applyInval_tlb hp, refreshSif_frame]
    rfl
  · rw [applyInval_cfg (not_exists.1 h)]
    rfl

theorem applyInval_frame_pending (s : State) (i : Inval) (l : List Inval) :
    ({ s.applyInval i with pendingInval := l } : State) =
      { s with pendingInval := l, cfgCache := (s.applyInval i).cfgCache, tlb := (s.applyInval i).tlb,
               inFlight := (s.applyInval i).inFlight, draw := (s.applyInval i).draw } :=
  congrArg (fun t : State => { t with pendingInval := l }) (applyInval_frame s i)

theorem applyInval_inFlight (s : State) (i : Inval) : (s.applyInval i).inFlight = (s.restarted i).inFlight := by
  by_cases h : ∃ p, i.scope = .tlb p
  · obtain ⟨p, hp⟩ := h
    rw [applyInval_tlb hp, refreshSif_frame]
    rfl
  · rw [applyInval_cfg (not_exists.1 h)]

theorem applyInval_inFlight_length (s : State) (i : Inval) : (s.applyInval i).inFlight.length = s.inFlight.length := by
  rw [applyInval_inFlight]
  exact List.length_map _

theorem applyInval_getElem? (s : State) (i : Inval) (k : Nat) (f : Flight) (h : s.inFlight[k]? = some f) :
    (s.applyInval i).inFlight[k]? = some (if s.stopped i f then { f with stage := .accepted } else f) := by
  rw [applyInval_inFlight, State.restarted, List.getElem?_map, h]
  rfl

theorem applyInval_tlb_cached {s : State} {i : Inval} {p : TlbPred} (h : i.scope = .tlb p) :
    (s.applyInval i).tlb = ((s.restarted i).invalTlb p i.subset).tlb := by
  rw [applyInval_tlb h, refreshSif_frame]

theorem applyInval_cfg_tlb {s : State} {i : Inval} (h : ∀ p, i.scope ≠ .tlb p) : (s.applyInval i).tlb = s.tlb := by
  rw [applyInval_cfg h]
  rfl

/-- Nothing is added to the TLB. -/
theorem mem_of_mem_applyInval {s : State} {i : Inval} {e : TlbEnt} (h : e ∈ (s.applyInval i).tlb) : e ∈ s.tlb := by
  by_cases hs : ∃ p, i.scope = .tlb p
  · obtain ⟨p, hp⟩ := hs
    rw [applyInval_tlb_cached hp] at h
    exact mem_of_mem_invalTlb h
  · rwa [applyInval_cfg_tlb (not_exists.1 hs)] at h

/-- Every translation out of scope stays. -/
theorem mem_applyInval_of_not_match {s : State} {i : Inval} {e : TlbEnt} (h : e ∈ s.tlb)
    (ho : ∀ p, i.scope = .tlb p → s.tlbMatch p e = false) : e ∈ (s.applyInval i).tlb := by
  by_cases hs : ∃ p, i.scope = .tlb p
  · obtain ⟨p, hp⟩ := hs
    rw [applyInval_tlb_cached hp]
    exact mem_invalTlb_of_not_match i.subset h (ho p hp)
  · rwa [applyInval_cfg_tlb (not_exists.1 hs)]

theorem tlbDue_of_mem_applyInval {s : State} {i : Inval} {p : TlbPred} {e : TlbEnt} (hp : i.scope = .tlb p) (hsub : i.subset = none)
    (h : e ∈ (s.applyInval i).tlb) : s.tlbDue p e = false := by
  rw [applyInval_tlb_cached hp, hsub] at h
  exact tlbDue_of_mem_invalTlb h

theorem mem_applyInval_cfgCache {s : State} {i : Inval} (h : ∀ p, i.scope ≠ .tlb p) (e : CfgEnt) :
    e ∈ (s.applyInval i).cfgCache ↔ e ∈ s.cfgCache ∧ cfgMatch i.scope e = false := by
  rw [applyInval_cfg h]
  simp

theorem applyInval_tlb_cfgCache {s : State} {i : Inval} {p : TlbPred} (h : i.scope = .tlb p) :
    (s.applyInval i).cfgCache = s.cfgCache.map fun e =>
      if (World.secure ∈ p.worlds ∨ World.el3 ∈ p.worlds) ∧ e.sec = .s then { e with regs := { e.regs with sif := s.sif } } else e := by
  rw [applyInval_tlb h, refreshSif_cfgCache]
  rfl

/-! ### The transactions that an invalidation waits for -/

/-- A transaction that was passed downstream does not start again. -/
theorem not_stopped_of_waitedFor {s : State} {i : Inval} {f : Flight} (h : s.waitedFor i f = true) : s.stopped i f = false := by
  unfold State.waitedFor at h
  split at h
  · next hst => simp only [State.stopped, hst]
  · cases h

theorem mem_applyInval_inFlight {s : State} {i : Inval} {f : Flight} (h : f ∈ s.inFlight) (hw : s.waitedFor i f = true) :
    f ∈ (s.applyInval i).inFlight := by
  rw [applyInval_inFlight]
  exact List.mem_map.2 ⟨f, h, by simp [not_stopped_of_waitedFor hw]⟩

/-- No transaction uses what an ATS invalidation removes: it removes nothing (42_cmd_ats_pri.md R1203). -/
theorem not_waitedFor_atc {s : State} {i : Inval} {sid : BitVec 32} (h : i.scope = .atc sid) (f : Flight) : s.waitedFor i f = false := by
  unfold State.waitedFor
  split
  · simp [h, State.usesMatch, cfgMatch]
  · rfl

theorem drained_iff {s : State} {i : Inval} (h : ∀ sid, i.scope ≠ .atc sid) :
    s.drained i = true ↔ ∀ f ∈ i.wait.getD [], f ∉ s.inFlight := by
  unfold State.drained
  split
  · next sid hs => exact absurd hs (h sid)
  · simp

theorem drained_atc_iff {s : State} {i : Inval} {sid : BitVec 32} (h : i.scope = .atc sid) :
    s.drained i = true ↔ ∀ f ∈ i.wait.getD [], ∀ g ∈ s.inFlight, g.txn ≠ f.txn := by
  simp [State.drained, h]

/-- An invalidation that takes effect, with the transactions that it waits for. -/
def State.begun (s : State) (i : Inval) : Inval := { i with wait := some (s.inFlight.filter (s.waitedFor i)) }

theorem beginInval_fresh {s : State} {i : Inval} (h : i.wait = none) : s.beginInval i = (s.begun i, s.applyInval i) := by
  simp only [State.beginInval, h]
  rfl

theorem beginInval_waiting {s : State} {i : Inval} {l : List Flight} (h : i.wait = some l) : s.beginInval i = (i, s) := by
  simp only [State.beginInval, h]

/-- One that takes effect is complete at once where no transaction that used what it removed is downstream (20_memory.md R480, R485). -/
theorem drained_begun_iff (s : State) (i : Inval) :
    (s.applyInval i).drained (s.begun i) = true ↔ ∀ f ∈ s.inFlight, s.waitedFor i f = false := by
  have hlist : ∀ f, f ∈ (s.begun i).wait.getD [] ↔ f ∈ s.inFlight ∧ s.waitedFor i f = true := fun f => by simp [State.begun]
  by_cases ha : ∃ sid, i.scope = .atc sid
  · obtain ⟨sid, hs⟩ := ha
    have hnone := not_waitedFor_atc (s := s) hs
    refine iff_of_true ((drained_atc_iff (i := s.begun i) hs).2 fun f hf => ?_) fun f _ => hnone f
    simpa [hnone f] using ((hlist f).1 hf).2
  · rw [drained_iff (i := s.begun i) (not_exists.1 ha)]
    constructor
    · intro h f hf
      by_contra hw
      rw [Bool.not_eq_false] at hw
      exact h f ((hlist f).2 ⟨hf, hw⟩) (mem_applyInval_inFlight hf hw)
    · intro h f hf
      obtain ⟨hmem, hw⟩ := (hlist f).1 hf
      rw [h f hmem] at hw
      cases hw

/-! ### Completion -/

theorem completeInval_eq {s : State} {n : Nat} {i : Inval} (h : s.pendingInval[n]? = some i) (hd : ∀ id, i.scope ≠ .dvmSync id) :
    s.completeInval n = { (s.beginInval i).2 with
      pendingInval := if (s.beginInval i).2.drained (s.beginInval i).1 then s.pendingInval.eraseIdx n
        else s.pendingInval.set n (s.beginInval i).1 } := by
  simp only [State.completeInval, h]

/-- One that has not taken effect yet does so, and completes or waits. -/
theorem completeInval_fresh {s : State} {n : Nat} {i : Inval} (h : s.pendingInval[n]? = some i) (hd : ∀ id, i.scope ≠ .dvmSync id)
    (hw : i.wait = none) :
    s.completeInval n = { s.applyInval i with
      pendingInval := if (s.applyInval i).drained (s.begun i) then s.pendingInval.eraseIdx n else s.pendingInval.set n (s.begun i) } := by
  rw [completeInval_eq h hd, beginInval_fresh hw]

/-- One that took effect before completes, or nothing changes. -/
theorem completeInval_waiting {s : State} {n : Nat} {i : Inval} {l : List Flight} (h : s.pendingInval[n]? = some i)
    (hd : ∀ id, i.scope ≠ .dvmSync id) (hw : i.wait = some l) :
    s.completeInval n = if s.drained i then { s with pendingInval := s.pendingInval.eraseIdx n } else s := by
  obtain ⟨hlt, hi⟩ := List.getElem?_eq_some_iff.1 h
  have hset : s.pendingInval.set n i = s.pendingInval := by rw [← hi, List.set_getElem_self]
  rw [completeInval_eq h hd, beginInval_waiting hw, hset]
  split <;> rfl

theorem completeInval_dvmSync {s : State} {n id : Nat} {i : Inval} (h : s.pendingInval[n]? = some i) (hd : i.scope = .dvmSync id) :
    s.completeInval n = if (s.pendingInval.take n).any (fun j => j.origin.isNone) then s
      else ({ s with pendingInval := s.pendingInval.eraseIdx n } : State).emit (.dvmDone id) := by
  simp only [State.completeInval, h, hd]

/-- Settles O21: an invalidation takes effect, or waits, by `wait`; a synchronisation and INV_ALL have their own cases. -/
theorem invalidationCompletes : Obligations.InvalidationCompletes := by
  refine ⟨?inval, ?sync, ?init⟩
  case init =>
    intro s rest h hoff hinit
    rw [step_of_agenda h hoff]
    exact congrArg Host.Outcome.next (if_pos hinit)
  case sync =>
    intro s n id i rest h hoff hn hd
    rw [step_of_agenda h hoff]
    have hstep := completeInval_dvmSync (s := { s with agenda := rest }) hn hd
    constructor
    · intro hnone
      refine congrArg Host.Outcome.next (hstep.trans (if_neg ?_))
      simpa using hnone
    · intro hsome
      refine congrArg Host.Outcome.next (hstep.trans (if_pos ?_))
      simpa using hsome
  case inval =>
    intro s n i rest h hoff hn hd
    let u : State := { s with agenda := rest }
    rw [step_of_agenda h hoff]
    refine ⟨fun hwait => ?fresh, fun l hwait => ?waits⟩
    case fresh =>
      refine ⟨_, congrArg Host.Outcome.next (completeInval_fresh (s := u) hn hd hwait), mem_applyInval_cfgCache (s := u),
        fun p => applyInval_tlb_cfgCache (s := u), fun e => mem_of_mem_applyInval (s := u),
        fun e => mem_applyInval_of_not_match (s := u), fun hsub e he p hp => tlbDue_of_mem_applyInval (s := u) hp hsub he,
        applyInval_inFlight_length u i, applyInval_getElem? u i,
        fun hnone => if_pos ((drained_begun_iff u i).2 hnone), fun ⟨f, hf, hw⟩ => if_neg fun hdr => ?_, ?_⟩
      · have hfree : u.waitedFor i f = false := (drained_begun_iff u i).1 hdr f hf
        exact Bool.false_ne_true (hfree.symm.trans hw)
      · exact applyInval_frame_pending u i _
    case waits =>
      have hstep := completeInval_waiting (s := u) hn hd hwait
      refine ⟨fun hatc => ?_, fun sid hatc => ?_⟩
      · have hdr := drained_iff (s := u) hatc
        rw [hwait] at hdr
        refine ⟨fun hgone => congrArg Host.Outcome.next (hstep.trans (if_pos (hdr.2 hgone))), fun ⟨f, hf, hin⟩ => ?_⟩
        exact congrArg Host.Outcome.next (hstep.trans (if_neg fun hd => hdr.1 hd f hf hin))
      · have hdr := drained_atc_iff (s := u) hatc
        rw [hwait] at hdr
        refine ⟨fun hgone => congrArg Host.Outcome.next (hstep.trans (if_pos (hdr.2 hgone))), fun ⟨f, hf, g, hg, hid⟩ => ?_⟩
        exact congrArg Host.Outcome.next (hstep.trans (if_neg fun hd => hdr.1 hd f hf g hg hid))

end Sys2Proof.Machine
end

section
/-! PROOF. Relations between states that every step keeps: a sweep over every operation of the machine, made once for all of them.
The last part is the case of `Onward` (11_registers_ns.md R200 to R209). -/
namespace Sys2Proof.Machine

/-! ### Relations that the primitive updates keep -/

/-- The fields that no operation changes but through a draw, an output, a write to memory, a handshake of CR0 or a reset. -/
def State.watched (s : State) :
    (IdRegs × Impl × List Output × Nat) × (List Host.Cell × List Host.Cell) × (W32 × W32) × W32 × W32 :=
  ((s.ids, s.impl, s.out, s.draw), (s.mem, s.internal), (s.ns.cr0Eff, s.ns.cr0Ack), s.s.cr0Eff, s.s.cr0Ack)

/-- A preorder on states that holds across a change of fields that are not watched, a draw, an output and a write to memory. -/
structure StepClosed (R : State → State → Prop) : Prop where
  refl : ∀ s, R s s
  trans : ∀ {s t u}, R s t → R t u → R s u
  quiet : ∀ {s t}, t.watched = s.watched → R s t
  draws : ∀ s n, R s { s with draw := s.draw + n }
  emit : ∀ s o, R s (s.emit o)
  store : ∀ s sw ns pa bs, R s (s.store sw ns pa bs)

/-- A computation over the state ends, with a value or a fault, in a state related to the one it began in. -/
def Tr.Rel {α : Type} (R : State → State → Prop) (x : Tr α) : Prop := ∀ s, R s (x s).2

section
variable {R : State → State → Prop} {α β : Type}

theorem Tr.Rel.run {x : Tr α} (hx : Tr.Rel R x) {s s' : State} {r : Except Flt α} (h : x s = (r, s')) : R s s' := by
  have h1 := hx s
  rwa [h] at h1

theorem of_result {x : α × State} {r : α} {s s' : State} (h : x = (r, s')) (hx : R s x.2) : R s s' := by rwa [h] at hx

namespace StepClosed

theorem ite {c : Prop} [Decidable c] {s t u : State} (ht : R s t) (hu : R s u) : R s (if c then t else u) := by
  split
  · exact ht
  · exact hu

theorem after (hR : StepClosed R) {s t u : State} (h : R t u) (h' : R s t) : R s u := hR.trans h' h

theorem drawn (hR : StepClosed R) (s : State) : R s s.drawn := hR.draws s 1

/-- Any number of free values is taken. -/
theorem drew (hR : StepClosed R) {s t : State} (h : t = { s with draw := t.draw }) (hle : s.draw ≤ t.draw) : R s t := by
  obtain ⟨n, hn⟩ := Nat.exists_eq_add_of_le hle
  rw [h, hn]
  exact hR.draws s n

theorem emits (hR : StepClosed R) (s : State) (l : List Output) : R s { s with out := s.out ++ l } := by
  induction l generalizing s with
  | nil => exact hR.quiet (by simp [State.watched])
  | cons o l ih => simpa [State.emit] using hR.trans (hR.emit s o) (ih (s.emit o))

theorem setIface (hR : StepClosed R) {s : State} {q : Sec} {i : Iface} (he : i.cr0Eff = (s.iface q).cr0Eff)
    (ha : i.cr0Ack = (s.iface q).cr0Ack) : R s (s.setIface q i) :=
  hR.quiet (by cases q <;> simp_all [State.watched, State.setIface, State.iface])

theorem foldl (hR : StepClosed R) {f : State → α → State} (hf : ∀ s a, R s (f s a)) (l : List α) (s : State) :
    R s (l.foldl f s) := by
  induction l generalizing s with
  | nil => exact hR.refl s
  | cons a l ih => exact hR.trans (hf s a) (ih (f s a))

/-! ### The rules of computations that may fault -/

theorem pure (hR : StepClosed R) (a : α) : Tr.Rel R (Pure.pure a) := hR.refl
theorem fail (hR : StepClosed R) (f : Flt) : Tr.Rel R (Tr.fail f : Tr α) := hR.refl
theorem asks (hR : StepClosed R) (f : State → α) : Tr.Rel R (Tr.asks f) := hR.refl
theorem draw (hR : StepClosed R) : Tr.Rel R Tr.draw := hR.drawn
theorem modify {f : State → State} (hf : ∀ s, R s (f s)) : Tr.Rel R (Tr.modify f) := hf
theorem lift {f : State → α × State} (hf : ∀ s, R s (f s).2) : Tr.Rel R (Tr.lift f) := hf

theorem bind (hR : StepClosed R) {x : Tr α} {f : α → Tr β} (hx : Tr.Rel R x) (hf : ∀ a, Tr.Rel R (f a)) : Tr.Rel R (x >>= f) := by
  intro s
  have hbind : (x >>= f) s = match x s with
    | (.ok a, t) => f a t
    | (.error e, t) => (.error e, t) := by
    show (ExceptT.bind x f : Tr β) s = _
    simp only [ExceptT.bind, ExceptT.mk, Bind.bind, StateT.bind]
    rcases x s with ⟨_ | _, t⟩ <;> rfl
  rw [hbind]
  split
  · next a t h => exact hR.trans (hx.run h) (hf a t)
  · next e t h => exact hx.run h

theorem choice {c : Prop} [Decidable c] {x y : Tr α} (hx : Tr.Rel R x) (hy : Tr.Rel R y) : Tr.Rel R (if c then x else y) := by
  split
  · exact hx
  · exact hy

theorem condBind (hR : StepClosed R) {c : Prop} [Decidable c] {x y : Tr α} {f : α → Tr β} (hx : Tr.Rel R x) (hy : Tr.Rel R y)
    (hf : ∀ a, Tr.Rel R (f a)) : Tr.Rel R (if c then x >>= f else y >>= f) := choice (hR.bind hx hf) (hR.bind hy hf)

theorem afterCond (hR : StepClosed R) {c : Prop} [Decidable c] {x : Tr Unit} {f : Unit → Tr α} (hx : Tr.Rel R x)
    (hf : Tr.Rel R (f ())) : Tr.Rel R (if c then x >>= f else f ()) := choice (hR.bind hx fun _ => hf) hf

end StepClosed
end

/-! ### What a command can change of the stalled transactions -/

theorem StallsOnly.refl (s : State) : StallsOnly s s := ⟨_, _, rfl⟩

theorem StallsOnly.trans {s t u : State} (h : StallsOnly s t) (h' : StallsOnly t u) : StallsOnly s u := by
  obtain ⟨l, m, rfl⟩ := h
  exact h'

theorem markStall_only (s : State) (n : Nat) (a : StallAct) : StallsOnly s (s.markStall n a) := by
  unfold State.markStall
  split
  · exact StallsOnly.refl s
  · dsimp only
    split <;> exact ⟨_, _, rfl⟩

theorem termStalls_only (sec : Sec) (sid : BitVec 32) (pick : Nat → Bool) (k n : Nat) (s : State) :
    StallsOnly s (State.termStalls sec sid pick k n s) := by
  induction k generalizing n s with
  | zero => exact StallsOnly.refl s
  | succ k ih =>
    unfold State.termStalls
    split
    · exact StallsOnly.refl s
    · refine StallsOnly.trans ?_ (ih _ _)
      split
      · exact markStall_only s n .abort
      · exact StallsOnly.refl s

section
variable {R : State → State → Prop} (hR : StepClosed R)
include hR

/-! ### Memory, RAS records and the SMMU's own accesses -/

theorem agentStore_rel (s : State) (ns : Bool) (pa : Nat) (bs : List Byte) : R s (s.agentStore ns pa bs) :=
  hR.trans (hR.store s true ns pa bs) (hR.quiet (by rfl))

theorem others_rel (s : State) : R s s.others := by
  unfold State.others
  split
  · exact hR.refl s
  · next ws rest _ => exact hR.after (hR.foldl (fun s w => agentStore_rel hR s w.ns w.pa w.bytes) ws _) (hR.quiet (by rfl))

theorem RasOnly.rel {s t : State} (h : RasOnly s t) : R s t := by
  obtain ⟨l, m, r, d, rfl⟩ := h
  exact hR.trans (hR.emits s l) (hR.trans (hR.draws _ d) (hR.quiet (by rfl)))

theorem bus_rel (s : State) (kind : AccKind) (rw : RW) (ns : Bool) (pa n : Nat) (a : Attrs) : R s (s.bus kind rw ns pa n a) :=
  (bus_only s kind rw ns pa n a).rel hR

theorem rasDetect_rel (s : State) (g n : Nat) (e : RasErr) : R s (s.rasDetect g n e) := (rasDetect_only s g n e).rel hR

theorem rasAborted_rel (s : State) (sec : Sec) (kind : AccKind) (ns : Bool) (pa : Nat) : R s (s.rasAborted sec kind ns pa) :=
  (rasAborted_only s sec kind ns pa).rel hR

theorem busRead_rel (s : State) (sec : Sec) (kind : AccKind) (ns : Bool) (pa n : Nat) (a : Attrs) :
    R s (s.busRead sec kind ns pa n a).2 := by
  have hb : R s (s.others.bus kind .read ns pa n a) := hR.trans (others_rel hR s) (bus_rel hR _ _ _ _ _ _ _)
  refine hR.trans hb ?_
  unfold State.busRead
  dsimp only
  split
  · exact rasAborted_rel hR _ _ _ _ _
  · split
    · split
      · exact hR.trans (hR.drawn _) (rasAborted_rel hR _ _ _ _ _)
      · exact hR.trans (hR.drawn _) (hR.drawn _)
    · exact hR.refl _

theorem readPieces_rel (sec : Sec) (kind : AccKind) (ns : Bool) (pa w : Nat) (a : Attrs) (n : Nat) (todo : List Nat) (acc : Nat)
    (s : State) : R s (State.readPieces sec kind ns pa w a n todo acc s).2 := by
  induction n generalizing todo acc s with
  | zero => exact hR.refl s
  | succ n ih =>
    have hread : ∀ k, R s (({ s with fetchOrder := s.fetchOrder.tail } : State).busRead sec kind ns k w a).2 := fun k =>
      hR.after (busRead_rel hR _ sec kind ns k w a) (hR.quiet (by rfl))
    unfold State.readPieces
    dsimp only
    split
    · next s' h => exact of_result h (hread _)
    · next v s' h => exact hR.after (ih _ _ _) (of_result h (hread _))

theorem structRead_rel (s : State) (sec : Sec) (kind : AccKind) (ns : Bool) (pa n : Nat) (a : Attrs) :
    R s (s.structRead sec kind ns pa n a).2 := by
  unfold State.structRead
  dsimp only
  split
  · exact busRead_rel hR _ _ _ _ _ _ _
  · exact readPieces_rel hR _ _ _ _ _ _ _ _ _ _

theorem busWrite_rel (s : State) (sec : Sec) (kind : AccKind) (ns : Bool) (pa : Nat) (bs : List Byte) (a : Attrs) :
    R s (s.busWrite sec kind ns pa bs a).2 := by
  refine hR.trans (bus_rel hR s kind .write ns pa bs.length a) ?_
  unfold State.busWrite
  dsimp only
  split
  · split
    · exact rasAborted_rel hR _ _ _ _ _
    · exact hR.refl _
  · exact hR.store _ _ _ _ _

/-! ### Interrupts, global errors, counters -/

theorem pushIrqs_rel (s : State) (l : List Irq) : R s (s.pushIrqs l) := hR.quiet (by rfl)

theorem irqRaise_rel (s : State) (q : Sec) (src : IrqSrc) (en : Bool) (c : IrqCfg) : R s (s.irqRaise q src en c) := by
  obtain ⟨l, h, -⟩ := irqRaise_eq s q src en c
  exact h ▸ pushIrqs_rel hR s l

theorem gerrorActivate_rel (s : State) (q : Sec) (g : Gerr) : R s (s.gerrorActivate q g) := by
  obtain ⟨v, l, h, -⟩ := gerrorActivate_effect s q g
  rw [h]
  exact hR.after (pushIrqs_rel hR _ l) (hR.setIface (by rfl) (by rfl))

theorem pmcgAborted_rel (s : State) (n : Nat) : R s (s.pmcgAborted n) := by
  unfold State.pmcgAborted
  split
  · exact hR.refl s
  · exact StepClosed.ite (hR.quiet (by rfl)) (hR.refl s)

theorem msiAborted_rel (s : State) (src : IrqSrc) : R s (s.msiAborted src) := by
  cases src with
  | pmcg n => exact pmcgAborted_rel hR s n
  | rasFhi g f => exact hR.refl s
  | rasEri g f => exact hR.refl s
  | _ => exact gerrorActivate_rel hR s _ _

theorem msiWrite_rel (s : State) (src : IrqSrc) (ns : Bool) (addr : W64) (data : W32) (a : Attrs) :
    R s (s.msiWrite src ns addr data a).2 :=
  hR.trans (busWrite_rel hR _ _ _ _ _ _ _) (hR.emit _ _)

theorem sendIrq_rel (s : State) (n : Nat) : R s (s.sendIrq n) := by
  unfold State.sendIrq
  split
  · exact hR.refl s
  · refine hR.trans (hR.quiet (by rfl) : R s { s with irqs := s.irqs.eraseIdx n }) ?_
    split
    · exact hR.emit _ _
    · next src ns addr data a _ =>
      have hmsi := msiWrite_rel hR { s with irqs := s.irqs.eraseIdx n } src ns addr data a
      dsimp only
      split
      · next h => exact of_result h hmsi
      · next h => exact hR.after (msiAborted_rel hR _ _) (of_result h hmsi)

theorem mergeIrq_rel (s : State) (n : Nat) : R s (s.mergeIrq n) := by
  unfold State.mergeIrq
  split
  · exact hR.refl s
  · exact StepClosed.ite (hR.quiet (by rfl)) (hR.refl s)

theorem flushSyncs_rel (q : Sec) (k : Nat) (s : State) : R s (State.flushSyncs q k s) := by
  induction k generalizing s with
  | zero => exact hR.refl s
  | succ k ih =>
    unfold State.flushSyncs
    split
    · exact hR.refl s
    · exact hR.trans (sendIrq_rel hR s _) (ih _)

theorem pmcgSeen_rel (s : State) (n : Nat) (g : Pmcg) (src : Option (Sec × BitVec 32)) : R s (s.pmcgSeen n g src).2 := by
  obtain h | h | ⟨_, _, _, h⟩ := pmcgSeen_cases s n g src <;> rw [h]
  · exact hR.refl s
  · exact hR.drawn s
  · exact hR.drawn s

theorem pmuFrom_rel (id : Nat) (src : Option (Sec × BitVec 32)) (k n : Nat) (s : State) : R s (State.pmuFrom id src k n s) := by
  induction k generalizing n s with
  | zero => exact hR.refl s
  | succ k ih =>
    unfold State.pmuFrom
    split
    · exact hR.refl s
    · next g _ =>
      refine hR.trans (pmcgSeen_rel hR s n g src) (hR.trans ?_ (ih _ _))
      dsimp only
      split
      · exact hR.quiet (by rfl)
      · exact hR.quiet (by rfl)

theorem pmu_rel (s : State) (id : Nat) (src : Option (Sec × BitVec 32)) : R s (s.pmu id src) :=
  StepClosed.ite (pmuFrom_rel hR _ _ _ _ s) (hR.refl s)

/-! ### Consumption, the command error procedure and the Event queue -/

theorem showCons_rel (s : State) (q : Sec) : R s (s.showCons q) := by
  rw [showCons_eq, ← setIface_out s q]
  exact hR.after (hR.emits _ _) (hR.setIface (by rfl) (by rfl))

theorem consume_rel (s : State) : R s s.consume := by
  have hmoved : ∀ k c, R s (({ s with cmdCache := k } : State).setIface s.curQ { s.iface s.curQ with cmdqCons := c }) := fun k c =>
    hR.after (hR.setIface (by rw [cmdCache_iface s k]) (by rw [cmdCache_iface s k])) (hR.quiet (by rfl))
  exact StepClosed.ite (hR.after (showCons_rel hR _ _) (hmoved _ _)) (hmoved _ _)

theorem cmdError_rel (s : State) (c : Cerror) : R s (s.cmdError c) :=
  hR.after (gerrorActivate_rel hR _ _ _) (hR.after (hR.setIface (by rfl) (by rfl)) (hR.after (showCons_rel hR _ _) (hR.quiet (by rfl))))

theorem setEvents_rel (s : State) (q : Sec) (l : List PendEv) : R s (s.setEvents q l) := hR.quiet (by cases q <;> rfl)

theorem recordEvent_rel (s : State) (q : Sec) (e : PendEv) : R s (s.recordEvent q e) :=
  StepClosed.ite (hR.refl s) (setEvents_rel hR s q _)

/-- What follows the write of a record: the index moves on, an abort is an error, the interrupt of an empty queue is raised. -/
theorem eventWritten_rel (t : State) (q : Sec) (prod : W32) (ok wasEmpty : Bool) :
    R t (let s := t.setIface q { t.iface q with eventqProd := prod }
      let s := if ok then s else s.gerrorActivate q .eventqAbt
      if wasEmpty then s.eventqIrq q else s) := by
  have hmoved : R t (t.setIface q { t.iface q with eventqProd := prod }) := hR.setIface (by rfl) (by rfl)
  refine hR.trans hmoved ?_
  dsimp only
  generalize t.setIface q _ = u
  have herr : R u (if ok then u else u.gerrorActivate q .eventqAbt) := StepClosed.ite (hR.refl u) (gerrorActivate_rel hR u q _)
  exact StepClosed.ite (hR.after (irqRaise_rel hR _ _ _ _ _) herr) herr

theorem commitEvent_rel (s : State) (q : Sec) (e : PendEv) : R s (s.commitEvent q e) := by
  have hwritten : ∀ pa bs a, R s (s.drawn.busWrite q .eventq q.isNs pa bs a).2 := fun pa bs a =>
    hR.trans (hR.drawn s) (busWrite_rel hR s.drawn q .eventq q.isNs pa bs a)
  have hmarked : ∀ (c : Bool) (t : State), R s t → R s (if c then t else t.markRecorded q e) := fun c t h =>
    StepClosed.ite h (hR.after (hR.quiet (by rfl)) h)
  exact StepClosed.ite (hR.after (gerrorActivate_rel hR _ q _) (hmarked _ _ (hwritten _ _ _)))
    (hR.after (eventWritten_rel hR _ q _ _ _) (hmarked _ _ (hwritten _ _ _)))

theorem eventqHolds_rel (s : State) (q : Sec) : R s (s.eventqHolds q).2 := by
  unfold State.eventqHolds
  split
  · exact hR.drawn s
  · exact hR.refl s

theorem deliverEvent_rel (s : State) (q : Sec) (n : Nat) : R s (s.deliverEvent q n) := by
  unfold State.deliverEvent
  split
  · exact hR.refl s
  · next e _ =>
    refine hR.trans (eventqHolds_rel hR s q) ?_
    dsimp only
    generalize (s.eventqHolds q).2 = t
    refine StepClosed.ite (hR.refl t) (StepClosed.ite ?_ (StepClosed.ite (hR.refl t) ?_))
    · exact hR.trans (setEvents_rel hR _ _ _) (commitEvent_rel hR _ _ _)
    · exact hR.trans (setEvents_rel hR _ _ _) (StepClosed.ite (hR.setIface (by rfl) (by rfl)) (hR.refl _))

theorem deliverFrom_rel (q : Sec) (k n : Nat) (s : State) : R s (State.deliverFrom q k n s) := by
  induction k generalizing n s with
  | zero => exact hR.refl s
  | succ k ih => exact hR.trans (deliverEvent_rel hR s q n) (StepClosed.ite (ih _ _) (ih _ _))

/-- What follows an activation by software: a queue error stops the queue, the interrupt is raised or not. -/
theorem gerrorSet_rel (t : State) (q : Sec) (irq : Bool) :
    R t (let s :=
        if (t.iface q).gerrActive .cmdq then ({ t with cmdCache := t.cmdCache.filter fun x => x.1 != q } : State).showCons q else t
      if irq then s.gerrorIrq q else s) := by
  have hstop : R t (if (t.iface q).gerrActive .cmdq then ({ t with cmdCache := t.cmdCache.filter fun x => x.1 != q } : State).showCons q
      else t) := StepClosed.ite (hR.after (showCons_rel hR _ _) (hR.quiet (by rfl))) (hR.refl t)
  exact StepClosed.ite (hR.after (irqRaise_rel hR _ _ _ _ _) hstop) hstop

theorem ackGerror_rel (s : State) (q : Sec) (v : W32) : R s (s.ackGerror q v) := by
  have hset : ∀ g n, R s (s.drawn.setIface q { s.iface q with gerrorn := n, gerror := g }) := fun g n =>
    hR.after (hR.setIface (by cases q <;> rfl) (by cases q <;> rfl)) (hR.drawn s)
  exact StepClosed.ite (hR.setIface (by rfl) (by rfl)) (hR.after (gerrorSet_rel hR _ q _) (hset _ _))

/-! ### Stalled transactions -/

theorem StallsOnly.rel {s t : State} (h : StallsOnly s t) : R s t := by
  obtain ⟨l, m, rfl⟩ := h
  exact hR.quiet (by rfl)

theorem ackStag_rel (s : State) (sec : Sec) (sid : BitVec 32) (tag : BitVec 16) : R s (s.ackStag sec sid tag) := hR.quiet (by rfl)

theorem staleStalls_rel (s : State) (q : Sec) : R s (s.staleStalls q) :=
  hR.trans (setEvents_rel hR s q []) ((staleStalls_only s q).rel hR)

theorem markStall_rel (s : State) (n : Nat) (a : StallAct) : R s (s.markStall n a) := (markStall_only s n a).rel hR

theorem doFor_rel (s : State) (t : Txn) {f : State → State} (hf : ∀ s, R s (f s)) : R s (s.doFor t f) :=
  hR.after (hR.quiet (by rfl)) (hR.after (hf _) (hR.quiet (by rfl)))

end
end Sys2Proof.Machine
end

section
/-! PROOF. The sweep: translation table walks, the TLB, the configuration lookup. -/
namespace Sys2Proof.Machine

section
variable {R : State → State → Prop} (hR : StepClosed R)
include hR

/-! ### The pieces of a walk -/

theorem conflictOr_rel {α : Type} (last : Bool) (f : Flt) (x : α) (xs : List α) : Tr.Rel R (conflictOr last f x xs) :=
  hR.bind hR.draw fun _ => StepClosed.choice (hR.fail _)
    (StepClosed.choice (hR.bind (StepClosed.modify fun _ => hR.quiet (by rfl)) fun _ => hR.pure _) (hR.pure _))

theorem spend_rel : Tr.Rel R spend := StepClosed.lift fun s => by
  split
  · exact hR.refl s
  · exact hR.refl s
  · exact hR.quiet (by rfl)

/-- A port reads and updates descriptors through accesses that keep the relation. -/
structure DescPort.Rel (R : State → State → Prop) (port : DescPort) : Prop where
  read : ∀ a ns, Tr.Rel R (port.read a ns)
  write : ∀ a ns old d, Tr.Rel R (port.write a ns old d)

theorem passiveAf_rel {port : DescPort} (hp : port.Rel R) (report : Bool) (a : W64) (ns : Bool) (old d : W64) :
    Tr.Rel R (passiveAf port report a ns old d) := by
  refine hR.bind hR.draw fun _ => StepClosed.choice (fun s => ?_) (hR.pure _)
  split
  · next h => exact (hp.write a ns old d).run h
  · next h => exact (hp.write a ns old d).run h

theorem leafStep_rel (cfg : WalkCfg) {port : DescPort} (hp : port.Rel R) (acc : Acc) (perms : Leaf → Perms) (fault : FKind → Flt)
    (a : W64) (ns : Bool) (l : Leaf) : Tr.Rel R (leafStep cfg port acc perms fault a ns l) := by
  have haf : ∀ x, Tr.Rel R (if cfg.passive then passiveAf port cfg.passiveReport a ns l.desc x else port.write a ns l.desc x) := fun x =>
    StepClosed.choice (passiveAf_rel hR hp _ _ _ _ _) (hp.write _ _ _ _)
  refine hR.condBind hR.draw (hR.pure _) fun skip => StepClosed.choice (hR.fail _)
    (StepClosed.choice ?dirty (StepClosed.choice ?served ?denied))
  case dirty =>
    exact StepClosed.choice (hR.bind (hp.write _ _ _ _) fun _ => hR.pure _) (hR.condBind (haf _) (hR.pure _) fun _ => hR.pure _)
  case served =>
    exact hR.condBind (hR.bind hR.draw fun _ => hR.pure _) (hR.pure _) fun _ =>
      hR.condBind (haf _) (hR.pure _) fun _ => hR.pure _
  case denied =>
    exact StepClosed.choice
      (hR.bind hR.draw fun _ => StepClosed.choice (hR.bind (haf _) fun _ => hR.fail _) (hR.fail _)) (hR.fail _)

theorem walkFrom_rel (cfg : WalkCfg) {port : DescPort} (hp : port.Rel R) (acc : Acc) (perms : Leaf → Perms) (fault : FKind → Flt)
    {note : Leaf → State → State} (hn : ∀ l s, R s (note l s)) (ia : W64) (fuel level : Nat) (table : W64) (wa : WalkAcc) :
    Tr.Rel R (walkFrom cfg port acc perms fault note ia fuel level table wa) := by
  induction fuel generalizing level table wa with
  | zero => exact hR.fail _
  | succ fuel ih =>
    unfold walkFrom
    refine hR.bind (hp.read _ _) fun raw => ?_
    dsimp only
    split
    · exact hR.fail _
    · exact StepClosed.choice (hR.fail _) (hR.bind (StepClosed.modify fun s => hn _ s) fun _ => ih _ _ _)
    · refine StepClosed.choice (hR.fail _) (hR.bind (leafStep_rel hR cfg hp acc perms fault _ _ _) fun r => ?_)
      cases r with
      | none => exact ih _ _ _
      | some l => exact hR.pure l

theorem walk_rel (cfg : WalkCfg) {port : DescPort} (hp : port.Rel R) (acc : Acc) (perms : Leaf → Perms) (fault : FKind → Flt)
    {note : Leaf → State → State} (hn : ∀ l s, R s (note l s)) (cached : Option Leaf) (ia : W64) :
    Tr.Rel R (walk cfg port acc perms fault note cached ia) :=
  hR.bind (hR.asks _) fun _ => by cases cached <;> exact walkFrom_rel hR cfg hp acc perms fault hn ia _ _ _ _

theorem readDescPa_rel (sec : Sec) (sid : BitVec 32) (eabt : W64 → Flt) (ns : Bool) (a : W64) (attrs : Attrs) :
    Tr.Rel R (readDescPa sec sid eabt ns a attrs) :=
  hR.bind (hR.asks _) fun _ => hR.bind (spend_rel hR) fun _ => StepClosed.choice
    (hR.bind (StepClosed.modify fun s => pmu_rel hR s _ _) fun _ =>
      hR.bind (StepClosed.lift fun s => busRead_rel hR s _ _ _ _ _ _) fun v => by
      cases v with
      | none => exact hR.fail _
      | some v => exact hR.pure _)
    (hR.fail _)

theorem writeDescPa_rel (sec : Sec) (sid : BitVec 32) (eabt : W64 → Flt) (big ns : Bool) (a : W64) (old d : W64) (attrs : Attrs) :
    Tr.Rel R (writeDescPa sec sid eabt big ns a old d attrs) := by
  refine hR.bind (hR.asks _) fun _ => hR.bind (spend_rel hR) fun _ => hR.bind (hR.asks _) fun _ =>
    hR.condBind (hR.bind hR.draw fun _ => hR.pure _) (hR.pure _) fun _ =>
    StepClosed.choice (hR.fail _) (StepClosed.choice (hR.pure _) ?_)
  refine hR.bind (StepClosed.modify fun s => hR.trans (pmu_rel hR s _ _) (others_rel hR _)) fun _ => hR.bind (hR.asks _) fun _ =>
    StepClosed.choice (hR.pure _) ?_
  exact hR.bind (StepClosed.lift fun s => busWrite_rel hR s _ _ _ _ _ _) fun _ => StepClosed.choice (hR.pure _) (hR.fail _)

/-! ### The TLB -/

theorem tlbHits_rel (c : Ctx) (va : Bool) (a : W64) : Tr.Rel R (tlbHits c va a) :=
  hR.bind (hR.asks _) fun _ => hR.condBind (hR.bind hR.draw fun _ => hR.pure _) (hR.pure _) fun _ => hR.asks _

theorem chooseHit_rel {α : Type} (f : Flt) (l : List α) : Tr.Rel R (chooseHit f l) := by
  match l with
  | [] => exact hR.pure _
  | [x] => exact hR.pure _
  | x :: y :: ys => exact hR.bind (hR.asks _) fun _ => hR.bind (conflictOr_rel hR _ _ _ _) fun _ => hR.pure _

theorem tlbInsert_rel (s : State) (e : TlbEnt) : R s (s.tlbInsert e) := StepClosed.ite (hR.quiet (by rfl)) (hR.refl s)

theorem tlbInsertFor_rel (s : State) (c : Ctx) (e : TlbEnt) : R s (s.tlbInsertFor c e) :=
  StepClosed.ite (hR.refl s) (tlbInsert_rel hR s e)

theorem walkNote_rel (s : State) (c : Ctx) (va own : Bool) (a : W64) (l : Leaf) : R s (s.walkNote c va own a l) := by
  have hnoted : R s (if own then s.noteTlb (s.walkEntry c va a l) else s) := StepClosed.ite (hR.quiet (by rfl)) (hR.refl s)
  exact StepClosed.ite (hR.after (tlbInsertFor_rel hR _ c _) hnoted) hnoted

theorem walkLookup_rel (c : Ctx) (va own : Bool) (a : W64) : Tr.Rel R (walkLookup c va own a) := by
  refine hR.bind (hR.asks _) fun hits => StepClosed.choice (hR.pure _) (hR.bind hR.draw fun x => ?_)
  split
  · exact hR.pure _
  · exact hR.bind (StepClosed.modify fun s => StepClosed.ite (hR.quiet (by rfl)) (hR.quiet (by rfl))) fun _ => hR.pure _

theorem tlbLookupVa_rel (c : Ctx) (va : W64) : Tr.Rel R (tlbLookupVa c va) := by
  refine hR.bind (hR.asks _) fun kept => hR.condBind (hR.pure _) hR.draw fun x => hR.bind (hR.asks _) fun ia => ?_
  cases ia with
  | none => exact StepClosed.choice (hR.bind (hR.fail _) fun _ => chooseHit_rel hR _ _) (hR.bind (hR.pure _) fun _ => chooseHit_rel hR _ _)
  | some ia => exact hR.bind (tlbHits_rel hR c _ _) fun _ => hR.bind (hR.pure _) fun _ => chooseHit_rel hR _ _

theorem keptSif_rel (c : Ctx) (e : TlbEnt) : Tr.Rel R (keptSif c e) :=
  StepClosed.choice (hR.pure _) (hR.bind hR.draw fun _ => hR.pure _)

theorem keptCtx_rel (c : Ctx) (e : TlbEnt) : Tr.Rel R (keptCtx c e) :=
  StepClosed.choice (hR.pure _) (hR.bind hR.draw fun _ => hR.pure _)

/-! ### The two stages -/

theorem keptIpa_rel (c : Ctx) (ipa : W64) : Tr.Rel R (keptIpa c ipa) :=
  hR.bind (hR.asks _) fun _ => hR.condBind (hR.pure _) hR.draw fun _ => hR.pure _

theorem stage2Found_rel (c : Ctx) (acc : Acc) (cls : FClass) (s0 : State) (fault : FKind → Flt) (x : TlbEnt) :
    Tr.Rel R (stage2Translate.found c acc cls s0 fault x) := by
  unfold stage2Translate.found
  split
  · exact hR.pure _
  · refine hR.bind (keptCtx_rel hR c x) fun k => StepClosed.choice (hR.pure _)
      (hR.bind (StepClosed.modify fun _ => hR.quiet (by rfl)) fun _ => ?_)
    exact StepClosed.choice
      (StepClosed.choice (hR.bind (StepClosed.modify fun _ => hR.quiet (by rfl)) fun _ => hR.pure _) (hR.pure _)) (hR.fail _)

theorem stage2Miss_rel (c : Ctx) (ipa : W64) (acc : Acc) (cls : FClass) (s0 : State) (fault : FKind → Flt) (cfg : WalkCfg) :
    Tr.Rel R (stage2Translate.miss c ipa acc cls s0 fault cfg) :=
  hR.bind (StepClosed.modify fun _ => hR.quiet (by rfl)) fun _ => hR.bind (walkLookup_rel hR c _ _ _) fun _ =>
    hR.bind (walk_rel hR cfg ⟨fun _ _ => readDescPa_rel hR _ _ _ _ _ _, fun _ _ _ _ => writeDescPa_rel hR _ _ _ _ _ _ _ _ _⟩ _ _ _
      (fun _ s => walkNote_rel hR s c _ _ _ _) _ _) fun _ =>
    StepClosed.choice (hR.fail _) (hR.bind (StepClosed.modify fun s => tlbInsertFor_rel hR s c _) fun _ => hR.pure _)

theorem stage2Translate_rel (c : Ctx) (ipa : W64) (acc : Acc) (cls : FClass) : Tr.Rel R (stage2Translate c ipa acc cls) := by
  have hend : ∀ s0 fault cfg (outside : Bool) (l : Option Leaf), Tr.Rel R (match l with
      | some l => pure l
      | none => if outside then Tr.fail (fault .translation) else stage2Translate.miss c ipa acc cls s0 fault cfg) := by
    intro s0 fault cfg outside l
    cases l with
    | some l => exact hR.pure l
    | none => exact StepClosed.choice (hR.fail _) (stage2Miss_rel hR _ _ _ _ _ _ _)
  refine hR.bind (hR.asks _) fun s0 => hR.condBind (keptIpa_rel hR c ipa) (tlbHits_rel hR c _ _) fun hits =>
    hR.bind (chooseHit_rel hR _ _) fun hit => ?_
  cases hit with
  | none => exact hR.bind (hR.pure _) fun l => hend _ _ _ _ l
  | some x => exact hR.bind (stage2Found_rel hR _ _ _ _ _ x) fun l => hend _ _ _ _ l

theorem structPa_rel (c : Ctx) (a : W64) (acc : Acc) (cls : FClass) (attrs : Attrs) : Tr.Rel R (structPa c a acc cls attrs) :=
  StepClosed.choice (hR.bind (stage2Translate_rel hR _ _ _ _) fun _ => hR.bind (hR.asks _) fun _ => hR.pure _) (hR.pure _)

theorem s1Port_rel (c : Ctx) (cfg : WalkCfg) : (s1Port c cfg).Rel R where
  read a ns := by
    refine hR.condBind (hR.bind hR.draw fun _ => hR.pure _) (hR.pure _) fun _ =>
      hR.afterCond (StepClosed.modify fun s => stage2Translate_rel hR c a _ .tt s) ?_
    exact hR.bind (structPa_rel hR _ _ _ _ _) fun _ => readDescPa_rel hR _ _ _ _ _ _
  write a ns old d := hR.bind (structPa_rel hR _ _ _ _ _) fun _ => writeDescPa_rel hR _ _ _ _ _ _ _ _ _

theorem stage1Walk_rel (c : Ctx) (va : W64) (acc : Acc) : Tr.Rel R (stage1Walk c va acc) := by
  refine hR.bind (hR.asks _) fun s0 => ?_
  dsimp only
  split
  · exact hR.fail _
  · exact StepClosed.choice (hR.fail _) (hR.bind (StepClosed.modify fun _ => hR.quiet (by rfl)) fun _ =>
      hR.bind (walkLookup_rel hR c _ _ _) fun _ =>
      hR.bind (walk_rel hR _ (s1Port_rel hR c _) acc _ _ (fun _ s => walkNote_rel hR s c _ _ _ _) _ _) fun _ => hR.pure _)

theorem stage1Only_rel (c : Ctx) (va : W64) (acc : Acc) : Tr.Rel R (stage1Only c va acc) := by
  have hmiss : Tr.Rel R (stage1Only.miss c va acc) := hR.bind (stage1Walk_rel hR c va acc) fun _ => hR.pure _
  refine hR.bind (tlbLookupVa_rel hR c va) fun hit => ?_
  match hit with
  | none => exact hmiss
  | some (ia, e) =>
    dsimp only
    split
    · exact hmiss
    · exact hR.bind (keptCtx_rel hR c e) fun _ => hR.bind (keptSif_rel hR c e) fun _ =>
        StepClosed.choice hmiss (StepClosed.choice (hR.pure _) (hR.fail _))

theorem heldFault_rel (c : Ctx) (va : W64) (acc : Acc) : Tr.Rel R (heldFault c va acc) := by
  intro s
  unfold heldFault
  dsimp only
  split
  · exact hR.refl s
  · next ia l1 s' h =>
    have hwalk := (stage1Walk_rel hR _ va acc).run h
    split
    · exact hR.refl s
    · split
      · next h2 => exact hR.trans hwalk ((stage2Translate_rel hR _ _ _ _).run h2)
      · exact hR.refl s

theorem vaMiss_rel (c : Ctx) (va : W64) (acc : Acc) (s0 : State) : Tr.Rel R (vaTranslate.miss c va acc s0) := by
  refine hR.condBind (hR.bind hR.draw fun _ => hR.pure _) (hR.pure _) fun _ => hR.afterCond (heldFault_rel hR c va acc) ?_
  refine hR.bind (stage1Walk_rel hR c va acc) fun p => StepClosed.choice (hR.fail _) (StepClosed.choice ?_ ?_)
  · exact hR.bind (stage2Translate_rel hR _ _ _ _) fun _ =>
      hR.bind (StepClosed.modify fun s => tlbInsertFor_rel hR s _ _) fun _ => hR.pure _
  · exact hR.bind (StepClosed.modify fun s => tlbInsertFor_rel hR s _ _) fun _ => hR.pure _

theorem vaTranslate_rel (c : Ctx) (va : W64) (acc : Acc) : Tr.Rel R (vaTranslate c va acc) := by
  refine hR.bind (hR.asks _) fun s0 => hR.bind (tlbLookupVa_rel hR c va) fun hit => ?_
  have hmiss := vaMiss_rel hR c va acc s0
  match hit with
  | none => exact hmiss
  | some (ia, e) =>
    dsimp only
    split
    · exact hmiss
    · refine hR.bind (keptCtx_rel hR c e) fun k => hR.bind (keptSif_rel hR c e) fun sif =>
        StepClosed.choice hmiss (StepClosed.choice (hR.fail _) (StepClosed.choice (hR.fail _) ?_))
      split
      · exact hR.bind (StepClosed.modify fun _ => hR.quiet (by rfl)) fun _ => hR.pure _
      · exact StepClosed.choice hmiss (StepClosed.choice (hR.fail _)
          (hR.bind (StepClosed.modify fun _ => hR.quiet (by rfl)) fun _ => hR.pure _))

end
end Sys2Proof.Machine
end

section
/-! PROOF. The sweep: the configuration lookup. -/
namespace Sys2Proof.Machine

section
variable {R : State → State → Prop} (hR : StepClosed R)
include hR

theorem cfgKeep_rel (s : State) (usable : Bool) (e : CfgEnt) : R s (s.cfgKeep usable e) :=
  StepClosed.ite (StepClosed.ite (hR.quiet (by rfl)) (hR.refl s)) (hR.refl s)

theorem keepNote_rel (s : State) (usable : Bool) (e : CfgEnt) : R s ((s.cfgKeep usable e).noteCfg e) :=
  hR.after (hR.quiet (by rfl)) (cfgKeep_rel hR s usable e)

theorem freshRegs_rel (sec : Sec) : Tr.Rel R (freshRegs sec) :=
  hR.bind (hR.asks _) fun _ => StepClosed.choice (hR.bind hR.draw fun _ => hR.pure _) (hR.pure _)

theorem hitRegs_rel (sec : Sec) (old : CfgRegs) : Tr.Rel R (hitRegs sec old) :=
  hR.bind (freshRegs_rel hR sec) fun _ => StepClosed.choice (hR.pure _) (hR.bind hR.draw fun _ => hR.pure _)

theorem structEvent_rel (s : State) (sec : Sec) (sid : BitVec 32) (n : Nat) : R s (s.structEvent sec sid n) :=
  hR.after (pmu_rel hR _ _ _) (StepClosed.ite (hR.quiet (by rfl)) (hR.refl s))

theorem readSte_rel (sec : Sec) (sid : BitVec 32) (r : CfgRegs) (a : W64) (n : Nat) : Tr.Rel R (readSte sec sid r a n) := by
  refine hR.bind (hR.asks _) fun _ => StepClosed.choice (hR.fail _) (hR.bind (spend_rel hR) fun _ => hR.afterCond (hR.fail _) ?_)
  refine hR.bind (StepClosed.modify fun s => structEvent_rel hR s _ _ _) fun _ =>
    hR.bind (StepClosed.lift fun s => structRead_rel hR s _ _ _ _ _ _) fun v => ?_
  cases v with
  | none => exact hR.fail _
  | some v => exact hR.pure v

theorem getL1std_rel (sec : Sec) (sid : BitVec 32) : Tr.Rel R (getL1std sec sid) := by
  refine hR.bind (hR.asks _) fun s => ?_
  split
  · exact hR.bind (hitRegs_rel hR sec _) fun _ => hR.bind (StepClosed.modify fun _ => hR.quiet (by rfl)) fun _ => hR.pure _
  · exact hR.bind (freshRegs_rel hR sec) fun _ => hR.bind (readSte_rel hR _ _ _ _ _) fun _ =>
      hR.bind (StepClosed.modify fun s => keepNote_rel hR s _ _) fun _ => hR.pure _

theorem steAddr_rel (sec : Sec) (sid : BitVec 32) : Tr.Rel R (steAddr sec sid) :=
  hR.bind (hR.asks _) fun _ => StepClosed.choice
    (hR.bind (getL1std_rel hR sec sid) fun _ => StepClosed.choice (hR.pure _) (hR.fail _))
    (hR.bind (freshRegs_rel hR sec) fun _ => hR.pure _)

theorem checkSte_rel (sec : Sec) (r : CfgRegs) (e : StructWord) : Tr.Rel R (checkSte sec r e) :=
  hR.bind (hR.asks _) fun _ => StepClosed.choice (hR.pure _) (hR.fail _)

theorem fetchSte_rel (sec : Sec) (sid : BitVec 32) : Tr.Rel R (fetchSte sec sid) :=
  hR.bind (steAddr_rel hR sec sid) fun _ => hR.bind (hR.asks _) fun _ => hR.bind (readSte_rel hR _ _ _ _ _) fun _ =>
    hR.bind (StepClosed.modify fun s => keepNote_rel hR s _ _) fun _ => hR.pure _

theorem cachedSte_rel (sec : Sec) (sid : BitVec 32) : Tr.Rel R (cachedSte sec sid) := by
  refine hR.bind (hR.asks _) fun s => ?_
  split
  · exact hR.pure _
  · exact hR.condBind (hR.pure _) (conflictOr_rel hR _ _ _ _) fun _ =>
      hR.bind (StepClosed.modify fun _ => hR.quiet (by rfl)) fun _ => hR.pure _

theorem getSte_rel (sec : Sec) (sid : BitVec 32) : Tr.Rel R (getSte sec sid) := by
  refine hR.bind (StepClosed.modify fun _ => hR.quiet (by rfl)) fun _ => hR.bind (cachedSte_rel hR sec sid) fun held => ?_
  cases held with
  | some c => exact hR.bind (hitRegs_rel hR sec _) fun _ => hR.bind (checkSte_rel hR _ _ _) fun _ => hR.pure _
  | none =>
    exact hR.bind (hR.asks _) fun _ => StepClosed.choice (hR.fail _)
      (hR.bind (fetchSte_rel hR sec sid) fun _ => hR.bind (checkSte_rel hR _ _ _) fun _ => hR.pure _)

theorem cdSelect_rel (e : StructWord) (ssv : Bool) (ssid : BitVec 20) : Tr.Rel R (cdSelect e ssv ssid) :=
  hR.bind (hR.asks _) fun _ => StepClosed.choice (hR.fail _) (StepClosed.choice (hR.pure _) (StepClosed.choice (hR.pure _)
    (StepClosed.choice (StepClosed.choice (hR.pure _) (StepClosed.choice (hR.pure _) (hR.fail _)))
      (StepClosed.choice (hR.fail _) (hR.pure _)))))

theorem oorPtr_rel (e : StructWord) (a : W64) (bad : Flt) : Tr.Rel R (oorPtr e a bad) := by
  refine hR.bind (hR.asks _) fun s => StepClosed.choice (StepClosed.choice (hR.pure _) ?ipa)
    (StepClosed.choice (hR.pure _) (StepClosed.choice (hR.fail _) ?pa))
  case ipa =>
    split
    · exact hR.fail _
    · exact hR.pure _
    · exact StepClosed.choice (hR.pure _) (hR.pure _)
  case pa =>
    split
    · exact hR.fail _
    · exact hR.fail _
    · exact hR.pure _

theorem readCd_rel (c : Ctx) (a : W64) (n : Nat) : Tr.Rel R (readCd c a n) := by
  refine hR.bind (structPa_rel hR _ _ _ _ _) fun _ => hR.bind (hR.asks _) fun _ => hR.bind (spend_rel hR) fun _ =>
    hR.afterCond (hR.fail _) ?_
  refine hR.bind (StepClosed.modify fun s => structEvent_rel hR s _ _ _) fun _ =>
    hR.bind (StepClosed.lift fun s => structRead_rel hR s _ _ _ _ _ _) fun v => ?_
  cases v with
  | none => exact hR.fail _
  | some v => exact hR.pure v

theorem getL1cd_rel (c : Ctx) (idx : Nat) : Tr.Rel R (getL1cd c idx) := by
  refine hR.bind (hR.asks _) fun s => ?_
  dsimp only
  split
  · exact hR.bind (StepClosed.modify fun _ => hR.quiet (by rfl)) fun _ => StepClosed.choice (hR.pure _) (hR.fail _)
  · exact hR.bind (oorPtr_rel hR _ _ _) fun _ => hR.bind (readCd_rel hR _ _ _) fun _ =>
      hR.bind (StepClosed.modify fun s => keepNote_rel hR s _ _) fun _ => StepClosed.choice (hR.pure _) (hR.fail _)

theorem cdAddr_rel (c : Ctx) (idx : Nat) : Tr.Rel R (cdAddr c idx) :=
  hR.bind (hR.asks _) fun _ => StepClosed.choice (hR.bind (getL1cd_rel hR c idx) fun _ => oorPtr_rel hR _ _ _) (oorPtr_rel hR _ _ _)

theorem checkCd_rel (c : Ctx) (d : StructWord) : Tr.Rel R (checkCd c d) :=
  hR.bind (hR.asks _) fun _ => StepClosed.choice (hR.pure _) (hR.fail _)

theorem fetchCd_rel (c : Ctx) (idx : Nat) : Tr.Rel R (fetchCd c idx) :=
  hR.bind (cdAddr_rel hR c idx) fun _ => hR.bind (readCd_rel hR _ _ _) fun _ =>
    hR.bind (StepClosed.modify fun s => keepNote_rel hR s _ _) fun _ => hR.pure _

theorem getCd_rel (c : Ctx) (idx : Nat) : Tr.Rel R (getCd c idx) := by
  refine hR.bind (hR.asks _) fun hits => ?_
  cases hits with
  | cons x _ => exact hR.bind (StepClosed.modify fun _ => hR.quiet (by rfl)) fun _ => checkCd_rel hR _ _
  | nil => exact hR.bind (fetchCd_rel hR c idx) fun _ => checkCd_rel hR _ _

theorem prefetchCfg_rel (sec : Sec) (sid : BitVec 32) (ssid : Option (BitVec 20)) : Tr.Rel R (prefetchCfg sec sid ssid) := by
  have hcd : ∀ p : StructWord × CfgRegs, Tr.Rel R (match ssid with
      | none => pure ()
      | some x => do
        let s ← Tr.asks id
        if s.steUsable sec p.2 p.1 && Ste.enabled p.1 && Ste.cfgS1 p.1 &&
            (!s.subEnabled p.1 || decide (x.toNat < 2 ^ Ste.s1cdmax p.1)) then
          let _ ← fetchCd (s.ctx sec sid p.1 p.2) (if s.subEnabled p.1 then x.toNat else 0)) := by
    intro p
    cases ssid with
    | none => exact hR.pure ()
    | some x => exact hR.bind (hR.asks _) fun _ => StepClosed.choice (hR.bind (fetchCd_rel hR _ _) fun _ => hR.pure _) (hR.pure _)
  refine hR.bind (StepClosed.modify fun _ => hR.quiet (by rfl)) fun _ => hR.bind (cachedSte_rel hR sec sid) fun held =>
    hR.bind (hR.asks _) fun _ => ?_
  cases held with
  | some c => exact hR.bind (hR.pure _) hcd
  | none => exact hR.condBind (fetchSte_rel hR sec sid) (hR.fail _) hcd

theorem cfgPrefetch_rel (s : State) (sec : Sec) (sid : BitVec 32) (ssid : Option (BitVec 20)) : R s (s.cfgPrefetch sec sid ssid) :=
  StepClosed.ite (prefetchCfg_rel hR sec sid ssid s) (hR.refl s)

end
end Sys2Proof.Machine
end

section
/-! PROOF. The sweep: client transactions, ATS, ATOS, PRI and prefetches. -/
namespace Sys2Proof.Machine

section
variable {R : State → State → Prop} (hR : StepClosed R)
include hR

/-! ### Client transactions -/

theorem countMisses_rel (s : State) (sec : Sec) (sid : BitVec 32) : R s (s.countMisses sec sid) := by
  have hwalked : R s (if s.trail.walked && !s.trail.tlbUsed then s.pmu 2 (some (sec, sid)) else s) :=
    StepClosed.ite (pmu_rel hR s _ _) (hR.refl s)
  exact StepClosed.ite (hR.after (pmu_rel hR _ _ _) hwalked) hwalked

theorem abortTxn_rel (s : State) (t : Txn) : R s (s.abortTxn t) := hR.emit s _

theorem recordFault_rel (s : State) (j : Job) (i : Attrs) (mev : Bool) (f : Flt) (stag : Option (BitVec 16)) :
    R s (s.recordFault j i mev f stag) :=
  StepClosed.ite (hR.refl s) (hR.after (recordEvent_rel hR _ _ _) (hR.after (hR.drawn _) (hR.drawn s)))

theorem refuseTxn_rel (s : State) (j : Job) (i : Attrs) (mev : Bool) (f : Flt) : R s (s.refuseTxn j i mev f) :=
  hR.trans (abortTxn_rel hR s j.t) (StepClosed.ite (hR.refl _) (recordFault_rel hR _ _ _ _ _ _))

theorem stallTxn_rel (s : State) (j : Job) (i : Attrs) (mev : Bool) (f : Flt) : R s (s.stallTxn j i mev f) := by
  unfold State.stallTxn
  split
  · exact hR.quiet (by rfl)
  · split
    · exact hR.quiet (by rfl)
    · exact hR.after (recordFault_rel hR _ _ _ _ _ _) (hR.quiet (by rfl))

theorem faultTxn_rel (s : State) (j : Job) (i : Attrs) (c : Ctx) (f : Flt) : R s (s.faultTxn j i c f) := by
  have hended : R s (if f.s2 || Cd.a c.cd then s.abortTxn j.t else s.emit (.razwi j.t.id)) :=
    StepClosed.ite (abortTxn_rel hR s _) (hR.emit s _)
  exact StepClosed.ite (refuseTxn_rel hR s _ _ _ _) (StepClosed.ite (abortTxn_rel hR s _)
    (StepClosed.ite (StepClosed.ite (hR.quiet (by rfl)) (stallTxn_rel hR s _ _ _ _))
      (StepClosed.ite (hR.after (recordFault_rel hR _ _ _ _ _ _) hended) hended)))

theorem refuseUut_rel (s : State) (j : Job) : R s (s.refuseUut j) :=
  StepClosed.ite (abortTxn_rel hR s _) (refuseTxn_rel hR s _ _ _ _)

theorem passed_rel (s : State) (t : Txn) (f : Fwd) : R s (s.passed t f) := by
  have hsent : R s ((s.emit (.forward t.id f.sec f.sid f.cls f.rw t.size f.pa f.attrs)).pmu 1 (some (f.sec, f.sid))) :=
    hR.after (pmu_rel hR _ _ _) (hR.emit s _)
  exact StepClosed.ite (hR.after (pmu_rel hR _ _ _) hsent) hsent

theorem forwardTxn_rel (s : State) (j : Job) (pa : W64) (i : Attrs) (ste : StructWord) (translated permW permAny : Bool)
    (cfg : List CfgEnt) (tlb : List TlbEnt) : R s (s.forwardTxn j pa i ste translated permW permAny cfg tlb) := by
  refine StepClosed.ite (refuseUut_rel hR s j) ?_
  dsimp only
  split
  · exact StepClosed.ite (hR.after (hR.quiet (by rfl)) (passed_rel hR s _ _)) (hR.quiet (by rfl))
  · exact hR.emit s _
  · exact hR.emit s _

theorem bypassTxn_rel (s : State) (j : Job) (i : Attrs) : R s (s.bypassTxn j i) :=
  StepClosed.ite (abortTxn_rel hR s _) (forwardTxn_rel hR s _ _ _ _ _ _ _ _ _)

theorem ipaTranslate_rel (c : Ctx) (ipa : W64) (acc : Acc) : Tr.Rel R (ipaTranslate c ipa acc) :=
  hR.bind (stage2Translate_rel hR _ _ _ _) fun _ => hR.bind (hR.asks _) fun _ => hR.pure _

theorem finishTxn_rel (s : State) (j : Job) (c : Ctx) (i : Attrs) (r : XRes) : R s (s.finishTxn j c i r) := by
  refine StepClosed.ite (faultTxn_rel hR s _ _ _ _) ?_
  split
  · exact faultTxn_rel hR s _ _ _ _
  · exact forwardTxn_rel hR s _ _ _ _ _ _ _ _ _

theorem translateTxn_rel (s : State) (j : Job) (c : Ctx) (sel : CdSel) (i : Attrs) : R s (s.translateTxn j c sel i) := by
  cases sel with
  | cd idx =>
    unfold State.translateTxn
    dsimp only
    split
    · next h => exact hR.trans ((getCd_rel hR c idx).run h) (faultTxn_rel hR _ _ _ _ _)
    · next h =>
      refine hR.trans ((getCd_rel hR c idx).run h) ?_
      split
      · next h => exact hR.trans ((vaTranslate_rel hR _ _ _).run h) (faultTxn_rel hR _ _ _ _ _)
      · next h => exact hR.trans ((vaTranslate_rel hR _ _ _).run h) (finishTxn_rel hR _ _ _ _ _)
  | bypass =>
    refine StepClosed.ite (StepClosed.ite (faultTxn_rel hR s _ _ _ _) ?_) (finishTxn_rel hR s _ _ _ _)
    split
    · next h => exact hR.trans ((ipaTranslate_rel hR _ _ _).run h) (faultTxn_rel hR _ _ _ _ _)
    · next h => exact hR.trans ((ipaTranslate_rel hR _ _ _).run h) (finishTxn_rel hR _ _ _ _ _)

theorem lookupTxn_rel (s : State) (j : Job) (i : Attrs) : R s (s.lookupTxn j i) := by
  unfold State.lookupTxn
  dsimp only
  split
  · next h => exact hR.trans ((getSte_rel hR _ _).run h) (refuseTxn_rel hR _ _ _ _ _)
  · next h =>
    refine hR.trans ((getSte_rel hR _ _).run h) (StepClosed.ite (abortTxn_rel hR _ _) ?_)
    split
    · next h => exact hR.trans ((cdSelect_rel hR _ _ _).run h) (refuseTxn_rel hR _ _ _ _ _)
    · next h =>
      exact hR.trans ((cdSelect_rel hR _ _ _).run h)
        (StepClosed.ite (faultTxn_rel hR _ _ _ _ _) (translateTxn_rel hR _ _ _ _ _))

theorem bypassTranslated_rel (s : State) (j : Job) (cfg : List CfgEnt) : R s (s.bypassTranslated j cfg) :=
  StepClosed.ite (abortTxn_rel hR s _) (forwardTxn_rel hR s _ _ _ _ _ _ _ _ _)

theorem forbidTxn_rel (s : State) (j : Job) (mev : Bool) : R s (s.forbidTxn j mev) :=
  hR.trans (abortTxn_rel hR s _) (recordFault_rel hR _ _ _ _ _ _)

theorem splitTxn_rel (s : State) (j : Job) (c : Ctx) : R s (s.splitTxn j c) := by
  unfold State.splitTxn
  dsimp only
  split
  · next h => exact hR.trans ((ipaTranslate_rel hR _ _ _).run h) (faultTxn_rel hR _ _ _ _ _)
  · next h =>
    refine hR.trans ((ipaTranslate_rel hR _ _ _).run h) ?_
    split
    · exact StepClosed.ite (abortTxn_rel hR _ _) (faultTxn_rel hR _ _ _ _ _)
    · exact forwardTxn_rel hR _ _ _ _ _ _ _ _ _ _

theorem translatedTxn_rel (s : State) (j : Job) : R s (s.translatedTxn j) := by
  refine StepClosed.ite (forbidTxn_rel hR s _ _) (StepClosed.ite (bypassTranslated_rel hR s _ _) ?_)
  split
  · next h => exact hR.trans ((getSte_rel hR _ _).run h) (abortTxn_rel hR _ _)
  · next h =>
    refine hR.trans ((getSte_rel hR _ _).run h) (StepClosed.ite (abortTxn_rel hR _ _) (StepClosed.ite (forbidTxn_rel hR _ _ _)
      (StepClosed.ite ?_ (splitTxn_rel hR _ _ _))))
    exact StepClosed.ite (abortTxn_rel hR _ _) (bypassTranslated_rel hR _ _ _)

theorem runTxn_rel (s : State) (j : Job) : R s (s.runTxn j) :=
  StepClosed.ite (abortTxn_rel hR s _) (StepClosed.ite (refuseUut_rel hR s _) (StepClosed.ite
    (hR.after (countMisses_rel hR _ _ _) (hR.after (translatedTxn_rel hR _ _) (hR.quiet (by rfl))))
    (StepClosed.ite (bypassTxn_rel hR s _ _) (hR.after (countMisses_rel hR _ _ _) (lookupTxn_rel hR s _ _)))))

theorem transaction_rel (s : State) (t : Txn) : R s (s.transaction t) := hR.quiet (by rfl)

theorem process_rel (s : State) (n : Nat) : R s (s.process n) := by
  unfold State.process
  split
  · exact hR.refl s
  · exact StepClosed.ite (hR.trans (t := { s with inFlight := s.inFlight.eraseIdx n }) (hR.quiet (by rfl))
      (StepClosed.ite (abortTxn_rel hR _ _) (doFor_rel hR _ _ fun u => runTxn_rel hR u _))) (hR.refl s)

theorem release_rel (s : State) (n : Nat) : R s (s.release n) := by
  unfold State.release
  split
  · exact hR.refl s
  · split
    · exact StepClosed.ite (hR.after (abortTxn_rel hR _ _) (hR.quiet (by rfl)))
        (hR.after (doFor_rel hR _ _ fun u => passed_rel hR u _ _) (hR.quiet (by rfl)))
    · exact hR.refl s

theorem perform_rel (s : State) (t : Txn) (f : Fwd) : R s (s.perform t f) := by
  have hatomic : R s { s.agentStore f.attrs.ns f.pa (freeBytes s.draw t.size) with draw := s.draw + t.size / 64 + 1 } :=
    hR.trans (agentStore_rel hR s _ _ _) (hR.drew rfl (by dsimp only [agentStore_draw]; omega))
  refine StepClosed.ite (hR.after (hR.emit _ _) hatomic) ?_
  split
  · exact hR.emit s _
  · exact hR.emit s _
  · exact StepClosed.ite (hR.after (hR.emit _ _) (agentStore_rel hR s _ _ _)) (hR.emit s _)

theorem respond_rel (s : State) (n : Nat) (r : MemResp) : R s (s.respond n r) := by
  unfold State.respond
  split
  · exact hR.refl s
  · dsimp only
    split
    · refine hR.trans (t := { s with inFlight := s.inFlight.eraseIdx n }) (hR.quiet (by rfl)) ?_
      cases r with
      | ok => exact perform_rel hR _ _ _
      | data bs => exact hR.emit _ _
      | abort => exact hR.emit _ _
    · exact hR.refl s

/-! ### The end of a stall -/

theorem resolveStall_rel (s : State) (n : Nat) : R s (s.resolveStall n) := by
  unfold State.resolveStall
  split
  · exact hR.refl s
  · next x _ =>
    have hgone : R s { s with stalled := s.stalled.eraseIdx n } := hR.quiet (by rfl)
    refine StepClosed.ite (hR.after (abortTxn_rel hR _ _) hgone) ?_
    split
    · exact hR.after (transaction_rel hR _ _) hgone
    · exact hR.after (abortTxn_rel hR _ _) hgone
    · exact hR.after (hR.emit _ _) hgone
    · refine StepClosed.ite (hR.after (transaction_rel hR _ _) ?_) (hR.refl s)
      split
      · exact hR.after (ackStag_rel hR _ _ _ _) hgone
      · exact hgone

theorem dropRecord_rel (s : State) (x : Stall) : R s (s.dropRecord x) := by
  unfold State.dropRecord
  dsimp only
  split
  · exact hR.after (ackStag_rel hR _ _ _ _) (setEvents_rel hR s _ _)
  · exact setEvents_rel hR s _ _

theorem earlyRetry_rel (s : State) (n : Nat) : R s (s.earlyRetry n) := by
  refine StepClosed.ite (hR.refl s) ?_
  split
  · exact hR.refl s
  · have hgone : R s { s with stalled := s.stalled.eraseIdx n } := hR.quiet (by rfl)
    dsimp only
    split
    · exact hR.refl s
    · exact StepClosed.ite (hR.after (runTxn_rel hR _ _) (hR.after (dropRecord_rel hR _ _) hgone)) (hR.after (runTxn_rel hR _ _) hgone)
    · exact hR.after (runTxn_rel hR _ _) hgone
    · exact hR.after (runTxn_rel hR _ _) hgone
    · exact hR.refl s

theorem withdraw_rel (s : State) (n : Nat) : R s (s.withdraw n) := by
  unfold State.withdraw
  split
  · exact hR.refl s
  · exact StepClosed.ite (hR.after (dropRecord_rel hR _ _) (hR.quiet (by rfl))) (hR.quiet (by rfl))

/-! ### ATS -/

theorem atsAnswer_rel (s : State) (t : AtsReq) (r : AtsResp) : R s (s.atsAnswer t r) := hR.emit s _

theorem atsDenied_rel (s : State) (t : AtsReq) : R s (s.atsDenied t) := hR.after (atsAnswer_rel hR _ _ _) (hR.drawn s)

theorem atsRefused_rel (s : State) (t : AtsReq) (mev : Bool) : R s (s.atsRefused t mev) :=
  hR.after (recordEvent_rel hR _ _ _) (hR.after (atsAnswer_rel hR _ _ _) (hR.drawn s))

theorem atsFault_rel (s : State) (t : AtsReq) (f : Flt) : R s (s.atsFault t f) :=
  StepClosed.ite (atsDenied_rel hR s t) (atsAnswer_rel hR s t _)

theorem atsGrant_rel (s : State) (t : AtsReq) (c : Ctx) (acc : Acc) (split : Bool) (r : XRes) : R s (s.atsGrant t c acc split r) :=
  StepClosed.ite (atsAnswer_rel hR s t _) (StepClosed.ite (atsDenied_rel hR s t) (atsAnswer_rel hR s t _))

theorem atsTranslate_rel (s : State) (t : AtsReq) (ste : StructWord) (c : Ctx) (sel : CdSel) (sp : Bool) :
    R s (s.atsTranslate t ste c sel sp) := by
  cases sel with
  | cd idx =>
    unfold State.atsTranslate
    dsimp only
    split
    · next h => exact hR.trans ((getCd_rel hR c idx).run h) (atsFault_rel hR _ _ _)
    · next h =>
      refine hR.trans ((getCd_rel hR c idx).run h) ?_
      split
      · next h => exact hR.trans ((vaTranslate_rel hR _ _ _).run h) (atsFault_rel hR _ _ _)
      · next h => exact hR.trans ((vaTranslate_rel hR _ _ _).run h) (atsGrant_rel hR _ _ _ _ _ _)
  | bypass =>
    refine StepClosed.ite (StepClosed.ite (atsDenied_rel hR s t) ?_) (atsGrant_rel hR s _ _ _ _ _)
    split
    · next h => exact hR.trans ((ipaTranslate_rel hR _ _ _).run h) (atsFault_rel hR _ _ _)
    · next h => exact hR.trans ((ipaTranslate_rel hR _ _ _).run h) (atsGrant_rel hR _ _ _ _ _ _)

theorem atsCtx_rel (s : State) (t : AtsReq) (ste : StructWord) (regs : CfgRegs) (sp : Bool) : R s (s.atsCtx t ste regs sp).2 := by
  cases sp
  · exact hR.refl s
  · exact hR.drawn s

theorem atsLookup_rel (s : State) (t : AtsReq) : R s (s.atsLookup t) := by
  unfold State.atsLookup
  split
  · next h => exact hR.trans ((getSte_rel hR _ _).run h) (atsAnswer_rel hR _ _ _)
  · next h =>
    refine hR.trans ((getSte_rel hR _ _).run h) (StepClosed.ite (atsAnswer_rel hR _ _ _) (StepClosed.ite (atsRefused_rel hR _ _ _) ?_))
    split
    · next h => exact hR.trans ((cdSelect_rel hR _ _ _).run h) (atsAnswer_rel hR _ _ _)
    · next h =>
      exact hR.trans ((cdSelect_rel hR _ _ _).run h) (hR.trans (atsCtx_rel hR _ _ _ _ _) (atsTranslate_rel hR _ _ _ _ _ _))

theorem atsRequest_rel (s : State) (t : AtsReq) : R s (s.atsRequest t) := by
  have hserved : ∀ (u : State) (t : AtsReq), R u (if u.sfm then u.atsAnswer t .ca
      else if t.sec = .s || !u.smmuen .ns then u.atsRefused t false else (u.atsLookup t).countMisses t.sec t.sid) := fun u t =>
    StepClosed.ite (atsAnswer_rel hR u t _) (StepClosed.ite (atsRefused_rel hR u t _)
      (hR.after (countMisses_rel hR _ _ _) (atsLookup_rel hR u t)))
  exact StepClosed.ite (hR.refl s) (hR.after (hserved _ _) (hR.after (pmu_rel hR _ _ _) (pmu_rel hR s _ _)))

theorem setAtc_rel (s : State) (q : Sec) (l : List AtcReq) : R s (s.setAtc q l) := hR.quiet (by cases q <;> rfl)

theorem atcComplete_rel (s : State) (q : Sec) (n : Nat) : R s (s.atcComplete q n) := by
  unfold State.atcComplete
  split
  · exact hR.refl s
  · refine StepClosed.ite (hR.refl s) (hR.trans (setAtc_rel hR s q _) (StepClosed.ite (hR.refl _) (hR.quiet (by rfl))))

theorem atcTimeout_rel (s : State) (q : Sec) (n : Nat) : R s (s.atcTimeout q n) := by
  unfold State.atcTimeout
  split
  · exact hR.refl s
  · cases q <;> exact hR.after (hR.quiet (by rfl)) (setAtc_rel hR s _ _)

/-! ### ATOS -/

theorem setAtosRegs_rel (s : State) (g : AtosGroup) (r : AtosRegs) : R s (s.setAtosRegs g r) := hR.quiet (by cases g <;> rfl)
theorem setAtosOp_rel (s : State) (g : AtosGroup) (o : Option AtosOp) : R s (s.setAtosOp g o) := hR.quiet (by cases g <;> rfl)

theorem atosStage2_rel (s : State) (c : Ctx) (o : AtosOp) : R s (s.atosStage2 c o).2 := by
  unfold State.atosStage2
  split
  · exact hR.refl s
  · split
    · next h => exact (ipaTranslate_rel hR _ _ _).run h
    · next h => exact (ipaTranslate_rel hR _ _ _).run h

theorem atosStage1_rel (s : State) (c : Ctx) (o : AtosOp) : R s (s.atosStage1 c o).2 := by
  unfold State.atosStage1
  split
  · next h => exact (cdSelect_rel hR _ _ _).run h
  · next h =>
    refine hR.trans ((cdSelect_rel hR _ _ _).run h) ?_
    split
    · exact atosStage2_rel hR _ _ _
    · split
      · exact hR.refl _
      · split <;> exact hR.refl _
  · next h =>
    refine hR.trans ((cdSelect_rel hR _ _ _).run h) ?_
    split
    · next h => exact (getCd_rel hR _ _).run h
    · next h =>
      refine hR.trans ((getCd_rel hR _ _).run h) ?_
      dsimp only
      split
      · split
        · next h => exact (vaTranslate_rel hR _ _ _).run h
        · next h => exact (vaTranslate_rel hR _ _ _).run h
      · split
        · next h => exact (stage1Only_rel hR _ _ _).run h
        · next h =>
          refine hR.trans ((stage1Only_rel hR _ _ _).run h) ?_
          split <;> exact hR.refl _

theorem atosTranslate_rel (s : State) (g : AtosGroup) (o : AtosOp) : R s (s.atosTranslate g o).2 := by
  unfold State.atosTranslate
  dsimp only
  generalize (if o.secure g = true then Sec.s else Sec.ns) = sec
  split
  · exact hR.refl s
  · have hearly : R s (if (o.secure g && o.type != 1) = true then s.drawn else s) := StepClosed.ite (hR.drawn s) (hR.refl s)
    refine hR.trans hearly ?_
    generalize (if (o.secure g && o.type != 1) = true then s.drawn else s) = u
    split
    · exact hR.refl u
    · split
      · exact hR.refl u
      · split
        · next h => exact (getSte_rel hR _ _).run h
        · next h =>
          refine hR.trans ((getSte_rel hR _ _).run h) ?_
          split
          · exact hR.refl _
          · split
            · exact hR.refl _
            · dsimp only
              split
              · exact atosStage2_rel hR _ _ _
              · exact atosStage1_rel hR _ _ _

theorem atosFinish_rel (s : State) (g : AtosGroup) (o : AtosOp) (r : AtosRes) : R s (s.atosFinish g o r) := by
  have hknown : R s (if o.spoiled then s.setUnknown (.par g) else s.setKnown (.par g)) :=
    StepClosed.ite (hR.quiet (by rfl)) (hR.quiet (by rfl))
  exact hR.after (setAtosOp_rel hR _ _ _) (hR.after (setAtosRegs_rel hR _ _ _) hknown)

theorem atosRun_rel (s : State) (g : AtosGroup) : R s (s.atosRun g) := by
  unfold State.atosRun
  split
  · exact hR.refl s
  · exact hR.trans (atosTranslate_rel hR s g _) (atosFinish_rel hR _ _ _ _)

theorem atosStart_rel (s : State) (g : AtosGroup) : R s (s.atosStart g) :=
  StepClosed.ite (hR.after (setAtosOp_rel hR _ _ _) (setAtosRegs_rel hR s _ _))
    (StepClosed.ite (hR.drawn s) (hR.after (setAtosRegs_rel hR _ _ _) (hR.drawn s)))

theorem writeAtosCtrl_rel (s : State) (g : AtosGroup) (run : Bool) : R s (s.writeAtosCtrl g run) :=
  StepClosed.ite (StepClosed.ite (hR.drawn s) (hR.after (setAtosRegs_rel hR _ _ _) (hR.drawn s)))
    (StepClosed.ite (atosStart_rel hR s g) (setAtosRegs_rel hR s _ _))

theorem atosError_rel (s : State) (g : AtosGroup) : R s (s.atosError g) := by
  unfold State.atosError
  split
  · exact hR.refl s
  · refine hR.trans (hR.drawn s) (StepClosed.ite (atosFinish_rel hR _ _ _ _) (hR.after (atosFinish_rel hR _ _ _ _) ?_))
    exact hR.after (hR.quiet (by rfl)) (hR.after (atosTranslate_rel hR _ _ _) (hR.quiet (by rfl)))

theorem atosAbandon_rel (s : State) (g : AtosGroup) : R s (s.atosAbandon g) :=
  StepClosed.ite (hR.refl s) (StepClosed.ite (hR.after (atosRun_rel hR _ _) (hR.drawn s)) (hR.after (atosError_rel hR _ _) (hR.drawn s)))

/-! ### PRI, hints, Service Failure Mode -/

theorem prgResponse_rel (s : State) (m : Ppr) (pasid : Option (BitVec 20)) (code : BitVec 4) : R s (s.prgResponse m pasid code) :=
  hR.quiet (by rfl)

theorem ppar_rel (s : State) (sid : BitVec 32) : R s (s.ppar sid).2 := by
  unfold State.ppar
  split
  · exact hR.refl s
  · dsimp only
    split
    next r t h =>
    have hread : R s (if s.impl.cfgAnyTime then t else { t with cfgCache := s.cfgCache }) :=
      StepClosed.ite ((getSte_rel hR _ _).run h) (hR.after (hR.quiet (by rfl)) ((getSte_rel hR _ _).run h))
    cases r <;> exact hread

theorem priOverflowResponse_rel (s : State) (m : Ppr) : R s (s.priOverflowResponse m) := by
  unfold State.priOverflowResponse
  split
  · exact hR.quiet (by rfl)
  · refine StepClosed.ite (StepClosed.ite ?_ (hR.quiet (by rfl))) (StepClosed.ite (hR.quiet (by rfl)) ?_)
    · split
      · next h => exact hR.after (prgResponse_rel hR _ _ _ _) (of_result h (ppar_rel hR s _))
      · next h => exact hR.after (prgResponse_rel hR _ _ _ _) (of_result h (ppar_rel hR s _))
    · split
      · next h => exact hR.after (prgResponse_rel hR _ _ _ _) (of_result h (ppar_rel hR s _))
      · next h => exact hR.after (prgResponse_rel hR _ _ _ _) (of_result h (ppar_rel hR s _))

theorem priDrop_rel (s : State) (m : Ppr) (why : PriDrop) : R s (s.priDrop m why) := by
  refine StepClosed.ite (hR.refl s) ?_
  cases why with
  | failure => exact hR.quiet (by rfl)
  | overflow =>
    exact StepClosed.ite (hR.refl s) (hR.trans (priOverflowResponse_rel hR s m)
      (StepClosed.ite (irqRaise_rel hR _ _ _ _ _) (hR.refl _)))

theorem priqIndex_rel (s : State) : R s s.priqIndex.2 := by
  unfold State.priqIndex
  split
  · exact hR.drawn s
  · exact hR.refl s

/-- What follows the write of an entry: the index moves on, an abort is an error, the interrupt is raised where it is due. -/
theorem priWritten_rel (t : State) (prod : W32) (ok : Bool) (due : State → Bool) :
    R t (let s : State := { t with priqProd := prod }
      let s := if ok then s else s.gerrorActivate .ns .priqAbt
      if due s then s.priqIrq else s) := by
  have hmoved : R t { t with priqProd := prod } := hR.quiet (by rfl)
  have herr : R t (if ok then { t with priqProd := prod } else ({ t with priqProd := prod } : State).gerrorActivate .ns .priqAbt) :=
    StepClosed.ite hmoved (hR.after (gerrorActivate_rel hR _ _ _) hmoved)
  exact StepClosed.ite (hR.after (irqRaise_rel hR _ _ _ _ _) herr) herr

theorem priWrite_rel (s : State) (m : Ppr) : R s (s.priWrite m) := by
  have hwritten : ∀ pa bs a, R s (s.priqIndex.2.drawn.busWrite .ns .priq true pa bs a).2 := fun pa bs a =>
    hR.trans (priqIndex_rel hR s) (hR.trans (hR.drawn _) (busWrite_rel hR _ .ns .priq true pa bs a))
  exact StepClosed.ite (hR.after (priDrop_rel hR _ _ _) (hR.after (gerrorActivate_rel hR _ _ _) (hwritten _ _ _)))
    (hR.after (priWritten_rel hR _ _ _ fun u => if bit u.priqCfg.cfg2 31 then m.last else qEmpty s.priqProd s.priqCons s.priqs)
      (hwritten _ _ _))

theorem priReceive_rel (s : State) (m : Ppr) : R s (s.priReceive m) := StepClosed.ite (hR.quiet (by rfl)) (hR.refl s)

theorem priAccept_rel (s : State) (m : Ppr) : R s (s.priAccept m) :=
  StepClosed.ite (priDrop_rel hR s m _) (StepClosed.ite (priDrop_rel hR s m _)
    (StepClosed.ite (hR.after (priDrop_rel hR _ m _) (hR.quiet (by rfl))) (priWrite_rel hR s m)))

theorem takePri_rel (s : State) (n : Nat) : R s (s.takePri n) := by
  unfold State.takePri
  dsimp only
  split
  · exact hR.refl s
  · exact StepClosed.ite (hR.refl s) (StepClosed.ite (hR.drawn s) (hR.after (priAccept_rel hR _ _) (hR.quiet (by rfl))))
  · exact hR.after (hR.emit _ _) (hR.quiet (by rfl))

/-- A read of a queue entry: an abort is a global error of the queue. -/
theorem queueRead_rel (s : State) (q : Sec) (kind : AccKind) (ns : Bool) (pa n : Nat) (a : Attrs) (g : Gerr) :
    R s (match s.busRead q kind ns pa n a with
      | (some _, s) => s
      | (none, s) => s.gerrorActivate q g) := by
  have hread := busRead_rel hR s q kind ns pa n a
  split
  · next h => exact of_result h hread
  · next h => exact hR.after (gerrorActivate_rel hR _ _ _) (of_result h hread)

theorem readEventq_rel (s : State) (q : Sec) (n : Nat) : R s (s.readEventq q n) :=
  StepClosed.ite (queueRead_rel hR s _ _ _ _ _ _ _) (hR.refl s)

theorem readPriq_rel (s : State) (n : Nat) : R s (s.readPriq n) :=
  StepClosed.ite (queueRead_rel hR s _ _ _ _ _ _ _) (hR.refl s)

theorem writeEventq_rel (s : State) (q : Sec) (n : Nat) : R s (s.writeEventq q n) :=
  StepClosed.ite (hR.trans (hR.trans (hR.drawn s) (busWrite_rel hR _ q .eventq q.isNs _ _ _))
    (StepClosed.ite (hR.refl _) (gerrorActivate_rel hR _ _ _))) (hR.refl s)

theorem writePriq_rel (s : State) (n : Nat) : R s (s.writePriq n) :=
  StepClosed.ite (hR.trans (hR.trans (hR.drawn s) (busWrite_rel hR _ .ns .priq true _ _ _))
    (StepClosed.ite (hR.refl _) (gerrorActivate_rel hR _ _ _))) (hR.refl s)

theorem pageHint_rel (s : State) (sec : Sec) (sid : BitVec 32) (ssv : Bool) (ssid : BitVec 20) (addr : W64) (span : BitVec 8)
    (flags : BitVec 6) : R s (s.pageHint sec sid ssv ssid addr span flags) :=
  hR.after (recordEvent_rel hR _ _ _) (hR.drawn s)

theorem impdefEvent_rel (s : State) (sec : Sec) (n : BitVec 4) (payload : BitVec 248) : R s (s.impdefEvent sec n payload) :=
  StepClosed.ite (recordEvent_rel hR s _ _) (hR.refl s)

theorem enterSfm_rel (s : State) : R s s.enterSfm := by
  have hentered : R s ((({ s with sfm := true } : State).rasDetect s.impl.rasSfm.group s.impl.rasSfm.record
      { s.impl.rasSfm.err with typ := if s.impl.rasSfm.err.typ = .ueu then .ueu else .uc }).gerrorActivate .ns .sfm) :=
    hR.after (gerrorActivate_rel hR _ _ _) (hR.after (rasDetect_rel hR _ _ _ _) (hR.quiet (by rfl)))
  exact StepClosed.ite (hR.after (gerrorActivate_rel hR _ _ _) hentered) hentered

/-! ### Prefetches -/

theorem prefetchTranslate_rel (s : State) (c : Ctx) (sel : CdSel) (a : Option W64) : R s (s.prefetchTranslate c sel a) := by
  cases sel with
  | cd idx =>
    unfold State.prefetchTranslate
    dsimp only
    split
    · next h => exact (getCd_rel hR c idx).run h
    · next h =>
      refine hR.trans ((getCd_rel hR c idx).run h) ?_
      split
      · exact hR.refl _
      · exact vaTranslate_rel hR _ _ _ _
  | bypass =>
    cases a with
    | none => exact hR.refl s
    | some a => exact StepClosed.ite (ipaTranslate_rel hR _ _ _ s) (hR.refl s)

theorem prefetchOne_rel (s : State) (p : Prefetch) (a : Option W64) : R s (s.prefetchOne p a) := by
  refine StepClosed.ite (hR.refl s) ?_
  split
  · next h => exact (getSte_rel hR _ _).run h
  · next ste regs t h =>
    refine hR.trans ((getSte_rel hR _ _).run h) (StepClosed.ite (hR.refl _) ?_)
    have hlone : R t (if (p.ssid.isSome && Ste.s1cdmax ste == 0) = true then t.drawn else t) := StepClosed.ite (hR.drawn t) (hR.refl t)
    dsimp only
    split
    · next h => exact hR.trans hlone ((cdSelect_rel hR _ _ _).run h)
    · next h => exact hR.trans hlone (hR.trans ((cdSelect_rel hR _ _ _).run h) (prefetchTranslate_rel hR _ _ _ _))

theorem prefetch_rel (s : State) (n k : Nat) : R s (s.prefetch n k) := by
  unfold State.prefetch
  split
  · exact hR.refl s
  · exact prefetchOne_rel hR s _ _

theorem fetchCmd_rel (s : State) (q : Sec) (n : Nat) : R s (s.fetchCmd q n) := by
  refine StepClosed.ite ?_ (hR.refl s)
  split
  · next h => exact of_result h (busRead_rel hR s _ _ _ _ _ _)
  · next h => exact hR.after (hR.quiet (by rfl)) (of_result h (busRead_rel hR s _ _ _ _ _ _))

end
end Sys2Proof.Machine
end

section
/-! PROOF. The sweep: invalidations and commands. -/
namespace Sys2Proof.Machine

/-- The next state of an outcome, where there is one, is related to a state. -/
def OutRel (R : State → State → Prop) (s : State) (o : Out) : Prop := ∀ t, o = .next t → R s t

section
variable {R : State → State → Prop} (hR : StepClosed R)

theorem OutRel.next {s t : State} (h : R s t) : OutRel R s (.next t) := by
  rintro _ ⟨⟩
  exact h

theorem OutRel.fault (s : State) (r : Fault) : OutRel R s (.fault r) := by
  intro t h
  cases h
theorem OutRel.refused (s : State) (r : Refusal) : OutRel R s (.refused r) := by
  intro t h
  cases h

theorem OutRel.ite {c : Prop} [Decidable c] {s : State} {o o' : Out} (h : OutRel R s o) (h' : OutRel R s o') :
    OutRel R s (if c then o else o') := by
  split
  · exact h
  · exact h'

include hR

theorem OutRel.after {s t : State} {o : Out} (h : OutRel R t o) (h' : R s t) : OutRel R s o := fun u hu => hR.trans h' (h u hu)

theorem done_rel {s t : State} (h : R s t) : OutRel R s (done t) := OutRel.next (hR.after (consume_rel hR t) h)
theorem ill_rel (s : State) : OutRel R s (ill s) := OutRel.next (cmdError_rel hR s .ill)

/-! ### Invalidations -/

theorem pend_rel (s : State) (i : InvScope) (subset : Option Nat) : R s (s.pend i subset) := hR.quiet (by rfl)

theorem invalTlb_rel (s : State) (p : TlbPred) (subset : Option Nat) : R s (s.invalTlb p subset) := by
  refine hR.trans (t := { s with draw := (s.invalTlb p subset).draw }) (hR.drew rfl ?_) (hR.quiet (by rfl))
  unfold State.invalTlb
  dsimp only
  split <;> omega

theorem refreshSif_rel (s : State) (p : TlbPred) : R s (s.refreshSif p) := StepClosed.ite (hR.quiet (by rfl)) (hR.refl s)

theorem applyInval_rel (s : State) (i : Inval) : R s (s.applyInval i) := by
  by_cases h : ∃ p, i.scope = .tlb p
  · obtain ⟨p, hp⟩ := h
    rw [applyInval_tlb hp]
    exact hR.after (refreshSif_rel hR _ _) (hR.after (invalTlb_rel hR _ _ _) (hR.quiet (by rfl)))
  · rw [applyInval_cfg (not_exists.1 h)]
    exact hR.quiet (by rfl)

theorem beginInval_rel (s : State) (i : Inval) : R s (s.beginInval i).2 := by
  unfold State.beginInval
  split
  · exact hR.refl s
  · exact applyInval_rel hR s i

theorem completeInval_rel (s : State) (n : Nat) : R s (s.completeInval n) := by
  unfold State.completeInval
  split
  · exact hR.refl s
  · split
    · exact StepClosed.ite (hR.refl s) (hR.after (hR.emit _ _) (hR.quiet (by rfl)))
    · exact hR.after (hR.quiet (by rfl)) (beginInval_rel hR s _)

theorem beginAll_rel (q : Sec) (l : List Inval) (s : State) : R s (State.beginAll q l s).2 := by
  induction l generalizing s with
  | nil => exact hR.refl s
  | cons i l ih =>
    unfold State.beginAll
    split
    · exact hR.trans (beginInval_rel hR s i) (ih _)
    · exact ih s

theorem completeInvals_rel (s : State) (q : Sec) : R s (s.completeInvals q) :=
  hR.after (hR.quiet (by rfl)) (beginAll_rel hR q s.pendingInval s)

theorem onBroadcast_rel (s : State) (b : Bcast) : R s (s.onBroadcast b) := StepClosed.ite (hR.refl s) (hR.quiet (by rfl))

theorem onDvmSync_rel (s : State) (id : Nat) : R s (s.onDvmSync id) := StepClosed.ite (hR.refl s) (hR.quiet (by rfl))

/-! ### Operands -/

theorem sidParam_rel (s : State) (sec : Sec) (sid : BitVec 32) : R s (s.sidParam sec sid).2 := by
  unfold State.sidParam
  split
  · exact hR.refl s
  · split <;> exact hR.drawn s

theorem ssidParam_rel (s : State) (ssid : BitVec 20) : R s (s.ssidParam ssid).2 := by
  unfold State.ssidParam
  split
  · exact hR.refl s
  · split <;> exact hR.drawn s

theorem substreamParam_rel (s : State) (ssv : Bool) (ssid : BitVec 20) : R s (s.substreamParam ssv ssid).2 := by
  unfold State.substreamParam
  split
  · exact hR.refl s
  · split
    · split <;> exact hR.drawn s
    · split
      · next h => exact of_result h (ssidParam_rel hR s ssid)
      · next h => exact of_result h (ssidParam_rel hR s ssid)

theorem pasidParam_rel (s : State) (ssv : Bool) (ssid : BitVec 20) : R s (s.pasidParam ssv ssid).2 := by
  unfold State.pasidParam
  split
  · exact hR.refl s
  · split
    · split
      · next h => exact of_result h (ssidParam_rel hR s ssid)
      · next h => exact of_result h (ssidParam_rel hR s ssid)
    · split <;> exact hR.drawn s

theorem vmidRes0_rel (s : State) (vmid : BitVec 16) : R s (s.vmidRes0 vmid).2 := by
  unfold State.vmidRes0
  split
  · exact hR.refl s
  · exact hR.drawn s

/-! ### Prefetch and invalidation commands -/

theorem prefetchCmd_rel (s : State) (sec : Sec) (ssv : Bool) (ssid : BitVec 20) (sid : BitVec 32) (addr : Option (W64 × Nat × Nat)) :
    R s (s.prefetchCmd sec ssv ssid sid addr) := by
  refine StepClosed.ite (hR.refl s) ?_
  split
  · next h => exact of_result h (sidParam_rel hR s sec sid)
  · next h =>
    refine hR.trans (of_result h (sidParam_rel hR s sec sid)) ?_
    split
    · next h => exact of_result h (substreamParam_rel hR _ ssv ssid)
    · next h => exact hR.after (hR.quiet (by rfl)) (of_result h (substreamParam_rel hR _ ssv ssid))

theorem execPrefetchConfig_rel (ssec ssv : Bool) (ssid : BitVec 20) (sid : BitVec 32) (res : CmdWord) (s : State) :
    OutRel R s (execPrefetchConfig ssec ssv ssid sid res s) := by
  unfold execPrefetchConfig
  split
  · exact ill_rel hR s
  · exact OutRel.ite (ill_rel hR s) (done_rel hR (prefetchCmd_rel hR s _ _ _ _ _))

theorem execPrefetchAddr_rel (ssec ssv : Bool) (ssid : BitVec 20) (sid : BitVec 32) (size stride : BitVec 5) (addr : BitVec 52)
    (res : CmdWord) (s : State) : OutRel R s (execPrefetchAddr ssec ssv ssid sid size stride addr res s) := by
  unfold execPrefetchAddr
  split
  · exact ill_rel hR s
  · exact OutRel.ite (ill_rel hR s) (OutRel.ite (ill_rel hR s) (done_rel hR (prefetchCmd_rel hR s _ _ _ _ _)))

theorem execCfgiSte_rel (ssec : Bool) (sid : BitVec 32) (leaf : Bool) (res : CmdWord) (s : State) :
    OutRel R s (execCfgiSte ssec sid leaf res s) := by
  unfold execCfgiSte
  split
  · exact ill_rel hR s
  · refine OutRel.ite (ill_rel hR s) ?_
    split
    · next h => exact done_rel hR (of_result h (sidParam_rel hR s _ _))
    · next h => exact done_rel hR (hR.after (pend_rel hR _ _ _) (of_result h (sidParam_rel hR s _ _)))

theorem execCfgiSteRange_rel (ssec : Bool) (sid : BitVec 32) (range : BitVec 5) (res : CmdWord) (s : State) :
    OutRel R s (execCfgiSteRange ssec sid range res s) := by
  unfold execCfgiSteRange
  split
  · exact ill_rel hR s
  · refine OutRel.ite (ill_rel hR s) ?_
    split
    · next h => exact done_rel hR (of_result h (sidParam_rel hR s _ _))
    · next h => exact done_rel hR (hR.after (pend_rel hR _ _ _) (of_result h (sidParam_rel hR s _ _)))

theorem execCfgiAll_rel (ssec : Bool) (sid : BitVec 32) (res : CmdWord) (s : State) : OutRel R s (execCfgiAll ssec sid res s) := by
  unfold execCfgiAll
  split
  · exact ill_rel hR s
  · exact OutRel.ite (ill_rel hR s) (done_rel hR (pend_rel hR s _ _))

theorem execCfgiCd_rel (ssec : Bool) (ssid : BitVec 20) (sid : BitVec 32) (leaf : Bool) (res : CmdWord) (s : State) :
    OutRel R s (execCfgiCd ssec ssid sid leaf res s) := by
  refine OutRel.ite (ill_rel hR s) ?_
  split
  · exact ill_rel hR s
  · refine OutRel.ite (ill_rel hR s) ?_
    split
    · next h => exact done_rel hR (of_result h (sidParam_rel hR s _ _))
    · next h =>
      refine OutRel.after hR ?_ (of_result h (sidParam_rel hR s _ _))
      split
      · next h => exact done_rel hR (of_result h (ssidParam_rel hR _ _))
      · next h => exact done_rel hR (hR.after (pend_rel hR _ _ _) (of_result h (ssidParam_rel hR _ _)))

theorem execCfgiCdAll_rel (ssec : Bool) (sid : BitVec 32) (res : CmdWord) (s : State) : OutRel R s (execCfgiCdAll ssec sid res s) := by
  refine OutRel.ite (ill_rel hR s) ?_
  split
  · exact ill_rel hR s
  · refine OutRel.ite (ill_rel hR s) ?_
    split
    · next h => exact done_rel hR (of_result h (sidParam_rel hR s _ _))
    · next h => exact done_rel hR (hR.after (pend_rel hR _ _ _) (of_result h (sidParam_rel hR s _ _)))

theorem nhCmd_rel (vmid : BitVec 16) (asid : Option (BitVec 16 × Bool)) (addr : Option W64) (leaf : Bool) (res : CmdWord) (s : State) :
    OutRel R s (nhCmd vmid asid addr leaf res s) := by
  refine OutRel.ite (ill_rel hR s) (OutRel.ite (ill_rel hR s) ?_)
  split
  · next h => exact done_rel hR (of_result h (vmidRes0_rel hR s vmid))
  · next h => exact done_rel hR (hR.after (pend_rel hR _ _ _) (of_result h (vmidRes0_rel hR s vmid)))

/-- A command that is ILLEGAL for one of two reasons, or asks for one invalidation. -/
theorem pendUnlessIll_rel {c d : Prop} [Decidable c] [Decidable d] (s : State) (i : InvScope) :
    OutRel R s (if c then ill s else if d then ill s else done (s.pend i none)) :=
  OutRel.ite (ill_rel hR s) (OutRel.ite (ill_rel hR s) (done_rel hR (pend_rel hR s i none)))

theorem execTlbiEl2Asid_rel (asid : BitVec 16) (res : CmdWord) (s : State) : OutRel R s (execTlbiEl2Asid asid res s) :=
  OutRel.ite (ill_rel hR s) (OutRel.ite (ill_rel hR s) (OutRel.ite
    (done_rel hR (hR.after (pend_rel hR _ _ _) (hR.drawn s))) (done_rel hR (pend_rel hR s _ _))))

theorem el2Va_rel (s : State) (asid : Option (BitVec 16 × Bool)) (leaf : Bool) (addr : BitVec 52) : R s (s.el2Va asid leaf addr) :=
  StepClosed.ite (hR.after (pend_rel hR _ _ _) (hR.after (pend_rel hR _ _ _) (hR.after (hR.drawn _) (hR.drawn s))))
    (StepClosed.ite (pend_rel hR s _ _) (pend_rel hR s _ _))

theorem execTlbiEl2Va_rel (asid : BitVec 16) (leaf : Bool) (addr : BitVec 52) (res : CmdWord) (s : State) :
    OutRel R s (execTlbiEl2Va asid leaf addr res s) :=
  OutRel.ite (ill_rel hR s) (OutRel.ite (ill_rel hR s) (done_rel hR (el2Va_rel hR s _ _ _)))

theorem execTlbiEl2Vaa_rel (leaf : Bool) (addr : BitVec 52) (res : CmdWord) (s : State) :
    OutRel R s (execTlbiEl2Vaa leaf addr res s) :=
  OutRel.ite (ill_rel hR s) (OutRel.ite (ill_rel hR s) (done_rel hR (el2Va_rel hR s _ _ _)))

/-! ### Commands to the ATS port -/

theorem sendAtc_rel (s : State) (r : AtcReq) : R s (s.sendAtc r) := hR.after (setAtc_rel hR _ _ _) (hR.emit s _)

theorem atcInv_rel (s : State) (glob ssv : Bool) (ssid : BitVec 20) (sid : BitVec 32) (size : BitVec 6) (addr : BitVec 52) :
    R s (s.atcInv glob ssv ssid sid size addr) := by
  refine StepClosed.ite (hR.refl s) ?_
  split
  · next h => exact of_result h (sidParam_rel hR s _ sid)
  · next h =>
    refine hR.trans (of_result h (sidParam_rel hR s _ sid)) ?_
    split
    · next h => exact of_result h (pasidParam_rel hR _ ssv ssid)
    · next h => exact hR.after (sendAtc_rel hR _ _) (of_result h (pasidParam_rel hR _ ssv ssid))

theorem execAtcInv_rel (glob ssv : Bool) (ssid : BitVec 20) (sid : BitVec 32) (size : BitVec 6) (addr : BitVec 52) (res : CmdWord)
    (s : State) : OutRel R s (execAtcInv glob ssv ssid sid size addr res s) := by
  refine OutRel.ite (ill_rel hR s) (OutRel.ite (ill_rel hR s) (OutRel.ite (ill_rel hR s) (OutRel.ite ?large
    (done_rel hR (atcInv_rel hR s _ _ _ _ _ _)))))
  exact OutRel.ite (OutRel.after hR (ill_rel hR _) (hR.drawn s)) (OutRel.ite (done_rel hR (hR.drawn s))
    (done_rel hR (hR.after (atcInv_rel hR _ _ _ _ _ _ _) (hR.drawn s))))

theorem execPriResp_rel (ssv : Bool) (ssid : BitVec 20) (sid : BitVec 32) (group : BitVec 9) (resp : BitVec 2) (res : CmdWord)
    (s : State) : OutRel R s (execPriResp ssv ssid sid group resp res s) := by
  refine OutRel.ite (ill_rel hR s) (OutRel.ite (ill_rel hR s) (OutRel.ite (ill_rel hR s) (OutRel.ite (ill_rel hR s)
    (OutRel.ite (done_rel hR (hR.refl s)) ?_))))
  split
  · next h => exact done_rel hR (of_result h (sidParam_rel hR s _ sid))
  · next h =>
    refine OutRel.after hR ?_ (of_result h (sidParam_rel hR s _ sid))
    split
    · next h => exact done_rel hR (of_result h (pasidParam_rel hR _ ssv ssid))
    · next h => exact done_rel hR (hR.after (hR.emit _ _) (of_result h (pasidParam_rel hR _ ssv ssid)))

/-! ### Commands for stalled transactions -/

theorem resumeStall_rel (s : State) (n : Nat) (a : StallAct) : R s (s.resumeStall n a) := by
  unfold State.resumeStall
  split
  · exact hR.refl s
  · exact StepClosed.ite (markStall_rel hR s n a) (StepClosed.ite (hR.after (markStall_rel hR _ n a) (hR.drawn s)) (hR.drawn s))

theorem execResume_rel (ssec ac ab : Bool) (sid : BitVec 32) (stag : BitVec 16) (res : CmdWord) (s : State) :
    OutRel R s (execResume ssec ac ab sid stag res s) := by
  refine OutRel.ite (ill_rel hR s) ?_
  split
  · exact ill_rel hR s
  · refine OutRel.ite (ill_rel hR s) ?_
    split
    · next h => exact done_rel hR (of_result h (sidParam_rel hR s _ sid))
    · next h =>
      refine OutRel.after hR ?_ (of_result h (sidParam_rel hR s _ sid))
      split
      · exact done_rel hR (ackStag_rel hR _ _ _ _)
      · exact done_rel hR (resumeStall_rel hR _ _ _)

theorem stallTerm_rel (s : State) (sec : Sec) (sid : BitVec 32) : R s (s.stallTerm sec sid) := by
  refine StepClosed.ite (hR.after (hR.quiet (by rfl)) ((termStalls_only sec sid _ _ 0 s).rel hR)) ?_
  have ht := termStalls_only sec sid (fun i => bit (Config.freeValue (s.draw + i / 512)) (i % 512)) s.stalled.length 0 s
  refine hR.trans (ht.rel hR) (hR.after (hR.drew rfl ?_) (setEvents_rel hR _ sec _))
  obtain ⟨l, m, ht⟩ := ht
  rw [ht]
  simp only [setEvents_draw]
  omega

theorem execStallTerm_rel (ssec : Bool) (sid : BitVec 32) (res : CmdWord) (s : State) :
    OutRel R s (execStallTerm ssec sid res s) := by
  refine OutRel.ite (ill_rel hR s) ?_
  split
  · exact ill_rel hR s
  · refine OutRel.ite (ill_rel hR s) ?_
    split
    · next h => exact done_rel hR (of_result h (sidParam_rel hR s _ sid))
    · next h => exact done_rel hR (hR.after (stallTerm_rel hR _ _ _) (of_result h (sidParam_rel hR s _ sid)))

/-! ### CMD_SYNC -/

theorem syncEvents_rel (s : State) : R s s.syncEvents := by
  have hns : R s ((s.flushEvents .ns).staleStalls .ns) := hR.after (staleStalls_rel hR _ _) (deliverFrom_rel hR _ _ _ s)
  unfold State.syncEvents
  dsimp only
  split
  · exact hns
  · exact hR.after (staleStalls_rel hR _ _) (hR.after (deliverFrom_rel hR _ _ _ _) hns)

theorem syncSignal_rel (s : State) (cs msh : BitVec 2) (attr : BitVec 4) (data : W32) (addr : BitVec 50) :
    R s (s.syncSignal cs msh attr data addr) :=
  StepClosed.ite (pushIrqs_rel hR s _) (StepClosed.ite (hR.emit s _) (hR.refl s))

theorem syncDone_rel (s : State) (cs msh : BitVec 2) (attr : BitVec 4) (data : W32) (addr : BitVec 50) :
    R s (s.syncDone cs msh attr data addr) :=
  hR.after (syncSignal_rel hR _ _ _ _ _ _) (hR.after (syncEvents_rel hR _) (hR.after (flushSyncs_rel hR _ _ _) (hR.quiet (by rfl))))

theorem clearAtc_rel (s : State) : R s s.clearAtc := by
  unfold State.clearAtc
  split <;> exact hR.quiet (by rfl)

theorem execSync_rel (cs msh : BitVec 2) (attr : BitVec 4) (data : W32) (addr : BitVec 50) (res : CmdWord) (s : State) :
    OutRel R s (execSync cs msh attr data addr res s) := by
  have hdone := completeInvals_rel hR s s.curQ
  refine OutRel.ite (ill_rel hR s) (OutRel.ite (ill_rel hR s) (OutRel.ite (OutRel.ite ?late (OutRel.next (hR.refl s)))
    (OutRel.ite (OutRel.next (hR.refl s)) (OutRel.ite (OutRel.next hdone) ?complete))))
  case late => exact OutRel.next (hR.after (cmdError_rel hR _ _) (clearAtc_rel hR s))
  case complete =>
    exact OutRel.next (hR.after (showCons_rel hR _ _) (hR.after (consume_rel hR _) (hR.after (syncDone_rel hR _ _ _ _ _ _) hdone)))

/-- Every command. -/
theorem exec_rel (i : Instr) (s : State) : OutRel R s (exec i s) := by
  cases i with
  | prefetchConfig => exact execPrefetchConfig_rel hR _ _ _ _ _ s
  | prefetchAddr => exact execPrefetchAddr_rel hR _ _ _ _ _ _ _ _ s
  | cfgiSte => exact execCfgiSte_rel hR _ _ _ _ s
  | cfgiSteRange => exact execCfgiSteRange_rel hR _ _ _ _ s
  | cfgiAll ssec sid res => exact execCfgiAll_rel hR ssec sid res s
  | cfgiCd => exact execCfgiCd_rel hR _ _ _ _ _ s
  | cfgiCdAll => exact execCfgiCdAll_rel hR _ _ _ s
  | tlbiNhAll => exact nhCmd_rel hR _ _ _ _ _ s
  | tlbiNhAsid => exact nhCmd_rel hR _ _ _ _ _ s
  | tlbiNhVa => exact nhCmd_rel hR _ _ _ _ _ s
  | tlbiNhVaa => exact nhCmd_rel hR _ _ _ _ _ s
  | tlbiEl3All => exact pendUnlessIll_rel hR s _
  | tlbiEl3Va => exact pendUnlessIll_rel hR s _
  | tlbiEl2All => exact pendUnlessIll_rel hR s _
  | tlbiEl2Asid => exact execTlbiEl2Asid_rel hR _ _ s
  | tlbiEl2Va => exact execTlbiEl2Va_rel hR _ _ _ _ s
  | tlbiEl2Vaa => exact execTlbiEl2Vaa_rel hR _ _ _ s
  | tlbiS12Vmall => exact pendUnlessIll_rel hR s _
  | tlbiS2Ipa => exact pendUnlessIll_rel hR s _
  | tlbiNsnhAll => exact OutRel.ite (ill_rel hR s) (done_rel hR (pend_rel hR s _ _))
  | atcInv => exact execAtcInv_rel hR _ _ _ _ _ _ _ s
  | priResp => exact execPriResp_rel hR _ _ _ _ _ _ s
  | resume => exact execResume_rel hR _ _ _ _ _ _ s
  | stallTerm => exact execStallTerm_rel hR _ _ _ s
  | sync => exact execSync_rel hR _ _ _ _ _ _ s
  | reserved w => exact ill_rel hR s
  | impdef w => exact OutRel.ite (OutRel.refused s _) (ill_rel hR s)

end
end Sys2Proof.Machine
end

section
/-! PROOF. The sweep: the handshakes of the control registers, register accesses and one step. Of the handshake of CR0 and of a reset,
which change fields that are watched, a relation says itself that it keeps them. -/
namespace Sys2Proof.Machine

/-- A relation that is also kept by the handshake of CR0 and by a reset: every step keeps it (`step_rel`). -/
structure CtrlClosed (R : State → State → Prop) : Prop extends StepClosed R where
  effectCr0 : ∀ s q f, R s (s.effectCr0 q f)
  updateCr0 : ∀ s q f, R s (s.updateCr0 q f)
  resetTo : ∀ s cold, R s (s.resetTo cold)

section
variable {R : State → State → Prop} (hR : StepClosed R)
include hR

/-! ### Side effects of CR0 -/

theorem dropStalls_rel (s : State) (q : Sec) : R s (s.dropStalls q) := hR.quiet (by rfl)

theorem setWedged_rel (s : State) (q : Sec) (b : Bool) : R s (s.setWedged q b) := hR.quiet (by cases q <;> rfl)

theorem setUnknown_rel (s : State) (r : UnkReg) : R s (s.setUnknown r) := hR.quiet (by rfl)

theorem setKnown_rel (s : State) (r : UnkReg) : R s (s.setKnown r) := hR.quiet (by rfl)

theorem smmuenOn_rel (s : State) (q : Sec) : R s (s.smmuenOn q) :=
  hR.after (StepClosed.ite (hR.after (hR.quiet (by rfl)) (hR.drawn _)) (hR.refl _))
    (hR.after (hR.foldl (fun s g => setAtosRegs_rel hR s g _) _ _) (hR.setIface (by rfl) (by rfl)))

theorem smmuenDone_rel (s : State) (q : Sec) : R s (s.smmuenDone q) :=
  hR.after (hR.quiet (by rfl)) (hR.setIface (s := s) (q := q) (by rfl) (by rfl))

theorem smmuenOff_rel (s : State) (q : Sec) : R s (s.smmuenOff q) :=
  hR.after (hR.foldl (atosAbandon_rel hR) _ _) (dropStalls_rel hR s q)

theorem cr0Effects_rel (s : State) (q : Sec) (f : Nat) (on : Bool) : R s (s.cr0Effects q f on) :=
  StepClosed.ite (StepClosed.ite (smmuenOn_rel hR s q) (smmuenOff_rel hR s q))
    (StepClosed.ite (setEvents_rel hR s q _)
      (StepClosed.ite (hR.after (setWedged_rel hR _ q false) (hR.after (hR.quiet (by rfl)) (showCons_rel hR s q))) (hR.refl s)))

/-! ### The other handshakes, and power-off -/

theorem effectIrqCtrl_rel (s : State) (q : Sec) (f : Nat) : R s (s.effectIrqCtrl q f) :=
  StepClosed.ite (hR.setIface (by rfl) (by rfl)) (hR.refl s)

theorem updateIrqCtrl_rel (s : State) (q : Sec) (f : Nat) : R s (s.updateIrqCtrl q f) :=
  hR.after (StepClosed.ite (hR.refl _) (hR.setIface (by rfl) (by rfl))) (effectIrqCtrl_rel hR s q f)

theorem updateCr2_rel (s : State) (q : Sec) : R s (s.updateCr2 q) := hR.setIface (by rfl) (by rfl)

theorem effectGbpa_rel (s : State) (q : Sec) : R s (s.effectGbpa q) := hR.setIface (by rfl) (by rfl)

theorem updateGbpa_rel (s : State) (q : Sec) : R s (s.updateGbpa q) :=
  StepClosed.ite (hR.after (hR.setIface (by rfl) (by rfl)) (effectGbpa_rel hR s q)) (hR.refl s)

theorem invAll_rel (s : State) : R s s.invAll := hR.quiet (by rfl)

theorem completeInit_rel (s : State) : R s s.completeInit := StepClosed.ite (invAll_rel hR s) (hR.refl s)

theorem pmcgIrqAck_rel (s : State) (n : Nat) : R s (s.pmcgIrqAck n) := by
  unfold State.pmcgIrqAck
  split
  · exact hR.refl s
  · exact StepClosed.ite (hR.refl s) (hR.quiet (by rfl))

theorem powerOff_rel (s : State) : R s s.powerOff :=
  StepClosed.ite (hR.after (hR.quiet (by rfl)) (hR.foldl (fun s x => abortTxn_rel hR s x.txn) s.stalled s)) (hR.refl s)

/-! ### Register reads -/

theorem readSwIndex_rel (s : State) (x : W32) (max : Nat) : R s (s.readSwIndex x max).2 := by
  unfold State.readSwIndex
  split
  · exact hR.drawn s
  · exact hR.refl s

theorem readCmdqCons_rel (s : State) (q : Sec) : R s (s.readCmdqCons q).2 := by
  unfold State.readCmdqCons
  dsimp only
  split
  · exact hR.refl s
  · exact hR.drawn s

theorem readStatusr_rel (s : State) : R s s.readStatusr.2 := by
  unfold State.readStatusr
  dsimp only
  split
  · exact hR.drawn s
  · exact hR.refl s

theorem readGbpa_rel (s : State) (q : Sec) : R s (s.readGbpa q).2 := by
  unfold State.readGbpa
  dsimp only
  split
  · exact hR.refl s
  · exact hR.drawn s

theorem readPar_rel (s : State) (g : AtosGroup) : R s (s.readPar g).2 := by
  unfold State.readPar
  dsimp only
  split
  · exact hR.drawn s
  · exact hR.refl s

theorem heldReg_rel (s : State) (q : Sec) (r : Reg) : R s (s.heldReg q r).2 := by
  cases r with
  | statusr => exact readStatusr_rel hR s
  | gbpa => exact readGbpa_rel hR s q
  | cmdqProd => exact readSwIndex_rel hR s _ _
  | cmdqCons => exact readCmdqCons_rel hR s q
  | eventqCons => exact readSwIndex_rel hR s _ _
  | priqCons => exact readSwIndex_rel hR s _ _
  | atosPar g => exact readPar_rel hR s g
  | _ => exact hR.refl s

theorem readReg_rel (s : State) (q : Sec) (r : Reg) : R s (s.readReg q r).2 := by
  unfold State.readReg
  split
  · exact hR.drawn s
  · exact heldReg_rel hR s q r

theorem readWord_rel (s : State) (acc : Sec) (off : Nat) : R s (s.readWord acc off).2 := by
  unfold State.readWord
  split
  · exact hR.refl s
  · next l _ =>
    split
    · exact readReg_rel hR s l.sec l.reg
    · exact hR.refl s

/-- A read access, whatever its words are read by. -/
theorem readAccess_rel {rd : Nat → State → W32 × State} (hrd : ∀ o s, R s (rd o s).2) (pair : Bool) (off size : Nat) (s : State) :
    R s (s.readAccess rd pair off size) := by
  have hboth (d : Output) : R s ((rd (off + 4) (rd off s).2).2.emit d) := hR.after (hR.emit _ _) (hR.trans (hrd _ _) (hrd _ _))
  have hpart (o : Nat) (d : Output) : R s ((rd o s.drawn).2.emit d) := hR.after (hR.emit _ _) (hR.trans (hR.drawn s) (hrd o _))
  unfold State.readAccess
  dsimp only
  split
  · split
    · exact hR.emit s _
    · exact hR.emit s _
    · exact hR.after (hR.emit _ _) (hR.drawn s)
    · exact hpart _ _
  · split
    · split
      · exact hR.emit s _
      · exact hR.emit s _
      · exact hboth _
      · exact hpart _ _
    · split
      · exact hboth _
      · exact hR.after (hR.emit _ _) (hrd off s)

theorem regRead_rel (s : State) (acc : Sec) (off size : Nat) : R s (s.regRead acc off size) :=
  StepClosed.ite (hR.emit s _) (readAccess_rel hR (fun o s => readWord_rel hR s acc o) _ off size s)

/-! ### Register writes -/

/-- An interface is stored, and again after a draw: a queue that grows. -/
theorem regrown_rel {s : State} {q : Sec} {i j : Iface} (he : i.cr0Eff = (s.iface q).cr0Eff)
    (ha : i.cr0Ack = (s.iface q).cr0Ack) (he' : j.cr0Eff = i.cr0Eff) (ha' : j.cr0Ack = i.cr0Ack) :
    R s ((s.setIface q i).drawn.setIface q j) := by
  have hi : (s.setIface q i).drawn.iface q = i := by cases q <;> rfl
  exact hR.after (hR.setIface (by rw [hi, he']) (by rw [hi, ha'])) (hR.after (hR.drawn _) (hR.setIface he ha))

theorem storeReg_rel (s : State) (q : Sec) (r : Reg) (v : W64) : R s (s.storeReg q r v) := by
  cases r with
  | cr1 => exact hR.setIface (by rfl) (by rfl)
  | cr2 => exact hR.setIface (by rfl) (by rfl)
  | gerrorCfg0 => exact hR.setIface (by rfl) (by rfl)
  | gerrorCfg1 => exact hR.setIface (by rfl) (by rfl)
  | gerrorCfg2 => exact hR.setIface (by rfl) (by rfl)
  | eventqCfg0 => exact hR.setIface (by rfl) (by rfl)
  | eventqCfg1 => exact hR.setIface (by rfl) (by rfl)
  | eventqCfg2 => exact hR.setIface (by rfl) (by rfl)
  | cmdqProd => exact hR.setIface (by rfl) (by rfl)
  | cmdqCons => exact hR.setIface (by rfl) (by rfl)
  | eventqProd => exact hR.setIface (by rfl) (by rfl)
  | eventqCons => exact hR.setIface (by rfl) (by rfl)
  | strtabBase => exact hR.after (hR.setIface (by rfl) (by rfl)) (hR.quiet (by rfl))
  | strtabCfg => exact hR.after (hR.setIface (by rfl) (by rfl)) (hR.quiet (by rfl))
  | cmdqBase => exact StepClosed.ite (regrown_rel hR (by rfl) (by rfl) (by rfl) (by rfl)) (hR.setIface (by rfl) (by rfl))
  | eventqBase => exact StepClosed.ite (regrown_rel hR (by rfl) (by rfl) (by rfl) (by rfl)) (hR.setIface (by rfl) (by rfl))
  | priqBase => exact StepClosed.ite (hR.trans (hR.drawn s) (hR.quiet (by rfl))) (hR.quiet (by rfl))
  | priqProd => exact hR.quiet (by rfl)
  | priqCons => exact hR.quiet (by rfl)
  | priqCfg0 => exact hR.quiet (by rfl)
  | priqCfg1 => exact hR.quiet (by rfl)
  | priqCfg2 => exact hR.quiet (by rfl)
  | vatosSel => exact hR.quiet (by rfl)
  | atosSid g => exact setAtosRegs_rel hR s g _
  | atosAddr g => exact setAtosRegs_rel hR s g _
  | _ => exact hR.refl s

theorem writePlain_rel (s : State) (q : Sec) (r : Reg) (v : W64) : R s (s.writePlain q r v) :=
  StepClosed.ite (hR.refl s) (StepClosed.ite
    (hR.after (setUnknown_rel hR _ _) (StepClosed.ite (hR.drawn s) (hR.after (storeReg_rel hR _ q r _) (hR.drawn s))))
    (hR.after (setKnown_rel hR _ _) (storeReg_rel hR s q r v)))

theorem writeIrqField_rel (q : Sec) (w : W32) (s : State) (f : Nat) : R s (s.writeIrqField q w f) :=
  StepClosed.ite (hR.refl s) (StepClosed.ite (hR.setIface (by rfl) (by rfl)) (StepClosed.ite (hR.drawn s) (StepClosed.ite
    (hR.after (hR.setIface (by rfl) (by rfl)) (hR.after (updateIrqCtrl_rel hR _ q f) (hR.drawn s)))
    (hR.after (hR.setIface (by rfl) (by rfl)) (hR.drawn s)))))

theorem writeCr1Part_rel (s : State) (q : Sec) (m : W32) (preset guard : Bool) (w : W32) : R s (s.writeCr1Part q m preset guard w) :=
  StepClosed.ite (StepClosed.ite (hR.refl s) (StepClosed.ite (hR.drawn s) (hR.after (hR.setIface (by rfl) (by rfl)) (hR.drawn s))))
    (StepClosed.ite (StepClosed.ite (hR.drawn s) (hR.after (hR.setIface (by rfl) (by rfl)) (hR.drawn s))) (hR.setIface (by rfl) (by rfl)))

theorem writeCr1_rel (s : State) (q : Sec) (w : W32) : R s (s.writeCr1 q w) :=
  hR.after (writeCr1Part_rel hR _ q _ _ _ w) (writeCr1Part_rel hR s q _ _ _ w)

theorem writeCr2_rel (s : State) (q : Sec) (v : W64) : R s (s.writeCr2 q v) := by
  have hput (t : State) (b : Bool) : R t { t.storeReg q .cr2 v with e2hWritten := b } :=
    hR.after (hR.quiet (by rfl)) (storeReg_rel hR t q .cr2 v)
  exact StepClosed.ite (hR.refl s) (StepClosed.ite (StepClosed.ite (hR.drawn s) (hR.after (hput _ _) (hR.drawn s))) (hput s _))

theorem writeGbpa_rel (s : State) (q : Sec) (w : W32) : R s (s.writeGbpa q w) :=
  StepClosed.ite (StepClosed.ite (hR.drawn s) (hR.after (hR.setIface (by rfl) (by rfl)) (hR.drawn s)))
    (StepClosed.ite (hR.setIface (by rfl) (by rfl)) (StepClosed.ite (hR.drawn s) (hR.after (hR.setIface (by rfl) (by rfl)) (hR.drawn s))))

theorem writeSInit_rel (s : State) (inv : Bool) : R s (s.writeSInit inv) :=
  StepClosed.ite (StepClosed.ite (hR.after (hR.quiet (by rfl)) (hR.drawn s)) (hR.quiet (by rfl)))
    (StepClosed.ite (StepClosed.ite (hR.after (hR.quiet (by rfl)) (hR.drawn s)) (hR.after (invAll_rel hR _) (hR.drawn s))) (hR.refl s))

theorem writeCmdqProd_rel (s : State) (q : Sec) (v : W64) : R s (s.writeCmdqProd q v) :=
  hR.after (StepClosed.ite (setWedged_rel hR _ q true) (hR.refl _)) (storeReg_rel hR s q .cmdqProd v)

theorem writeCmdqCons_rel (s : State) (q : Sec) (v : W64) : R s (s.writeCmdqCons q v) :=
  have hdrawn (t : State) (v : W64) : R t (t.drawn.storeReg q .cmdqCons v) := hR.after (storeReg_rel hR _ q .cmdqCons v) (hR.drawn t)
  StepClosed.ite (hR.after (setUnknown_rel hR _ _) (StepClosed.ite (hR.drawn s) (hR.after (setWedged_rel hR _ q true) (hdrawn s _))))
    (hR.after (StepClosed.ite (storeReg_rel hR _ q .cmdqCons v) (StepClosed.ite (hdrawn _ _) (hdrawn _ _))) (setKnown_rel hR s _))

theorem spoilQueue_rel (s : State) (ns : Bool) (base n : Nat) : R s (s.spoilQueue ns base n) :=
  hR.trans (hR.store s false ns base _) (hR.draws _ (n / 64 + 1))

theorem writeEventqCons_rel (s : State) (q : Sec) (v : W64) : R s (s.writeEventqCons q v) :=
  hR.after (StepClosed.ite (spoilQueue_rel hR _ _ _ _) (hR.refl _)) (storeReg_rel hR s q .eventqCons v)

theorem writePriqCons_rel (s : State) (v : W64) : R s (s.writePriqCons v) :=
  hR.after (StepClosed.ite (spoilQueue_rel hR _ _ _ _) (hR.refl _)) (storeReg_rel hR s .ns .priqCons v)

theorem writeAtosArg_rel (s : State) (g : AtosGroup) (busy : Bool) (q : Sec) (r : Reg) (v : W64) (spoil : W64 → AtosOp → AtosOp) :
    R s (s.writeAtosArg g busy q r v spoil) := by
  have ht : R s (s.drawn.storeReg q r v) := hR.after (storeReg_rel hR _ q r v) (hR.drawn s)
  refine StepClosed.ite (storeReg_rel hR s q r v) (StepClosed.ite (hR.drawn s) ?_)
  dsimp only
  split
  · exact ht
  · exact hR.after (setAtosOp_rel hR _ g _) ht

theorem spoilWords_rel {wr : Nat → W32 → State → State} (hwr : ∀ o w s, R s (wr o w s)) (l : List Nat) (s : State) :
    R s (State.spoilWords wr l s) := by
  induction l generalizing s with
  | nil => exact hR.refl s
  | cons o os ih => exact hR.after (ih _) (hR.trans (hR.drawn s) (hwr o _ _))

theorem writeHalves_rel {wr : Nat → W32 → State → State} (hwr : ∀ o w s, R s (wr o w s)) (off : Nat) (v : W64) (s : State) :
    R s (s.writeHalves wr off v) :=
  StepClosed.ite (hR.after (hwr _ _ _) (hR.after (hwr _ _ _) (hR.drawn s))) (hR.after (hwr _ _ _) (hR.after (hwr _ _ _) (hR.drawn s)))

theorem writeSplit_rel {wr : Nat → W32 → State → State} (hwr : ∀ o w s, R s (wr o w s)) (later : Nat → W32 → Stimulus)
    (off : Nat) (v : W64) (s : State) : R s (s.writeSplit wr later off v) :=
  hR.after (hR.quiet (by rfl)) (StepClosed.ite (c := bit s.free 511 = true) (hR.trans (hR.drawn s) (hwr (off + 4) (hi32 v) _))
    (hR.trans (hR.drawn s) (hwr off (lo32 v) _)))

/-- A write access, whatever its words are written by. -/
theorem writeAccess_rel {wr : Nat → W32 → State → State} {whole : State → State} (hwr : ∀ o w s, R s (wr o w s))
    (hwhole : ∀ s, R s (whole s)) (wide : Nat → Bool) (later : Nat → W32 → Stimulus) (pair : Bool)
    (off size : Nat) (v : W64) (s : State) : R s (s.writeAccess wide wr whole later pair off size v) := by
  unfold State.writeAccess
  split
  · split
    · exact hR.refl s
    · exact hR.emit s _
    · exact spoilWords_rel hR hwr _ s
    · exact spoilWords_rel hR hwr _ s
  · split
    · split
      · exact hR.refl s
      · exact hR.emit s _
      · exact writeHalves_rel hR hwr off v s
      · exact StepClosed.ite (hR.trans (hR.drawn s) (hwr _ _ _)) (hR.trans (hR.drawn s) (hwr _ _ _))
    · exact StepClosed.ite (StepClosed.ite (hwhole s) (writeSplit_rel hR hwr later off v s)) (hwr _ _ s)

/-! ### The pages of the counter groups and of the RAS groups -/

theorem pmcgReadWord_rel (s : State) (n : Nat) (page1 : Bool) (acc : Sec) (off : Nat) : R s (s.pmcgReadWord n page1 acc off).2 := by
  unfold State.pmcgReadWord
  split
  · exact hR.refl s
  · split
    · split
      · exact hR.drawn s
      · exact hR.refl s
    · exact hR.refl s

theorem pmcgRead_rel (s : State) (acc : Sec) (addr size : Nat) : R s (s.pmcgRead acc addr size) := by
  unfold State.pmcgRead
  split
  · exact hR.emit s _
  · exact StepClosed.ite (hR.emit s _) (readAccess_rel hR (fun o s => pmcgReadWord_rel hR s _ _ acc o) _ _ size s)

theorem writePmcgIrq_rel (s : State) (n : Nat) (g : Pmcg) (w : W32) : R s (s.writePmcgIrq n g w) :=
  StepClosed.ite (hR.refl s) (StepClosed.ite (hR.quiet (by rfl)) (StepClosed.ite (hR.drawn s) (StepClosed.ite
    (hR.after (hR.quiet (by rfl)) (hR.after (pmcgIrqAck_rel hR _ n) (hR.drawn s))) (hR.after (hR.quiet (by rfl)) (hR.drawn s)))))

theorem pmcgWriteWord_rel (s : State) (n : Nat) (page1 : Bool) (acc : Sec) (off : Nat) (w : W32) :
    R s (s.pmcgWriteWord n page1 acc off w) := by
  unfold State.pmcgWriteWord
  split
  · exact hR.refl s
  · refine StepClosed.ite (StepClosed.ite (hR.refl s) (writePmcgIrq_rel hR s n _ w)) ?_
    refine hR.after (StepClosed.ite (hR.quiet (by rfl)) (hR.refl _)) ?_
    split
    · exact hR.after (StepClosed.ite (setUnknown_rel hR _ _) (setKnown_rel hR _ _))
        (hR.after (StepClosed.ite (hR.refl _) (hR.quiet (by rfl))) (hR.after (hR.quiet (by rfl)) (hR.drawn s)))
    · exact hR.after (StepClosed.ite (hR.refl _) (hR.quiet (by rfl))) (hR.after (hR.quiet (by rfl)) (hR.drawn s))

theorem pmcgWrite_rel (s : State) (acc : Sec) (addr size : Nat) (v : W64) : R s (s.pmcgWrite acc addr size v) := by
  unfold State.pmcgWrite
  split
  · exact hR.refl s
  · exact StepClosed.ite (hR.refl s) (writeAccess_rel hR (fun o w s => pmcgWriteWord_rel hR s _ _ acc o w)
      (fun s => hR.trans (pmcgWriteWord_rel hR s _ _ acc _ _) (pmcgWriteWord_rel hR _ _ _ acc _ _)) _ _ _ _ size v s)

theorem rasOdd_rel (s : State) (g : Nat) (x : RasGroup) (off : Nat) : R s (s.rasOdd g x off) :=
  StepClosed.ite (hR.after (pushIrqs_rel hR _ _) (hR.drawn s)) (hR.drawn s)

theorem rasSpoilAll_rel (g : Nat) (l : List Nat) (s : State) : R s (State.rasSpoilAll g l s) := by
  induction l generalizing s with
  | nil => exact hR.refl s
  | cons o os ih => exact hR.after (ih _) (hR.after (hR.quiet (by rfl)) (hR.drawn s))

theorem rasRead_rel (s : State) (acc : Sec) (addr size : Nat) : R s (s.rasRead acc addr size) := by
  unfold State.rasRead
  split
  · exact hR.emit s _
  · exact StepClosed.ite (hR.emit s _) (StepClosed.ite (hR.after (hR.emit _ _) (rasOdd_rel hR s _ _ _)) (hR.emit s _))

theorem rasWrite_rel (s : State) (acc : Sec) (addr size : Nat) (v : W64) : R s (s.rasWrite acc addr size v) := by
  unfold State.rasWrite
  split
  · exact hR.refl s
  · exact StepClosed.ite (hR.refl s) (StepClosed.ite (hR.quiet (by rfl)) (StepClosed.ite (rasOdd_rel hR s _ _ _)
      (hR.after (rasSpoilAll_rel hR _ _ _) (rasOdd_rel hR s _ _ _))))

/-! ### Command queues -/

theorem execute_rel (s : State) (q : Sec) (w : CmdWord) : OutRel R s (s.execute q w) :=
  OutRel.after hR (exec_rel hR (decode w) _) (hR.quiet (by rfl))

theorem fetchRun_rel (s : State) (q : Sec) (idx : Nat) : OutRel R s (s.fetchRun q idx) := by
  unfold State.fetchRun
  split
  · next h => exact OutRel.after hR (execute_rel hR _ q _) (of_result h (busRead_rel hR s _ _ _ _ _ _))
  · next h => exact OutRel.next (hR.after (cmdError_rel hR _ .abt) (hR.after (hR.quiet (by rfl))
      (of_result h (busRead_rel hR s _ _ _ _ _ _))))

theorem runHead_rel (s : State) (q : Sec) : OutRel R s (s.runHead q) := by
  unfold State.runHead
  dsimp only
  split
  · exact execute_rel hR s q _
  · exact fetchRun_rel hR s q _

theorem runCmdq_rel (s : State) (q : Sec) : OutRel R s (s.runCmdq q) :=
  OutRel.ite (OutRel.next (hR.refl s)) (OutRel.ite
    (OutRel.ite (OutRel.next (hR.drawn s)) (OutRel.after hR (fetchRun_rel hR _ q _) (hR.drawn s))) (runHead_rel hR s q))

theorem wildCmd_rel (s : State) (q : Sec) (atLoc : Bool) : OutRel R s (s.wildCmd q atLoc) :=
  OutRel.ite (OutRel.next (hR.refl s)) (OutRel.ite (OutRel.after hR (fetchRun_rel hR _ q _) (hR.drawn s))
    (OutRel.after hR (execute_rel hR _ q _) (hR.drawn s)))

theorem agentWrite_rel (s : State) (ns : Bool) (pa : Nat) (bs : List Byte) : OutRel R s (s.agentWrite ns pa bs) :=
  OutRel.ite (OutRel.next (agentStore_rel hR s ns pa bs)) (OutRel.fault s _)

theorem interleave_rel (s : State) (order : List Nat) (ws : List (List MemWr)) : OutRel R s (s.interleave order ws) :=
  OutRel.ite (OutRel.next (hR.quiet (by rfl))) (OutRel.fault s _)

theorem move_rel (s : State) (n : Nat) : R s (s.move n) := by
  unfold State.move
  split
  · exact hR.refl s
  · split
    · exact release_rel hR s n
    · exact process_rel hR s n

end

/-! ### What holds of the value of an option -/

section
variable {α : Type} {P : α → Prop}

theorem forall_mem_orElse {x y : Option α} (hx : ∀ a ∈ x, P a) (hy : ∀ a ∈ y, P a) : ∀ a ∈ (x <|> y), P a := by
  cases x with
  | none => exact hy
  | some _ => exact hx

theorem forall_mem_ite_some {c : Prop} [Decidable c] {a : α} (ha : P a) : ∀ b ∈ (if c then some a else none), P b := by
  simp only [Option.mem_ite_none_right, Option.mem_some_iff]
  rintro b ⟨_, rfl⟩
  exact ha

theorem forall_mem_ite_none {c : Prop} [Decidable c] {a : α} (ha : P a) : ∀ b ∈ (if c then none else some a), P b := by
  simp only [Option.mem_ite_none_left, Option.mem_some_iff]
  rintro b ⟨_, rfl⟩
  exact ha

end

section
variable {R : State → State → Prop} (hR : CtrlClosed R)
include hR

/-! ### Writes that may begin or complete an Update of CR0 -/

theorem writeCr0Field_rel (q : Sec) (w : W32) (s : State) (f : Nat) : R s (s.writeCr0Field q w f) :=
  StepClosed.ite (hR.refl s) (StepClosed.ite (hR.setIface (by rfl) (by rfl)) (StepClosed.ite (hR.drawn s) (StepClosed.ite
    (hR.after (hR.setIface (by rfl) (by rfl)) (hR.after (hR.updateCr0 _ q f) (hR.drawn s)))
    (hR.after (hR.setIface (by rfl) (by rfl)) (hR.drawn s)))))

theorem writeReg_rel (s : State) (q : Sec) (r : Reg) (v : W64) : R s (s.writeReg q r v) := by
  have hC := hR.toStepClosed
  cases r with
  | cr0 => exact hR.foldl (writeCr0Field_rel hR q _) _ s
  | irqCtrl => exact hR.foldl (writeIrqField_rel hC q _) _ s
  | cr1 => exact writeCr1_rel hC s q _
  | cr2 => exact writeCr2_rel hC s q v
  | gbpa => exact writeGbpa_rel hC s q _
  | sInit => exact writeSInit_rel hC s _
  | gerrorn => exact ackGerror_rel hC s q _
  | cmdqProd => exact writeCmdqProd_rel hC s q v
  | cmdqCons => exact writeCmdqCons_rel hC s q v
  | eventqCons => exact writeEventqCons_rel hC s q v
  | priqCons => exact writePriqCons_rel hC s v
  | atosCtrl g => exact writeAtosCtrl_rel hC s g _
  | atosSid g => exact writeAtosArg_rel hC s g _ q (.atosSid g) v fun x o => { o with sid := x }
  | atosAddr g => exact writeAtosArg_rel hC s g _ q (.atosAddr g) v fun x o => { o with addr := x }
  | vatosSel => exact writeAtosArg_rel hC s .vatos _ q .vatosSel v fun x o => { o with sel := lo32 x }
  | idr n => exact hR.refl s
  | sidr n => exact hR.refl s
  | idReg off => exact hR.refl s
  | cr0ack => exact hR.refl s
  | statusr => exact hR.refl s
  | agbpa => exact hR.refl s
  | irqCtrlAck => exact hR.refl s
  | gerror => exact hR.refl s
  | atosPar g => exact hR.refl s
  | _ => exact writePlain_rel hC s q _ v

theorem writeWord_rel (s : State) (acc : Sec) (off : Nat) (w : W32) : R s (s.writeWord acc off w) := by
  unfold State.writeWord
  split
  · exact hR.refl s
  · exact StepClosed.ite (writeReg_rel hR s _ _ _) (hR.refl s)

theorem writeWide_rel (s : State) (acc : Sec) (off : Nat) (v : W64) : R s (s.writeWide acc off v) := by
  unfold State.writeWide
  split
  · exact hR.refl s
  · exact StepClosed.ite (writeReg_rel hR s _ _ v) (hR.refl s)

theorem regWrite_rel (s : State) (acc : Sec) (off size : Nat) (v : W64) : R s (s.regWrite acc off size v) :=
  StepClosed.ite (hR.refl s) (writeAccess_rel hR.toStepClosed (fun o w s => writeWord_rel hR s acc o w)
    (fun s => writeWide_rel hR s acc off v) _ _ _ off size v s)

/-! ### One step -/

theorem act_rel (s : State) (x : Stimulus) : OutRel R s (s.act x) := by
  have hC := hR.toStepClosed
  cases x with
  | regRead sec off size => exact OutRel.next (regRead_rel hC s sec off size)
  | regWrite sec off size v => exact OutRel.next (regWrite_rel hR s sec off size v)
  | pmcgRead sec addr size => exact OutRel.next (pmcgRead_rel hC s sec addr size)
  | pmcgWrite sec addr size v => exact OutRel.next (pmcgWrite_rel hC s sec addr size v)
  | rasRead sec addr size => exact OutRel.next (rasRead_rel hC s sec addr size)
  | rasWrite sec addr size v => exact OutRel.next (rasWrite_rel hC s sec addr size v)
  | memWrite ns pa bs => exact agentWrite_rel hC s ns pa bs
  | interleave order ws => exact interleave_rel hC s order ws
  | transaction t => exact OutRel.next (transaction_rel hC s t)
  | withdraw n => exact OutRel.next (withdraw_rel hC s n)
  | respond n r => exact OutRel.next (respond_rel hC s n r)
  | atsRequest t => exact OutRel.next (atsRequest_rel hC s t)
  | pri m => exact OutRel.next (priReceive_rel hC s m)
  | pageRequest sec sid ssv ssid addr span flags => exact OutRel.next (pageHint_rel hC s sec sid ssv ssid addr span flags)
  | impdefEvent sec n payload => exact OutRel.next (impdefEvent_rel hC s sec n payload)
  | atcComplete sec n => exact OutRel.next (atcComplete_rel hC s sec n)
  | atcTimeout sec n => exact OutRel.next (atcTimeout_rel hC s sec n)
  | broadcast b => exact OutRel.next (onBroadcast_rel hC s b)
  | dvmSync id => exact OutRel.next (onDvmSync_rel hC s id)
  | enterSfm => exact OutRel.next (enterSfm_rel hC s)
  | rasError g n e => exact OutRel.next (rasDetect_rel hC s g n e)
  | pmcgTick => exact OutRel.next (pmu_rel hC s 0 none)
  | reset => exact OutRel.next (hR.resetTo s true)
  | errorRecoveryReset => exact OutRel.next (hR.resetTo s false)
  | powerOff => exact OutRel.next (powerOff_rel hC s)
  | process n => exact OutRel.next (process_rel hC s n)
  | release n => exact OutRel.next (release_rel hC s n)
  | sendIrq n => exact OutRel.next (sendIrq_rel hC s n)
  | mergeIrq n => exact OutRel.next (mergeIrq_rel hC s n)
  | takePri n => exact OutRel.next (takePri_rel hC s n)
  | readEventq sec n => exact OutRel.next (readEventq_rel hC s sec n)
  | readPriq n => exact OutRel.next (readPriq_rel hC s n)
  | writeEventq sec n => exact OutRel.next (writeEventq_rel hC s sec n)
  | writePriq n => exact OutRel.next (writePriq_rel hC s n)
  | completeInval n => exact OutRel.next (completeInval_rel hC s n)
  | showCons sec => exact OutRel.next (showCons_rel hC s sec)
  | effectCr0 sec f => exact OutRel.next (hR.effectCr0 s sec f)
  | updateCr0 sec f => exact OutRel.next (hR.updateCr0 s sec f)
  | effectIrqCtrl sec f => exact OutRel.next (effectIrqCtrl_rel hC s sec f)
  | updateIrqCtrl sec f => exact OutRel.next (updateIrqCtrl_rel hC s sec f)
  | updateCr2 sec => exact OutRel.next (updateCr2_rel hC s sec)
  | effectGbpa sec => exact OutRel.next (effectGbpa_rel hC s sec)
  | updateGbpa sec => exact OutRel.next (updateGbpa_rel hC s sec)
  | completeInit => exact OutRel.next (completeInit_rel hC s)
  | pmcgIrqEffect n => exact OutRel.next (hR.quiet (by rfl))
  | pmcgIrqAck n => exact OutRel.next (pmcgIrqAck_rel hC s n)
  | atosRun g => exact OutRel.next (atosRun_rel hC s g)
  | atosError g => exact OutRel.next (atosError_rel hC s g)
  | evictCfg n => exact OutRel.next (hR.quiet (by rfl))
  | evictTlb n => exact OutRel.next (hR.quiet (by rfl))
  | prefetch n k => exact OutRel.next (prefetch_rel hC s n k)
  | dropPrefetch n => exact OutRel.next (hR.quiet (by rfl))
  | cfgPrefetch sec sid ssid => exact OutRel.next (cfgPrefetch_rel hC s sec sid ssid)
  | deliverEvent sec n => exact OutRel.next (deliverEvent_rel hC s sec n)
  | resolveStall n => exact OutRel.next (resolveStall_rel hC s n)
  | earlyRetry n => exact OutRel.next (earlyRetry_rel hC s n)
  | runCmdq sec => exact runCmdq_rel hC s sec
  | fetchCmd sec n => exact OutRel.next (fetchCmd_rel hC s sec n)
  | wildCmd sec atLoc => exact wildCmd_rel hC s sec atLoc

theorem actOff_rel (s : State) (x : Stimulus) : OutRel R s (s.actOff x) := by
  cases x with
  | reset => exact OutRel.next (hR.resetTo s true)
  | memWrite ns pa bs => exact agentWrite_rel hR.toStepClosed s ns pa bs
  | interleave order ws => exact interleave_rel hR.toStepClosed s order ws
  | _ => exact OutRel.refused s _

theorem take_rel (s : State) (x : Stimulus) : OutRel R s (s.take x) := OutRel.ite (actOff_rel hR s x) (act_rel hR s x)

theorem nextUpdate_rel (s : State) : ∀ t ∈ s.nextUpdate, R s t := by
  have hC := hR.toStepClosed
  have hmap {α : Type} {x : Option α} {f : α → State} (hf : ∀ a, R s (f a)) : ∀ t ∈ x.map f, R s t :=
    Option.forall_mem_map.2 fun a _ => hf a
  exact forall_mem_orElse (hmap (hR.updateCr0 s .ns)) (forall_mem_orElse (hmap (hR.updateCr0 s .s))
    (forall_mem_orElse (hmap (updateIrqCtrl_rel hC s .ns)) (forall_mem_orElse (hmap (updateIrqCtrl_rel hC s .s))
      (forall_mem_orElse (forall_mem_ite_some (updateGbpa_rel hC s .ns)) (forall_mem_orElse (forall_mem_ite_some (updateGbpa_rel hC s .s))
        (forall_mem_orElse (forall_mem_ite_some (completeInit_rel hC s)) (hmap (pmcgIrqAck_rel hC s))))))))

theorem chore_rel (s : State) (c : Chore) : ∀ o ∈ s.chore c, OutRel R s o := by
  have hC := hR.toStepClosed
  have hmap {α : Type} {x : Option α} {f : α → State} (hf : ∀ a, R s (f a)) :
      ∀ o ∈ x.map fun a => (.next (f a) : Out), OutRel R s o :=
    Option.forall_mem_map.2 fun a _ => OutRel.next (hf a)
  cases c with
  | flight => exact hmap (move_rel hC s)
  | irq => exact forall_mem_ite_none (OutRel.next (sendIrq_rel hC s 0))
  | pri => exact forall_mem_ite_none (OutRel.next (takePri_rel hC s 0))
  | stall => exact hmap (resolveStall_rel hC s)
  | atos => exact hmap (atosRun_rel hC s)
  | cmdqNs => exact forall_mem_ite_some (runCmdq_rel hC s .ns)
  | cmdqS => exact forall_mem_ite_some (runCmdq_rel hC s .s)
  | eventNs => exact hmap (deliverEvent_rel hC s .ns)
  | eventS => exact hmap (deliverEvent_rel hC s .s)
  | cons => exact hmap (showCons_rel hC s)
  | inval => exact hmap (completeInval_rel hC s)
  | update => exact Option.forall_mem_map.2 fun t ht => OutRel.next (nextUpdate_rel hR s t ht)

theorem auto_rel (s : State) : OutRel R s s.auto := by
  refine OutRel.ite (OutRel.next (hR.refl s)) ?_
  generalize chores.dropWhile (fun c => c != s.turn) ++ chores.takeWhile (fun c => c != s.turn) = order
  dsimp only
  cases h : order.findSome? fun c => State.chore { s with turn := c.next } c with
  | none =>
    exact OutRel.next (hR.refl s)
  | some o =>
    obtain ⟨c, _, hc⟩ := List.exists_of_findSome?_eq_some h
    exact OutRel.after hR.toStepClosed (chore_rel hR _ c o hc) (hR.quiet (by rfl))

/-- Every step. -/
theorem step_rel (s : State) : OutRel R s (step s) := by
  unfold step
  split
  · exact auto_rel hR s
  · next x rest _ => exact OutRel.after hR.toStepClosed (take_rel hR _ x) (hR.quiet (by rfl))

end
end Sys2Proof.Machine
end

section
/-! PROOF. What holds from step to step (11_registers_ns.md R200 to R209): the case `Onward` of the sweep. -/
namespace Sys2Proof.Machine

namespace Onward

theorem refl (s : State) : Onward s s := ⟨rfl, rfl, Nat.le_refl _, [], (List.append_nil _).symm⟩

theorem trans {s t u : State} (h : Onward s t) (h' : Onward t u) : Onward s u := by
  obtain ⟨hids, himpl, hdraw, l, hout⟩ := h
  obtain ⟨hids', himpl', hdraw', l', hout'⟩ := h'
  exact ⟨hids'.trans hids, himpl'.trans himpl, Nat.le_trans hdraw hdraw', l ++ l', by rw [hout', hout, List.append_assoc]⟩

/-- A state that differs in none of the fields that `Onward` speaks of. -/
theorem of_eq {s t : State} (hids : t.ids = s.ids) (himpl : t.impl = s.impl) (hout : t.out = s.out) (hdraw : t.draw = s.draw) :
    Onward s t := ⟨hids, himpl, Nat.le_of_eq hdraw.symm, [], by rw [hout, List.append_nil]⟩

theorem stepClosed : StepClosed Onward where
  refl := refl
  trans := trans
  quiet h := by
    simp only [State.watched, Prod.mk.injEq] at h
    obtain ⟨⟨hids, himpl, hout, hdraw⟩, _⟩ := h
    exact of_eq hids himpl hout hdraw
  draws s n := ⟨rfl, rfl, Nat.le_add_right _ n, [], (List.append_nil _).symm⟩
  emit s o := ⟨rfl, rfl, Nat.le_refl _, [o], rfl⟩
  store s sw ns pa bs := of_eq rfl rfl rfl rfl

theorem setIface (s : State) (q : Sec) (i : Iface) : Onward s (s.setIface q i) := by
  cases q <;> exact of_eq rfl rfl rfl rfl

theorem cr0InEffect (s : State) (q : Sec) (f : Nat) : Onward s (s.cr0InEffect q f) :=
  StepClosed.ite (refl s) (trans (cr0Effects_rel stepClosed s q f _) (setIface _ q _))

theorem updateCr0 (s : State) (q : Sec) (f : Nat) : Onward s (s.updateCr0 q f) :=
  StepClosed.ite (refl s) (trans (trans (StepClosed.ite (smmuenOn_rel stepClosed s q) (cr0InEffect s q f))
    (StepClosed.ite (smmuenDone_rel stepClosed _ q) (refl _))) (setIface _ q _))

/-- A reset keeps what left the SMMU; an error recovery reset takes free values for the RAS records. -/
theorem resetTo (s : State) (cold : Bool) : Onward s (s.resetTo cold) := by
  cases cold with
  | true => exact of_eq rfl rfl rfl rfl
  | false => exact ⟨rfl, rfl, Nat.le_add_right _ (56 * s.ras.length), [], (List.append_nil _).symm⟩

theorem ctrlClosed : CtrlClosed Onward where
  toStepClosed := stepClosed
  effectCr0 s q f := StepClosed.ite (refl s) (cr0InEffect s q f)
  updateCr0 := updateCr0
  resetTo := resetTo

end Onward

/-- Settles O57: every operation of the machine is made of updates that go onward, and so every step is. -/
theorem stepIsOnward : Obligations.StepIsOnward := step_rel Onward.ctrlClosed

end Sys2Proof.Machine
end

section
/-! PROOF. A write of a register of the Non-secure Page 0, and the handshakes that it begins (11_registers_ns.md R212, R234). -/
namespace Sys2Proof.Machine

/-! ### A word of a 32-bit register -/

theorem regAt_ns (s : State) {off : Nat} {l : RegLoc} (hlt : off < 0xFD0)
    (h : findReg (sharedRegs .gatos ++ nsRegs) .ns off = some l) : s.regAt off = some l := by
  rw [State.regAt, if_pos (by omega), State.page0, if_neg (by omega), if_neg (by omega), h]

/-- A word written to a 32-bit register that the access reaches. -/
theorem regWrite_reg {s : State} {acc : Sec} {off : Nat} {l : RegLoc} (v : W64) (ha : off % 4 = 0) (h : s.regAt off = some l)
    (hreach : s.reaches acc l = true) (hpres : s.present l.reg = true) (hnarrow : l.reg.wide = false) :
    s.regWrite acc off 4 v = s.writeReg l.sec l.reg (ext (lo32 v)) := by
  have hseen : s.hiddenAccess acc off 4 = false := by simp [State.hiddenAccess, spanned_word ha, h, hreach]
  simp [State.regWrite, hseen, State.writeAccess, legalAccess_word ha, pairAccess_word, State.writeWord, h, hreach, hpres, hnarrow]

/-- A step that writes a 32-bit register of the Non-secure interface, which every access reaches. -/
theorem step_regWrite_ns {s : State} {off : Nat} {r : Reg} {v : W64} {rest : List Stimulus} (hoff : s.off = false)
    (h : s.agenda = .regWrite .ns off 4 v :: rest) (ha : off % 4 = 0) (hlt : off < 0xFD0)
    (hr : findReg (sharedRegs .gatos ++ nsRegs) .ns off = some ⟨.ns, r, false⟩) (hnarrow : r.wide = false)
    (hpres : ({ s with agenda := rest } : State).present r = true) :
    step s = .next (({ s with agenda := rest } : State).writeReg .ns r (ext (lo32 v))) := by
  rw [step_of_agenda h hoff]
  exact congrArg Host.Outcome.next (regWrite_reg v ha (regAt_ns _ hlt hr) rfl hpres hnarrow)

theorem lo32_ext (w : W32) : lo32 (ext w) = w := BitVec.setWidth_setWidth_of_le w (by decide)

/-! ### Writing CR0 -/

/-- A field that is written with the value it has stands. -/
theorem writeCr0Field_same {s : State} {q : Sec} {w : W32} {f : Nat} (h : (s.iface q).cr0 &&& ctrlMask f = w &&& ctrlMask f) :
    s.writeCr0Field q w f = s := if_pos h

/-- A field with no Update under way takes the written value. -/
theorem writeCr0Field_settled {s : State} {q : Sec} {w : W32} {f : Nat} (hne : (s.iface q).cr0 &&& ctrlMask f ≠ w &&& ctrlMask f)
    (hset : (s.iface q).cr0 &&& ctrlMask f = (s.iface q).cr0Ack &&& ctrlMask f) :
    s.writeCr0Field q w f = s.setIface q { s.iface q with cr0 := mergeMask (ctrlMask f) (s.iface q).cr0 w } :=
  (if_neg hne).trans (if_pos hset)

theorem foldl_writeCr0Field_same {s : State} {q : Sec} {w : W32} {l : List Nat} (h : (s.iface q).cr0 = w) :
    l.foldl (State.writeCr0Field q w) s = s := by
  induction l with
  | nil => rfl
  | cons f l ih => rw [List.foldl_cons, writeCr0Field_same (by rw [h]), ih]

/-- SMMUEN is the first of the fields of CR0 that are implemented. -/
theorem cr0Fields_ns (s : State) : ∃ l, s.cr0Fields .ns = 0 :: l := ⟨_, rfl⟩

/-- A write of 1 to a settled CR0 of 0 sets SMMUEN alone. -/
theorem writeReg_cr0_smmuen {s : State} (h0 : s.ns.cr0 = 0) (hack : s.ns.cr0Ack = 0) :
    s.writeReg .ns .cr0 1 = { s with ns := { s.ns with cr0 := 1 } } := by
  obtain ⟨l, hl⟩ := cr0Fields_ns s
  have hput : s.writeCr0Field .ns 1 0 = { s with ns := { s.ns with cr0 := 1 } } := by
    rw [writeCr0Field_settled (by rw [iface_ns, h0]; decide) (by rw [iface_ns, h0, hack]), iface_ns, h0]
    rfl
  calc s.writeReg .ns .cr0 1 = (0 :: l).foldl (State.writeCr0Field .ns 1) s := congrArg (List.foldl _ s) hl
    _ = l.foldl (State.writeCr0Field .ns 1) { s with ns := { s.ns with cr0 := 1 } } := by rw [List.foldl_cons, hput]
    _ = { s with ns := { s.ns with cr0 := 1 } } := foldl_writeCr0Field_same rfl

/-! ### The Update of SMMUEN to 1 -/

/-- What SMMUEN, as it becomes 1, can change. -/
theorem smmuenOn_ns (s : State) : ∃ e g x i d,
    s.smmuenOn .ns = { s with ns := { s.ns with cr2Eff := e, atos := g }, vatos := x, sInit := i, draw := d } := by
  unfold State.smmuenOn
  dsimp only
  split
  · exact ⟨_, _, _, _, _, rfl⟩
  · exact ⟨_, _, _, _, _, rfl⟩

/-- The Update of SMMUEN to 1, which was not in effect before. -/
theorem updateCr0_smmuen {s : State} (h0 : s.ns.cr0 = 1) (hack : s.ns.cr0Ack = 0) (heff : s.ns.cr0Eff = 0) :
    ∃ g x i d e, s.updateCr0 .ns 0 =
      { s with ns := { s.ns with cr0Eff := 1, cr0Ack := 1, cr2Eff := s.ns.cr2, atos := g }, vatos := x, sInit := i, draw := d,
               e2hWritten := e } := by
  obtain ⟨e, g, x, i, d, hon⟩ := smmuenOn_ns s
  have hin : s.cr0InEffect .ns 0 =
      { s with ns := { s.ns with cr2Eff := e, atos := g, cr0Eff := 1 }, vatos := x, sInit := i, draw := d } := by
    have heffect : s.cr0Effects .ns 0 (bit s.ns.cr0 0) = s.smmuenOn .ns := by rw [h0]; rfl
    rw [State.cr0InEffect, iface_ns, if_neg (by rw [h0, heff]; decide), heffect, hon, h0]
    simp only [iface_ns, heff]
    rfl
  have hfield : 0 ∈ s.cr0Fields .ns := by
    obtain ⟨l, hl⟩ := cr0Fields_ns s
    rw [hl]
    exact List.mem_cons_self
  have hlate : s.ns.cr0 &&& ctrlMask 0 ≠ s.ns.cr0Ack &&& ctrlMask 0 := by
    rw [h0, hack]
    decide
  have hset : bit s.ns.cr0 0 = true := by rw [h0]; rfl
  have hclear : bit s.ns.cr0Eff 0 = false := by rw [heff]; rfl
  have hshown : mergeMask (ctrlMask 0) s.ns.cr0Ack s.ns.cr0 = 1 := by rw [h0, hack]; rfl
  refine ⟨g, x, i, d, false, (if_neg (by simp [hfield, hlate])).trans ?_⟩
  simp only [iface_ns, hset, hclear, hin, decide_true, Bool.and_true, Bool.and_false, Bool.false_eq_true, if_true, if_false]
  simp only [State.smmuenDone, State.setIface, iface_ns, hshown]
  simp

theorem bit_one : bit (1 : W32) 0 = true := rfl

/-- Settles O45: the write stores SMMUEN alone, and its Update makes it, and CR2, take effect. -/
theorem controlHandshake : Obligations.ControlHandshake := by
  intro s rest hoff h0 hack heff h
  have hwrite : step s = .next { s with agenda := .updateCr0 .ns 0 :: rest, ns := { s.ns with cr0 := 1 } } := by
    rw [step_regWrite_ns (r := .cr0) hoff h (by decide) (by decide) (by decide) rfl rfl]
    exact congrArg Host.Outcome.next (writeReg_cr0_smmuen (s := { s with agenda := .updateCr0 .ns 0 :: rest }) h0 hack)
  obtain ⟨g, x, i, d, e, hupd⟩ := updateCr0_smmuen (s := { s with agenda := rest, ns := { s.ns with cr0 := 1 } }) rfl hack heff
  have hstep := step_of_agenda (s := { s with agenda := .updateCr0 .ns 0 :: rest, ns := { s.ns with cr0 := 1 } }) rfl hoff
  exact ⟨_, _, hwrite, rfl, hstep.trans (congrArg Host.Outcome.next hupd), rfl, rfl, bit_one, bit_one, rfl⟩

/-! ### GBPA -/

theorem bit_and {w : Nat} (x y : BitVec w) (n : Nat) : bit (x &&& y) n = (bit x n && bit y n) := BitVec.getLsbD_and

theorem eq_of_bit_eq {x y : W32} (h : ∀ n < 32, bit x n = bit y n) : x = y := BitVec.eq_of_getLsbD_eq h

/-- Update is not among the fields that a write keeps. -/
theorem bit_gbpaMask_update : bit (gbpaMask .ns) 31 = false := by decide

/-- ABORT is. -/
theorem bit_gbpaMask_abort : bit (gbpaMask .ns) 20 = true := by decide

theorem writeMask_gbpa (s : State) (q : Sec) : lo32 (s.writeMask q .gbpa) = gbpaMask q :=
  BitVec.setWidth_setWidth_of_le (gbpaMask q) (by decide)

/-- Setting Update and clearing it again gives what there was. -/
theorem setBit_setBit_false {x : W32} (h : bit x 31 = false) : setBit (setBit x 31 true) 31 false = x := by
  refine eq_of_bit_eq fun n _ => ?_
  rw [bit_setBit _ _ _ _ (by decide), bit_setBit _ _ _ _ (by decide)]
  split
  · next hn => rw [hn, h]
  · rfl

theorem setBit_and_not_mask {x : W32} (h : bit x 31 = false) : setBit x 31 true &&& ~~~(maskOf 32 31 1) = x := by
  have hmask : ∀ n < 32, bit (~~~(maskOf 32 31 1)) n = decide (n ≠ 31) := by decide
  refine eq_of_bit_eq fun n hn => ?_
  rw [bit_and, bit_setBit _ _ _ _ (by decide), hmask n hn]
  by_cases hn31 : n = 31
  · simp [hn31, h]
  · simp [hn31]

theorem writeReg_gbpa (s : State) (q : Sec) (w : W32) : s.writeReg q .gbpa (ext w) = s.writeGbpa q w :=
  congrArg (s.writeGbpa q) (lo32_ext w)

/-- A write with Update, while none is under way, is kept, and its Update begins. -/
theorem writeGbpa_update {s : State} {q : Sec} {w : W32} (hidle : bit (s.iface q).gbpa 31 = false) (hw : bit w 31 = true) :
    s.writeGbpa q w = s.setIface q { s.iface q with gbpa := setBit (w &&& gbpaMask q) 31 true } := by
  rw [← writeMask_gbpa s q]
  exact (if_neg (Bool.eq_false_iff.1 hidle)).trans (if_pos hw)

/-- The Update of a kept value completes. -/
theorem updateGbpa_kept {s : State} {q : Sec} {x : W32} (hx : bit x 31 = false) (h : (s.iface q).gbpa = setBit x 31 true) :
    s.updateGbpa q = s.setIface q { s.iface q with gbpa := x, gbpaEff := x } := by
  have hupdate : bit (s.iface q).gbpa 31 = true := by rw [h, bit_setBit _ _ _ _ (by decide), if_pos rfl]
  refine (if_pos hupdate).trans ?_
  simp only [State.effectGbpa, iface_setIface, setIface_setIface, h, setBit_and_not_mask hx, setBit_setBit_false hx]

/-- Settles O46: the write keeps the fields and begins the Update, which puts what is kept in effect. -/
theorem globalBypassUpdate : Obligations.GlobalBypassUpdate := by
  intro s v rest hoff hidle hv h kept
  have hkept : bit kept 31 = false := by rw [bit_and, bit_gbpaMask_update, Bool.and_false]
  have hv32 (n : Nat) (hn : n < 32) : bit (lo32 v) n = bit v n := by simp [bit, lo32, hn]
  have habort : bit kept 20 = bit v 20 := by
    rw [bit_and, bit_gbpaMask_abort, Bool.and_true]
    exact hv32 20 (by decide)
  have hwrite : step s = .next { s with agenda := .updateGbpa .ns :: rest, ns := { s.ns with gbpa := setBit kept 31 true } } := by
    rw [step_regWrite_ns (r := .gbpa) hoff h (by decide) (by decide) (by decide) rfl rfl]
    have hstored := writeGbpa_update (s := { s with agenda := .updateGbpa .ns :: rest }) (q := .ns) (w := lo32 v) hidle
      ((hv32 31 (by decide)).trans hv)
    exact congrArg Host.Outcome.next ((writeReg_gbpa _ .ns (lo32 v)).trans hstored)
  have hstep := step_of_agenda
    (s := { s with agenda := .updateGbpa .ns :: rest, ns := { s.ns with gbpa := setBit kept 31 true } }) rfl hoff
  have hupdate := updateGbpa_kept (s := { s with agenda := rest, ns := { s.ns with gbpa := setBit kept 31 true } }) (q := .ns) hkept rfl
  exact ⟨_, _, hwrite, rfl, rfl, hkept, habort, hstep.trans (congrArg Host.Outcome.next hupdate), rfl⟩

end Sys2Proof.Machine
end

section
/-! PROOF. The canonical form of memory and of the storage inside the SMMU (20_memory.md R450): the case `KeepsCanonical` of the
sweep. -/
namespace Sys2Proof.Machine

/-- A relation of the sweep is kept by the handshake of CR0, which is made of its effects and of changes of the registers of an
interface, once it is kept by every change of those registers. -/
theorem ctrlClosed_of_setIface {R : State → State → Prop} (hR : StepClosed R) (hset : ∀ s q i, R s (s.setIface q i))
    (hreset : ∀ s cold, R s (s.resetTo cold)) : CtrlClosed R :=
  have heffect (s : State) (q : Sec) (f : Nat) : R s (s.cr0InEffect q f) :=
    StepClosed.ite (hR.refl s) (hR.trans (cr0Effects_rel hR s q f _) (hset _ q _))
  { toStepClosed := hR
    effectCr0 := fun s q f => StepClosed.ite (hR.refl s) (heffect s q f)
    updateCr0 := fun s q f => StepClosed.ite (hR.refl s)
      (hR.trans (hR.trans (StepClosed.ite (smmuenOn_rel hR s q) (heffect s q f))
        (StepClosed.ite (smmuenDone_rel hR _ q) (hR.refl _))) (hset _ q _))
    resetTo := hreset }

/-- Memory and the storage inside the SMMU are in canonical form. -/
def State.Canonical (s : State) : Prop := Memory.wf s.mem = true ∧ Memory.wf s.internal = true

/-- Canonical form before gives canonical form after. -/
def KeepsCanonical (s t : State) : Prop := s.Canonical → t.Canonical

namespace KeepsCanonical

/-- What leaves memory and the storage inside the SMMU alone keeps their form. -/
theorem of_eq {s t : State} (hmem : t.mem = s.mem) (hint : t.internal = s.internal) : KeepsCanonical s t := by
  intro h
  rwa [State.Canonical, hmem, hint]

/-- A write to memory is the one update that changes what is stored. -/
theorem store (s : State) (sw ns : Bool) (pa : Nat) (bs : List Byte) : KeepsCanonical s (s.store sw ns pa bs) :=
  fun ⟨hmem, hint⟩ => store_wf s sw ns pa bs hmem hint

theorem stepClosed : StepClosed KeepsCanonical where
  refl _ h := h
  trans h h' hs := h' (h hs)
  quiet h := by
    simp only [State.watched, Prod.mk.injEq] at h
    obtain ⟨_, ⟨hmem, hint⟩, _⟩ := h
    exact of_eq hmem hint
  draws _ _ := of_eq rfl rfl
  emit _ _ := of_eq rfl rfl
  store := store

/-- A reset leaves both as they are (log entry 5). -/
theorem resetTo (s : State) (cold : Bool) : KeepsCanonical s (s.resetTo cold) := by
  cases cold <;> exact of_eq rfl rfl

theorem ctrlClosed : CtrlClosed KeepsCanonical :=
  ctrlClosed_of_setIface stepClosed (fun s q i => of_eq (setIface_mem s q i) (setIface_internal s q i)) resetTo

end KeepsCanonical

/-- Settles O56: writes to memory keep the form, and nothing else that a step does changes what is stored. -/
theorem stepKeepsMemoryCanonical : Obligations.StepKeepsMemoryCanonical :=
  fun s t hmem hint h => step_rel KeepsCanonical.ctrlClosed s t h ⟨hmem, hint⟩

/-- Settles O55: nothing is stored after reset. -/
theorem resetMemoryCanonical : Obligations.ResetMemoryCanonical := ⟨reset_mem_wf, reset_mem_wf⟩

end Sys2Proof.Machine
end

section
/-! PROOF. Indexes and wrap flags of a queue, and its number of full locations (20_memory.md R456 to R459). -/
namespace Sys2Proof.Machine

/-! ### Index and wrap flag as one number -/

theorem qIndex_lt (x : W32) (qs : Nat) : qIndex x qs < 2 ^ qs := Nat.mod_lt _ (Nat.two_pow_pos qs)

/-- The wrap flag is the bit above the index. -/
theorem qPos_eq (x : W32) (qs : Nat) : qPos x qs = qIndex x qs + 2 ^ qs * (qWrap x qs).toNat := by
  have hwrap : (qWrap x qs).toNat = x.toNat / 2 ^ qs % 2 := Nat.toNat_testBit x.toNat qs
  rw [hwrap]
  exact Nat.mod_pow_succ

/-- The number determines the index and the wrap flag. -/
theorem qIndex_qWrap_of_qPos {x : W32} {qs i : Nat} {w : Bool} (hi : i < 2 ^ qs) (h : qPos x qs = i + 2 ^ qs * w.toNat) :
    qIndex x qs = i ∧ qWrap x qs = w := by
  rw [qPos_eq] at h
  have hidx : qIndex x qs = i := by
    have hmod := congrArg (· % 2 ^ qs) h
    rwa [Nat.add_mul_mod_self_left, Nat.add_mul_mod_self_left, Nat.mod_eq_of_lt (qIndex_lt x qs), Nat.mod_eq_of_lt hi] at hmod
  have hwrap : (qWrap x qs).toNat = w.toNat := Nat.eq_of_mul_eq_mul_left (Nat.two_pow_pos qs) (by omega)
  exact ⟨hidx, Bool.eq_iff_iff.2 (by rw [← Bool.toNat_eq_one, hwrap, Bool.toNat_eq_one])⟩

/-! ### The number of full locations -/

/-- With equal wrap flags, PROD is ahead of CONS by the difference of the indexes, once around where that is negative. -/
theorem qUsed_of_qWrap_eq {prod cons : W32} {qs : Nat} (h : qWrap prod qs = qWrap cons qs) :
    qUsed prod cons qs + qIndex cons qs =
      if qIndex cons qs ≤ qIndex prod qs then qIndex prod qs else qIndex prod qs + 2 * 2 ^ qs := by
  have hprod := qIndex_lt prod qs
  have hcons := qIndex_lt cons qs
  rw [qUsed, qPos_eq, qPos_eq, h, pow_succ']
  split
  · next hle =>
    rw [show qIndex prod qs + 2 ^ qs * (qWrap cons qs).toNat + 2 * 2 ^ qs - (qIndex cons qs + 2 ^ qs * (qWrap cons qs).toNat) =
      qIndex prod qs - qIndex cons qs + 2 * 2 ^ qs by omega, Nat.add_mod_right, Nat.mod_eq_of_lt (by omega)]
    omega
  · next hlt =>
    rw [Nat.mod_eq_of_lt (by omega)]
    omega

/-- With different wrap flags, PROD is one lap of the indexes ahead. -/
theorem qUsed_of_qWrap_ne {prod cons : W32} {qs : Nat} (h : qWrap prod qs ≠ qWrap cons qs) :
    qUsed prod cons qs + qIndex cons qs = qIndex prod qs + 2 ^ qs := by
  have hprod := qIndex_lt prod qs
  have hcons := qIndex_lt cons qs
  rw [qUsed, qPos_eq, qPos_eq, pow_succ']
  cases hp : qWrap prod qs
  · have hc : qWrap cons qs = true := by simpa [hp] using h
    simp only [hc, Bool.toNat_false, Bool.toNat_true, Nat.mul_zero, Nat.mul_one]
    rw [Nat.mod_eq_of_lt (by omega)]
    omega
  · have hc : qWrap cons qs = false := by simpa [hp] using h
    simp only [hc, Bool.toNat_false, Bool.toNat_true, Nat.mul_zero, Nat.mul_one]
    rw [show qIndex prod qs + 2 ^ qs + 2 * 2 ^ qs - (qIndex cons qs + 0) =
      qIndex prod qs + 2 ^ qs - qIndex cons qs + 2 * 2 ^ qs by omega, Nat.add_mod_right, Nat.mod_eq_of_lt (by omega)]
    omega

/-! ### Empty, full, inconsistent -/

theorem qEmpty_iff (prod cons : W32) (qs : Nat) :
    qEmpty prod cons qs = true ↔ qIndex prod qs = qIndex cons qs ∧ qWrap prod qs = qWrap cons qs := by simp [qEmpty]

theorem qFull_iff (prod cons : W32) (qs : Nat) :
    qFull prod cons qs = true ↔ qIndex prod qs = qIndex cons qs ∧ qWrap prod qs ≠ qWrap cons qs := by simp [qFull]

theorem qInconsistent_iff (prod cons : W32) (qs : Nat) :
    qInconsistent prod cons qs = true ↔ qIndex cons qs < qIndex prod qs ∧ qWrap prod qs ≠ qWrap cons qs ∨
      qIndex prod qs < qIndex cons qs ∧ qWrap prod qs = qWrap cons qs := by simp [qInconsistent]

theorem qEmpty_iff_qUsed (prod cons : W32) (qs : Nat) : qEmpty prod cons qs = true ↔ qUsed prod cons qs = 0 := by
  have hprod := qIndex_lt prod qs
  have hcons := qIndex_lt cons qs
  rw [qEmpty_iff]
  by_cases h : qWrap prod qs = qWrap cons qs
  · have hused := qUsed_of_qWrap_eq h
    simp only [h, and_true]
    split at hused <;> omega
  · have hused := qUsed_of_qWrap_ne h
    simp only [h, and_false, false_iff]
    omega

theorem qFull_iff_qUsed (prod cons : W32) (qs : Nat) : qFull prod cons qs = true ↔ qUsed prod cons qs = 2 ^ qs := by
  have hprod := qIndex_lt prod qs
  have hcons := qIndex_lt cons qs
  rw [qFull_iff]
  by_cases h : qWrap prod qs = qWrap cons qs
  · have hused := qUsed_of_qWrap_eq h
    simp only [h, ne_eq, not_true_eq_false, and_false, false_iff]
    split at hused <;> omega
  · have hused := qUsed_of_qWrap_ne h
    simp only [h, ne_eq, not_false_eq_true, and_true]
    omega

/-- Inconsistent indexes are those that would make more locations full than there are. -/
theorem qInconsistent_iff_qUsed (prod cons : W32) (qs : Nat) :
    qInconsistent prod cons qs = true ↔ 2 ^ qs < qUsed prod cons qs := by
  have hprod := qIndex_lt prod qs
  have hcons := qIndex_lt cons qs
  rw [qInconsistent_iff]
  by_cases h : qWrap prod qs = qWrap cons qs
  · have hused := qUsed_of_qWrap_eq h
    simp only [h, ne_eq, not_true_eq_false, and_false, and_true, false_or]
    split at hused <;> omega
  · have hused := qUsed_of_qWrap_ne h
    simp only [h, ne_eq, not_false_eq_true, and_true, and_false, or_false]
    omega

/-! ### The increment -/

/-- Below the top, the index goes up by one. -/
theorem qInc_below_top {x : W32} {qs : Nat} (hqs : qs ≤ 19) (h : qIndex x qs + 1 < 2 ^ qs) :
    qIndex (qInc x qs) qs = qIndex x qs + 1 ∧ qWrap (qInc x qs) qs = qWrap x qs := by
  refine qIndex_qWrap_of_qPos h ?_
  have hwrap : 2 ^ qs * (qWrap x qs).toNat ≤ 2 ^ qs * 1 := Nat.mul_le_mul_left _ (Bool.toNat_le _)
  rw [qPos_qInc x qs hqs, qPos_eq, pow_succ', Nat.mod_eq_of_lt (by omega)]
  omega

/-- At the top, it goes back to 0 and the wrap flag toggles. -/
theorem qInc_at_top {x : W32} {qs : Nat} (hqs : qs ≤ 19) (h : qIndex x qs + 1 = 2 ^ qs) :
    qIndex (qInc x qs) qs = 0 ∧ qWrap (qInc x qs) qs = !qWrap x qs := by
  refine qIndex_qWrap_of_qPos (Nat.two_pow_pos qs) ?_
  rw [qPos_qInc x qs hqs, qPos_eq, pow_succ', Nat.add_right_comm, h]
  cases qWrap x qs
  · have hlt : 2 ^ qs < 2 * 2 ^ qs := by omega
    simp [Nat.mod_eq_of_lt hlt]
  · simp [← two_mul]

/-- Settles O43: the wrap flag and index are one number modulo twice the size of the queue, of which the number of full locations
is the difference. -/
theorem queueArithmetic : Obligations.QueueArithmetic :=
  ⟨fun prod cons qs _ => ⟨qEmpty_iff prod cons qs, qFull_iff prod cons qs, qEmpty_iff_qUsed prod cons qs,
      qFull_iff_qUsed prod cons qs, qInconsistent_iff_qUsed prod cons qs⟩,
    fun x qs hqs => ⟨qPos_qInc x qs hqs, qInc_below_top hqs, qInc_at_top hqs, fld_qInc x qs⟩⟩

end Sys2Proof.Machine
end

section
/-! PROOF. What becomes of a client transaction (23_translation.md R830): its arrival, global bypass, the lookups, the answer. -/
namespace Sys2Proof.Machine

/-! ### Computations that may fault -/

theorem Tr.bind_ok {α β : Type} {x : Tr α} {f : α → Tr β} {s t : State} {a : α} (h : x s = (.ok a, t)) : (x >>= f) s = f a t := by
  show (ExceptT.bind x f : Tr β) s = _
  simp only [ExceptT.bind, ExceptT.mk, Bind.bind, StateT.bind, h]
  rfl

theorem Tr.bind_error {α β : Type} {x : Tr α} {f : α → Tr β} {s t : State} {e : Flt} (h : x s = (.error e, t)) :
    (x >>= f) s = (.error e, t) := by
  show (ExceptT.bind x f : Tr β) s = _
  simp only [ExceptT.bind, ExceptT.mk, Bind.bind, StateT.bind, h]
  rfl

/-! ### Ordinary transactions -/

/-- An ordinary read or write of a Non-secure stream, neither Translated nor speculative. -/
structure Txn.Ordinary (t : Txn) : Prop where
  ns : t.sec = .ns
  plain : t.cls = .plain
  untranslated : t.translated = false
  demanded : t.spec = false

/-- A transaction as it is translated for the first time, not for an early retry. -/
abbrev Txn.job (t : Txn) : Job := { t := t, early := none }

/-- An ordinary transaction is ready to go downstream with an address and the attributes that come of `a`. -/
def State.readied (s : State) (t : Txn) (pa : W64) (a : Attrs) (cfg : List CfgEnt) (tlb : List TlbEnt) : State :=
  let w : Fwd := { sec := .ns, sid := t.sid, cls := .plain, rw := t.rw, pa := pa.toNat, ats := false,
                   attrs := finishAttrs s.impl t.noSnoop (ensureConsistent { a with ns := true }) }
  { s with inFlight := s.inFlight ++ [{ txn := t, stage := .ready w cfg tlb }] }

/-- The state in which the n-th transaction in flight is translated: it is taken from those in flight, and its events may be matched by
the configurations of counter groups that were changed meanwhile (51_pmcg.md R1405). -/
def State.txnBegun (s : State) (rest : List Stimulus) (n : Nat) (t : Txn) : State :=
  ({ s with agenda := rest, inFlight := s.inFlight.eraseIdx n } : State).withPast (s.pmcgPast.filter fun p => p.txn == t)

theorem txnBegun_uut (s : State) (rest : List Stimulus) (n : Nat) (t : Txn) : (s.txnBegun rest n t).uut t = s.uut t := rfl
theorem txnBegun_smmuen (s : State) (rest : List Stimulus) (n : Nat) (t : Txn) (q : Sec) :
    (s.txnBegun rest n t).smmuen q = s.smmuen q := by cases q <;> rfl

theorem Txn.Ordinary.dir_eq {t : Txn} (h : t.Ordinary) : t.dir = t.rw := by rw [Txn.dir, h.plain, Cls.rw]

theorem Txn.Ordinary.silentKind {t : Txn} (h : t.Ordinary) (s : State) : s.silentKind t = false := by
  simp [State.silentKind, h.plain, h.demanded]

theorem Txn.Ordinary.not_silent {t : Txn} (h : t.Ordinary) : t.job.silent = false := by
  simp [Job.silent, h.plain, h.demanded]

theorem abortTxn_eq {t : Txn} (h : t.cls ≠ .nwDcp) (s : State) : s.abortTxn t = s.emit (.abort t.id) := by
  rw [State.abortTxn, if_neg h]

theorem Txn.Ordinary.abortTxn_eq {t : Txn} (h : t.Ordinary) (s : State) : s.abortTxn t = s.emit (.abort t.id) :=
  Machine.abortTxn_eq (by simp [h.plain]) s

/-- No Non-secure access violates SIF (12_registers_secure.md R358). -/
theorem sifViolation_ns (sif : Bool) (a : Attrs) : sifViolation sif .ns a = false := by simp [sifViolation]

theorem sifBars_ns (s : State) (r : XRes) (a : Attrs) : s.sifBars .ns r a = false := sifViolation_ns _ a

/-- An ordinary access is never downgraded (24 R1005). -/
theorem outClass_plain (p : Impl) (v31 translated dre dcp permW permAny : Bool) (a : Attrs) :
    outClass p v31 translated dre dcp permW permAny a .plain = .fwd .plain := by
  have hwanted : ∀ b : Bool, (if b then OutCls.fwd .plain else downgradeForced p a .plain) = .fwd .plain := by
    intro b
    cases b <;> rfl
  cases v31
  · exact hwanted _
  · cases translated <;> exact hwanted _

theorem forwardTxn_ordinary {s : State} {t : Txn} (h : t.Ordinary) (huut : s.uut t = false) (pa : W64) (i : Attrs) (ste : StructWord)
    (translated permW permAny : Bool) (cfg : List CfgEnt) (tlb : List TlbEnt) :
    s.forwardTxn t.job pa i ste translated permW permAny cfg tlb = s.readied t pa i cfg tlb := by
  simp [State.forwardTxn, State.readied, huut, h.plain, outClass_plain, h.ns, h.dir_eq, h.untranslated]

/-! ### The steps of a transaction -/

theorem step_transaction {s : State} {t : Txn} {rest : List Stimulus} (h : s.agenda = .transaction t :: rest) (hoff : s.off = false)
    (hsec : s.secureImpl = true) (hats : s.ats = true) :
    step s = .next { s with agenda := rest, inFlight := s.inFlight ++ [{ txn := t, stage := .accepted }], pmcgPast := s.livePast } := by
  have hs : ({ s with agenda := rest } : State).secureImpl = true := hsec
  have ha : ({ s with agenda := rest } : State).ats = true := hats
  rw [step_of_agenda h hoff]
  simp only [State.act, State.transaction, hs, ha, if_true, Bool.and_true]
  rfl

section
variable {s : State} {n : Nat} {t : Txn} {rest : List Stimulus}

theorem step_process_sfm (h : s.agenda = .process n :: rest) (hoff : s.off = false)
    (hn : s.inFlight[n]? = some { txn := t, stage := .accepted }) (hsfm : s.sfm = true) (hcls : t.cls ≠ .nwDcp) :
    step s = .next { s with agenda := rest, inFlight := s.inFlight.eraseIdx n, out := s.out ++ [.abort t.id] } := by
  rw [step_of_agenda h hoff]
  simp [State.act, State.process, hn, hsfm, abortTxn_eq hcls, State.emit]

theorem step_process (h : s.agenda = .process n :: rest) (hoff : s.off = false)
    (hn : s.inFlight[n]? = some { txn := t, stage := .accepted }) (hsfm : s.sfm = false) :
    step s = .next (((s.txnBegun rest n t).runTxn t.job).withPast []) := by
  rw [step_of_agenda h hoff]
  simp [State.act, State.process, hn, hsfm, State.doFor, State.txnBegun]

theorem step_release {w : Fwd} {cfg : List CfgEnt} {tlb : List TlbEnt} (h : s.agenda = .release n :: rest) (hoff : s.off = false)
    (hn : s.inFlight[n]? = some { txn := t, stage := .ready w cfg tlb }) (hsfm : s.sfm = false) :
    step s = .next (({ s with agenda := rest, inFlight := s.inFlight.set n { txn := t, stage := .issued w cfg tlb } } : State).doFor t
      fun s => s.passed t w) := by
  rw [step_of_agenda h hoff]
  simp [State.act, State.release, hn, hsfm]

theorem step_respond {w : Fwd} {cfg : List CfgEnt} {tlb : List TlbEnt} (h : s.agenda = .respond n .ok :: rest) (hoff : s.off = false)
    (hn : s.inFlight[n]? = some { txn := t, stage := .issued w cfg tlb }) :
    step s = .next (({ s with agenda := rest, inFlight := s.inFlight.eraseIdx n } : State).perform t w) := by
  rw [step_of_agenda h hoff]
  simp [State.act, State.respond, hn]

end

/-- What goes downstream is put out, and the counters see it. -/
theorem passed_counts (s : State) (t : Txn) (w : Fwd) :
    CountsOnly (s.emit (.forward t.id w.sec w.sid w.cls w.rw t.size w.pa w.attrs)) (s.passed t w) := by
  have hfirst := pmu_only (s.emit (.forward t.id w.sec w.sid w.cls w.rw t.size w.pa w.attrs)) 1 (some (w.sec, w.sid))
  unfold State.passed
  dsimp only
  split
  · exact hfirst.trans (pmu_only _ 7 _)
  · exact hfirst

/-- Memory performs an ordinary access (00_scope.md R12). -/
theorem perform_plain {t : Txn} {w : Fwd} (ht : t.cls = .plain) (hw : w.cls = .plain) (s : State) :
    s.perform t w = match w.rw with
      | .read => s.emit (.response t.id false (s.load w.attrs.ns w.pa t.size))
      | .write => (s.agentStore w.attrs.ns w.pa (t.data.take t.size)).emit (.response t.id false []) := by
  cases hrw : w.rw <;> simp [State.perform, ht, hw, hrw]

/-! ### Translation -/

section
variable {s : State} {t : Txn} (ht : t.Ordinary) (huut : s.uut t = false)
include ht huut

theorem runTxn_disabled (hen : s.smmuen .ns = false) : s.runTxn t.job = s.bypassTxn t.job (t.inAttrs s.impl) := by
  simp [State.runTxn, ht.silentKind, huut, ht.untranslated, ht.ns, hen]

theorem runTxn_enabled (hen : s.smmuen .ns = true) :
    s.runTxn t.job = (s.lookupTxn t.job (t.inAttrs s.impl)).countMisses .ns t.sid := by
  simp [State.runTxn, ht.silentKind, huut, ht.untranslated, ht.ns, hen]

/-- Global bypass (23_translation.md R805). -/
theorem bypassTxn_ordinary (i : Attrs) :
    s.bypassTxn t.job i =
      if bit s.ns.gbpaEff 20 || addrOutside t.addr s.oas then s.emit (.abort t.id)
      else s.readied t t.addr (s.override (gbpaOverrides s.ns.gbpaEff) t i) [] [] := by
  simp only [State.bypassTxn, ht.ns, iface_ns, sifViolation_ns, Bool.or_false, ht.abortTxn_eq, forwardTxn_ordinary ht huut]

theorem finishTxn_ordinary (hconf : s.trail.conflict = none) (c : Ctx) (i : Attrs) (r : XRes) :
    s.finishTxn t.job c i r = s.readied t r.pa (s.xlatAttrs c r i) s.trail.cfg (s.usedTlb c r) := by
  simp [State.finishTxn, ht.ns, sifBars_ns, hconf, forwardTxn_ordinary ht huut]

end

section
variable {s : State} {n : Nat} {t : Txn} {rest : List Stimulus} (ht : t.Ordinary) (h : s.agenda = .process n :: rest)
  (hoff : s.off = false) (hn : s.inFlight[n]? = some { txn := t, stage := .accepted }) (hsfm : s.sfm = false) (huut : s.uut t = false)
include ht h hoff hn hsfm huut

theorem step_process_disabled (hen : s.smmuen .ns = false) :
    step s = .next (((s.txnBegun rest n t).bypassTxn t.job (t.inAttrs s.impl)).withPast []) := by
  rw [step_process h hoff hn hsfm, runTxn_disabled ht ((txnBegun_uut s rest n t).trans huut) ((txnBegun_smmuen s rest n t .ns).trans hen)]
  rfl

theorem step_process_enabled (hen : s.smmuen .ns = true) :
    step s = .next ((((s.txnBegun rest n t).lookupTxn t.job (t.inAttrs s.impl)).countMisses .ns t.sid).withPast []) := by
  rw [step_process h hoff hn hsfm, runTxn_enabled ht ((txnBegun_uut s rest n t).trans huut) ((txnBegun_smmuen s rest n t .ns).trans hen)]
  rfl

end

/-- The lookups of an STE that enables traffic and of the way into stage 1 lead to the translation, but where the STE bypasses both
stages and the address is outside the OAS (R830 steps 3 and 4). -/
theorem lookupTxn_found {s s1 s2 : State} {t : Txn} (ht : t.Ordinary) (i : Attrs) {ste : StructWord} {regs : CfgRegs} {sel : CdSel}
    (hste : getSte .ns t.sid s = (.ok (ste, regs), s1)) (hsel : cdSelect ste t.ssv t.ssid s1 = (.ok sel, s2))
    (hen : Ste.enabled ste = true) (hin : Ste.cfgS1 ste = true ∨ Ste.cfgS2 ste = true ∨ addrOutside t.addr s2.oas = false) :
    s.lookupTxn t.job i = s2.translateTxn t.job (s2.ctx .ns t.sid ste regs) sel (s2.override (Ste.overrides ste) t i) := by
  have hgo : (!Ste.cfgS1 ste && !Ste.cfgS2 ste && addrOutside t.addr s2.oas) = false := by
    rcases hin with h | h | h <;> simp [h]
  simp [State.lookupTxn, ht.ns, hste, hen, hsel, hgo]

/-- Where stage 1 is disabled no CD is chosen (R820). -/
theorem cdSelect_noS1 {ste : StructWord} {ssv : Bool} {ssid : BitVec 20} {s s' : State} {sel : CdSel} (hs1 : Ste.cfgS1 ste = false)
    (h : cdSelect ste ssv ssid s = (.ok sel, s')) : sel = .bypass := by
  rw [cdSelect, Tr.bind_ok (x := Tr.asks id) rfl] at h
  split at h
  · cases h
  · rw [hs1] at h
    cases h
    rfl

/-- With both stages bypassed a transaction keeps its address, truncated to the OAS, and its attributes (R805). -/
theorem translateTxn_bypass {s : State} {t : Txn} (ht : t.Ordinary) (huut : s.uut t = false) (hconf : s.trail.conflict = none) (c : Ctx)
    (i : Attrs) (hs2 : Ste.cfgS2 c.ste = false) :
    s.translateTxn t.job c .bypass i = s.readied t (truncTo t.addr s.oas) i s.trail.cfg s.trail.tlb := by
  simp only [State.translateTxn, hs2, Bool.false_eq_true, if_false]
  rw [finishTxn_ordinary ht huut hconf]
  rfl

/-- A translation that succeeds is finished, one that faults is taken to its outcome (R830 steps 4 to 6). -/
theorem translateTxn_of_translates {c0 c : Ctx} {sel : CdSel} {t : Txn} {i : Attrs} {s s' : State} {r : Except Flt XRes}
    (h : Translates c0 sel t i s c (r, s')) :
    s.translateTxn t.job c0 sel i = match r with
      | .ok r => s'.finishTxn t.job c i r
      | .error f => s'.faultTxn t.job i c f := by
  obtain ⟨idx, cd, u, rfl, hcd, rfl, hva⟩ | ⟨rfl, hs2, hin, rfl, hipa⟩ := h
  · cases r <;> simp [State.translateTxn, hcd, hva]
  · cases r <;> simp [State.translateTxn, hs2, hin, hipa]

end Sys2Proof.Machine
end

section
/-! PROOF. The faults of a client transaction: their records, and what they make of it (60_exceptions.md R1674, R1680, R1681). -/
namespace Sys2Proof.Machine

/-! ### Event records -/

/-- The event number and the StreamID stand in bits [7:0] and [63:32] of a record, whatever else is in it (30_encoding.md R1080). -/
theorem evBase_fields (num : BitVec 8) (sid : BitVec 32) : fld (evBase num sid) 0 8 = num ∧ fld (evBase num sid) 32 32 = sid := by
  simp [evBase, Laws.fld_or, fld_place_same, fld_place_disjoint]

theorem evBaseSub_fields (num : BitVec 8) (unk : BitVec 512) (c : EvCtx) :
    fld (evBaseSub num unk c) 0 8 = num ∧ fld (evBaseSub num unk c) 32 32 = c.sid := by
  simp [evBaseSub, Laws.fld_or, placeBit_eq_place, fld_place_disjoint, evBase_fields]

/-- What a record has at bit 64 and above does not meet its event number and its StreamID. -/
theorem evRecord_fields (v30 : Bool) (oas : Nat) (reason : BitVec 32) (unk : BitVec 512) (c : EvCtx) (f : Flt)
    (stag : Option (BitVec 16)) :
    fld (evRecord v30 oas reason unk c f stag) 0 8 = f.kind.num ∧ fld (evRecord v30 oas reason unk c f stag) 32 32 = c.sid := by
  cases hk : f.kind <;> cases stag <;>
    simp [evRecord, hk, Laws.fld_or, placeBit_eq_place, fld_place_disjoint, evBase_fields, evBaseSub_fields, evFlags, evInput,
      evFetch, evIpa]

/-- The record of a fault of an ordinary transaction waits, where none is merged into another. -/
theorem recordFault_ordinary {s : State} {t : Txn} (ht : t.Ordinary) (hmerge : s.impl.mergeEvents = false) (i : Attrs) (mev : Bool)
    (f : Flt) (stag : Option (BitVec 16)) :
    ∃ e : PendEv, s.recordFault t.job i mev f stag = { s with eventsNs := s.eventsNs ++ [e], draw := s.draw + 2 } ∧ e.stag = stag ∧
      fld e.ev 0 8 = f.kind.num ∧ fld e.ev 32 32 = t.sid := by
  refine ⟨{ ev := evRecord (!s.v31) s.oas s.impl.eventReason (Config.freeValue (s.draw + 1)) { t.evCtx i with rnw := s.rnwOf t f } f stag
            stag := stag, mev := mev, serial := s.draw }, ?_, rfl, evRecord_fields _ _ _ _ _ _ _⟩
  rw [State.recordFault, ht.not_silent, ht.ns]
  have hmerge' : s.drawn.drawn.impl.mergeEvents = false := hmerge
  simp only [Bool.false_eq_true, if_false, State.recordEvent, hmerge', Bool.false_and]
  rfl

/-! ### The tag of a stall -/

/-- Of more tags than there are uses one is not in use for a stream. -/
theorem exists_unused_tag (l : List StagUse) (sec : Sec) (sid : BitVec 32) (hlen : l.length < 2 ^ 16) :
    ∃ n ∈ List.range (l.length + 1), (l.any fun y => y.names sec sid (BitVec.ofNat 16 n)) = false := by
  by_contra hall
  simp only [not_exists, not_and, Bool.not_eq_false] at hall
  have hnodup : ((List.range (l.length + 1)).map (BitVec.ofNat 16)).Nodup := by
    refine List.Nodup.map_on (fun a ha b hb hab => ?_) List.nodup_range
    have hmod := congrArg BitVec.toNat hab
    simp only [BitVec.toNat_ofNat, List.mem_range] at hmod ha hb
    omega
  have hsub : (List.range (l.length + 1)).map (BitVec.ofNat 16) ⊆ l.map (·.tag) := by
    intro x hx
    obtain ⟨n, hn, rfl⟩ := List.mem_map.1 hx
    obtain ⟨y, hy, hname⟩ := List.any_eq_true.1 (hall n hn)
    simp only [StagUse.names, Bool.and_eq_true, beq_iff_eq] at hname
    exact List.mem_map.2 ⟨y, hy, hname.2⟩
  have hle := (hnodup.subperm hsub).length_le
  simp at hle

/-- The tag of a new stall is not in use for its stream (60_exceptions.md R1681). -/
theorem freshStag_unused (s : State) (sec : Sec) (sid : BitVec 32) (hlen : s.stags.length < 2 ^ 16) :
    ∀ k ∈ s.stags, k.names sec sid (s.freshStag sec sid) = false := by
  obtain ⟨m, hm, hfree⟩ := exists_unused_tag s.stags sec sid hlen
  unfold State.freshStag
  dsimp only
  cases hfind : (List.range (s.stags.length + 1)).find? fun n => !s.stags.any fun y => y.names sec sid (BitVec.ofNat 16 n) with
  | some n => exact fun k hk => by simpa using List.any_eq_false.1 (by simpa using List.find?_some hfind) k hk
  | none => exact absurd (List.find?_eq_none.1 hfind m hm) (by simp [hfree])

/-- While a further transaction can stall fewer tags are in use than there are (11_registers_ns.md R207). -/
theorem stags_length_of_not_full {s : State} (h : s.stallFull = false) : s.stags.length < 2 ^ 16 := by
  simp only [State.stallFull, Bool.or_eq_false_iff, decide_eq_false_iff_not, Nat.not_le] at h
  exact h.2.trans (fld s.idr5 16 16).isLt

/-! ### The outcome of a fault -/

/-- No configuration is taken as a terminating one where the implementation names no device for it (60_exceptions.md R1676). -/
theorem demote_none {s : State} (t : Txn) (h : s.impl.stallDemote = []) (sec : Sec) (r : CfgRegs) : (s.view sec r).demote t = false := by
  have hview : (s.view sec r).impl = s.impl := setIface_impl s sec _
  simp [State.demote, hview, h]

/-- A fault whose outcome the configuration says: the transaction stalls, or it is terminated and recorded or not. -/
theorem faultTxn_ordinary {s : State} {t : Txn} (ht : t.Ordinary) {f : Flt} (htrf : f.kind.isTrf = true) (hfix : f.fixedAbort = false)
    (hdem : s.impl.stallDemote = []) (hfull : s.stallFull = false) (i : Attrs) (c : Ctx) :
    s.faultTxn t.job i c f =
      if (if f.s2 then Ste.s2s c.ste else Cd.s c.cd) then s.stallTxn t.job i (Ste.mev c.ste) f
      else
        let u := s.emit (if f.s2 || Cd.a c.cd then .abort t.id else .razwi t.id)
        if (if f.s2 then Ste.s2r c.ste else Cd.r c.cd) then u.recordFault t.job i (Ste.mev c.ste) f none else u := by
  have hkill : (if (f.s2 || Cd.a c.cd) = true then s.emit (.abort t.id) else s.emit (.razwi t.id)) =
      s.emit (if f.s2 || Cd.a c.cd then .abort t.id else .razwi t.id) := by split <;> rfl
  simp only [State.faultTxn, htrf, hfix, ht.plain, ht.demanded, demote_none t hdem, hfull, ht.abortTxn_eq, hkill]
  simp

/-- The state in which a transaction was stalled with a tag that is not in use, before its record is made. -/
def State.tagged (s : State) (t : Txn) : State :=
  { s with
    stalled := s.stalled ++ [{ txn := t, stag := some (s.freshStag .ns t.sid), parent := none, recorded := false, stale := false,
                               act := none, serial := s.draw }]
    stags := s.stags ++ [{ sec := .ns, sid := t.sid, tag := s.freshStag .ns t.sid, serial := s.draw }] }

/-- A transaction that stalls, is no duplicate and is not being retried early, gets a STAG that is not in use and a stall record. -/
theorem stallTxn_ordinary {s : State} {t : Txn} (ht : t.Ordinary) (hdup : s.impl.suppressDupStall = false)
    (hmerge : s.impl.mergeEvents = false) (i : Attrs) (mev : Bool) (f : Flt) :
    ∃ e : PendEv, s.stallTxn t.job i mev f = { s.tagged t with eventsNs := s.eventsNs ++ [e], draw := s.draw + 2 } ∧
      e.stag = some (s.freshStag .ns t.sid) ∧ fld e.ev 0 8 = f.kind.num ∧ fld e.ev 32 32 = t.sid := by
  have hnew : s.dupStall t = none := by simp [State.dupStall, hdup]
  have heq : s.stallTxn t.job i mev f = (s.tagged t).recordFault t.job i mev f (some (s.freshStag .ns t.sid)) := by
    simp only [State.stallTxn, hnew, ht.ns]
    rfl
  rw [heq]
  exact recordFault_ordinary (s := s.tagged t) ht hmerge i mev f _

/-- A Translation-related fault of a Non-secure transaction has the outcome that CD.A, CD.R and CD.S or STE.S2R and STE.S2S say, and
the counters see the misses. -/
theorem faultTxn_outcome {s : State} {t : Txn} (ht : t.Ordinary) {f : Flt} (htrf : f.kind.isTrf = true) (hfix : f.fixedAbort = false)
    (hdem : s.impl.stallDemote = []) (hdup : s.impl.suppressDupStall = false) (hmerge : s.impl.mergeEvents = false)
    (hfull : s.stallFull = false) (i : Attrs) (c : Ctx) :
    FaultOutcome s (((s.faultTxn t.job i c f).countMisses .ns t.sid).withPast []) t c f := by
  obtain ⟨p, l, d, hcount⟩ := countMisses_only (s.faultTxn t.job i c f) .ns t.sid
  rw [hcount, faultTxn_ordinary ht htrf hfix hdem hfull]
  cases hstall : (if f.s2 then Ste.s2s c.ste else Cd.s c.cd)
  case true =>
    obtain ⟨e, heq, hstag, hnum, hsid⟩ := stallTxn_ordinary ht hdup hmerge i (Ste.mev c.ste) f
    rw [if_pos rfl, heq]
    exact ⟨rfl, fun _ => ⟨rfl, e, _, s.draw, ⟨rfl, hnum, hsid⟩, hstag, freshStag_unused s .ns t.sid (stags_length_of_not_full hfull),
      rfl, rfl⟩, fun h => absurd (hstall.symm.trans h) (by decide)⟩
  case false =>
    rw [if_neg (by decide)]
    dsimp only
    cases hlog : (if f.s2 then Ste.s2r c.ste else Cd.r c.cd)
    case true =>
      obtain ⟨e, heq, hstag, hnum, hsid⟩ := recordFault_ordinary
        (s := s.emit (if f.s2 || Cd.a c.cd then .abort t.id else .razwi t.id)) ht hmerge i (Ste.mev c.ste) f none
      rw [if_pos rfl, heq]
      exact ⟨rfl, fun h => absurd (hstall.symm.trans h) (by decide),
        fun _ => ⟨rfl, rfl, rfl, fun _ => ⟨e, ⟨rfl, hnum, hsid⟩, hstag⟩, fun h => absurd (hlog.symm.trans h) (by decide)⟩⟩
    case false =>
      rw [if_neg (by decide)]
      exact ⟨rfl, fun h => absurd (hstall.symm.trans h) (by decide),
        fun _ => ⟨rfl, rfl, rfl, fun h => absurd (hlog.symm.trans h) (by decide), fun _ => rfl⟩⟩

/-! ### A StreamID outside the Stream table -/

/-- A StreamID that no cached STE serves is looked up in the Stream table alone. -/
theorem cachedSte_miss {s : State} {sec : Sec} {sid : BitVec 32} (h : s.cfgSteHits .ste sec sid = []) :
    cachedSte sec sid s = (.ok none, s) := by
  rw [cachedSte, Tr.bind_ok (x := Tr.asks id) rfl]
  simp only [id, h]
  rfl

/-- One outside the table is C_BAD_STREAMID before anything is read (23_translation.md R813). -/
theorem getSte_outside {s : State} {sec : Sec} {sid : BitVec 32} (hhits : s.cfgSteHits .ste sec sid = [])
    (hout : s.sidInRange sec sid = false) : getSte sec sid s = (.error (Flt.of .badStreamId), s.freshTrail) := by
  have hmiss : cachedSte sec sid s.freshTrail = (.ok none, s.freshTrail) := cachedSte_miss hhits
  have hout' : s.freshTrail.sidInRange sec sid = false := hout
  rw [getSte, Tr.bind_ok (x := Tr.modify State.freshTrail) rfl, Tr.bind_ok hmiss]
  dsimp only
  rw [Tr.bind_ok (x := Tr.asks fun s => s.sidInRange sec sid) rfl]
  exact congrFun (if_pos (by simp [hout'])) s.freshTrail

/-- C_BAD_STREAMID aborts, and is recorded with CR2.RECINVSID in effect and only then (61_event_records.md R1811). -/
theorem refuseTxn_badStreamId {s : State} {t : Txn} (ht : t.Ordinary) (hmerge : s.impl.mergeEvents = false) (i : Attrs) (mev : Bool) :
    (bit s.ns.cr2Eff 1 = false → s.refuseTxn t.job i mev (Flt.of .badStreamId) = s.emit (.abort t.id)) ∧
    (bit s.ns.cr2Eff 1 = true → ∃ e : PendEv, s.refuseTxn t.job i mev (Flt.of .badStreamId) =
      { s.emit (.abort t.id) with eventsNs := s.eventsNs ++ [e], draw := s.draw + 2 } ∧ e.stag = none ∧ fld e.ev 0 8 = 0x02 ∧
        fld e.ev 32 32 = t.sid) := by
  have heq : s.refuseTxn t.job i mev (Flt.of .badStreamId) =
      if bit s.ns.cr2Eff 1 = false then s.emit (.abort t.id)
      else (s.emit (.abort t.id)).recordFault t.job i mev (Flt.of .badStreamId) none := by
    simp [State.refuseTxn, ht.abortTxn_eq, ht.ns, Flt.of]
  constructor <;> intro h <;> rw [heq, h]
  · exact if_pos rfl
  · exact recordFault_ordinary (s := s.emit (.abort t.id)) ht hmerge i mev (Flt.of .badStreamId) none

/-- The lookup of such a StreamID is refused (23_translation.md R830). -/
theorem lookupTxn_outside {s : State} {t : Txn} (ht : t.Ordinary) (hhits : s.cfgSteHits .ste .ns t.sid = [])
    (hout : s.sidInRange .ns t.sid = false) (i : Attrs) :
    s.lookupTxn t.job i = s.freshTrail.refuseTxn t.job i false (Flt.of .badStreamId) := by
  simp only [State.lookupTxn, ht.ns, getSte_outside hhits hout]

/-- Settles O48: the lookup of the STE fails at once, and the fault is refused; the counters and the trail of the operation are all
else that changes. -/
theorem badStreamIsAborted : Obligations.BadStreamIsAborted := by
  intro s n t rest h hoff hsfm hn hns hplain huntr huut hspec hmerge hen hout hhits
  have ht : t.Ordinary := ⟨hns, hplain, huntr, hspec⟩
  obtain ⟨p, l, d, hcount⟩ := countMisses_only
    ((s.txnBegun rest n t).freshTrail.refuseTxn t.job (t.inAttrs s.impl) false (Flt.of .badStreamId)) .ns t.sid
  obtain ⟨hquiet, hrec⟩ := refuseTxn_badStreamId (s := (s.txnBegun rest n t).freshTrail) ht hmerge (t.inAttrs s.impl) false
  rw [step_process_enabled ht h hoff hn hsfm huut hen, lookupTxn_outside (s := s.txnBegun rest n t) ht hhits hout, hcount]
  refine ⟨_, rfl, ?_⟩
  cases hr : bit s.ns.cr2Eff 1
  case false =>
    rw [hquiet hr]
    simp [State.withPast, State.emit, State.freshTrail, State.txnBegun]
  case true =>
    obtain ⟨e, heq, hfields⟩ := hrec hr
    rw [heq]
    simpa [State.withPast, State.emit, State.freshTrail, State.txnBegun] using hfields

end Sys2Proof.Machine
end

section
/-! PROOF. The outcome of a client transaction, put together (23_translation.md R830). -/
namespace Sys2Proof.Machine

section
variable {s : State} {n : Nat} {t : Txn} {rest : List Stimulus} (ht : t.Ordinary) (h : s.agenda = .process n :: rest)
  (hoff : s.off = false) (hn : s.inFlight[n]? = some { txn := t, stage := .accepted }) (hsfm : s.sfm = false) (huut : s.uut t = false)
include ht h hoff hn hsfm huut

/-- With SMMUEN == 0 a transaction is aborted, or ready with its own address and its attributes as GBPA overrides them. -/
theorem step_process_bypass (hen : s.smmuen .ns = false) :
    step s = .next ((if bit s.ns.gbpaEff 20 || addrOutside t.addr s.oas then (s.txnBegun rest n t).emit (.abort t.id)
      else (s.txnBegun rest n t).readied t t.addr (s.override (gbpaOverrides s.ns.gbpaEff) t (t.inAttrs s.impl)) [] []).withPast []) := by
  rw [step_process_disabled ht h hoff hn hsfm huut hen, bypassTxn_ordinary ht ((txnBegun_uut s rest n t).trans huut)]
  rfl

variable (hen : s.smmuen .ns = true) {ste : StructWord} {regs : CfgRegs} {sel : CdSel} {s1 s2 : State}
  (hste : getSte .ns t.sid (s.txnBegun rest n t) = (.ok (ste, regs), s1)) (hsel : cdSelect ste t.ssv t.ssid s1 = (.ok sel, s2))
  (hon : Ste.enabled ste = true)
include hen hste hsel hon

/-- An STE that bypasses both stages. -/
theorem step_process_noStages (hs1 : Ste.cfgS1 ste = false) (hs2 : Ste.cfgS2 ste = false) (hin : addrOutside t.addr s2.oas = false)
    (hconf : s2.trail.conflict = none) (huut2 : s2.uut t = false) :
    step s = .next (((s2.readied t (truncTo t.addr s2.oas) (s2.override (Ste.overrides ste) t (t.inAttrs s.impl)) s2.trail.cfg
      s2.trail.tlb).countMisses .ns t.sid).withPast []) := by
  rw [step_process_enabled ht h hoff hn hsfm huut hen, lookupTxn_found ht _ hste hsel hon (.inr (.inr hin)), cdSelect_noS1 hs1 hsel,
    translateTxn_bypass ht huut2 hconf _ _ hs2]

variable (hstage : Ste.cfgS1 ste = true ∨ Ste.cfgS2 ste = true) {s3 : State} {c : Ctx}
include hstage

/-- A translation that succeeds. -/
theorem step_process_translated {r : XRes}
    (hr : Translates (s2.ctx .ns t.sid ste regs) sel t (s2.override (Ste.overrides ste) t (t.inAttrs s.impl)) s2 c (.ok r, s3))
    (hconf : s3.trail.conflict = none) (huut3 : s3.uut t = false) :
    step s = .next (((s3.readied t r.pa (s3.xlatAttrs c r (s2.override (Ste.overrides ste) t (t.inAttrs s.impl))) s3.trail.cfg
      (s3.usedTlb c r)).countMisses .ns t.sid).withPast []) := by
  rw [step_process_enabled ht h hoff hn hsfm huut hen, lookupTxn_found ht _ hste hsel hon (hstage.imp_right .inl),
    translateTxn_of_translates hr]
  dsimp only
  rw [finishTxn_ordinary ht huut3 hconf]

/-- A translation that faults. -/
theorem step_process_faulted {f : Flt}
    (hf : Translates (s2.ctx .ns t.sid ste regs) sel t (s2.override (Ste.overrides ste) t (t.inAttrs s.impl)) s2 c (.error f, s3)) :
    step s =
      .next (((s3.faultTxn t.job (s2.override (Ste.overrides ste) t (t.inAttrs s.impl)) c f).countMisses .ns t.sid).withPast []) := by
  rw [step_process_enabled ht h hoff hn hsfm huut hen, lookupTxn_found ht _ hste hsel hon (hstage.imp_right .inl),
    translateTxn_of_translates hf]

end

/-- Nothing but the counters changes when a transaction that is ready goes downstream. -/
theorem step_release_effect {s : State} {n : Nat} {t : Txn} {w : Fwd} {cfg : List CfgEnt} {tlb : List TlbEnt} {rest : List Stimulus}
    (hoff : s.off = false) (hsfm : s.sfm = false) (h : s.agenda = .release n :: rest)
    (hn : s.inFlight[n]? = some { txn := t, stage := .ready w cfg tlb }) :
    ∃ u, step s = .next u ∧ u.out = s.out ++ [.forward t.id w.sec w.sid w.cls w.rw t.size w.pa w.attrs] ∧
      u = { s with agenda := rest, inFlight := s.inFlight.set n { txn := t, stage := .issued w cfg tlb }, out := u.out,
                   pmcgs := u.pmcgs, irqs := u.irqs, draw := u.draw, trail := { s.trail with past := [] } } := by
  refine ⟨_, step_release h hoff hn hsfm, ?_⟩
  rw [State.doFor]
  generalize hissued : State.withPast { s with agenda := rest, inFlight := s.inFlight.set n { txn := t, stage := .issued w cfg tlb } } _ = g
  obtain ⟨p, l, d, hcount⟩ := passed_counts g t w
  rw [hcount, ← hissued]
  simp [State.withPast, State.emit]

/-- What memory answers to an ordinary access is relayed. -/
theorem step_respond_plain {s : State} {n : Nat} {t : Txn} {w : Fwd} {cfg : List CfgEnt} {tlb : List TlbEnt} {rest : List Stimulus}
    (hoff : s.off = false) (h : s.agenda = .respond n .ok :: rest)
    (hn : s.inFlight[n]? = some { txn := t, stage := .issued w cfg tlb }) (ht : t.cls = .plain) (hw : w.cls = .plain) :
    let g : State := { s with agenda := rest, inFlight := s.inFlight.eraseIdx n }
    (w.rw = .read → step s = .next { g with out := s.out ++ [.response t.id false (s.load w.attrs.ns w.pa t.size)] }) ∧
    (w.rw = .write →
      step s = .next { g.agentStore w.attrs.ns w.pa (t.data.take t.size) with out := s.out ++ [.response t.id false []] }) := by
  intro g
  have hload : g.load w.attrs.ns w.pa t.size = s.load w.attrs.ns w.pa t.size := load_of_byte (s := s) (t := g) (fun _ _ => rfl) _ _ _
  have hstep : step s = .next (g.perform t w) := step_respond h hoff hn
  rw [hstep, perform_plain ht hw, hload]
  constructor <;> intro hrw <;> rw [hrw] <;> rfl

/-- Settles O47: a transaction is accepted; it is taken through bypass or the lookups, and what ends its translation, a result or a
fault, decides its outcome; one that is ready goes downstream, and its answer is relayed. -/
theorem transactionOutcome : Obligations.TransactionOutcome := by
  refine ⟨fun s t rest h hoff hsec hats => step_transaction h hoff hsec hats, fun s n t rest h hoff hn => ?_,
    fun s n t w cfg tlb rest hoff hsfm => ⟨fun h hn => step_release_effect hoff hsfm h hn, fun h hn ht hw =>
      step_respond_plain hoff h hn ht hw⟩⟩
  intro gone g ready
  refine ⟨fun hsfm hcls => step_process_sfm h hoff hn hsfm hcls, fun hsfm hns hplain huntr hspec huut => ?_⟩
  have ht : t.Ordinary := ⟨hns, hplain, huntr, hspec⟩
  refine ⟨fun hdis => ?_, fun hen ste regs sel s1 s2 hste hsel hon => ?_⟩
  · have hstep := step_process_bypass ht h hoff hn hsfm huut hdis
    refine ⟨fun hbad => ?_, fun hgo hin => ?_⟩
    · rw [if_pos (by simpa using hbad)] at hstep
      exact hstep
    · rw [if_neg (by simp [hgo, hin])] at hstep
      exact hstep
  · refine ⟨fun hs1 hs2 hin hconf huut2 => step_process_noStages ht h hoff hn hsfm huut hen hste hsel hon hs1 hs2 hin hconf huut2,
      fun hstage s3 c => ⟨fun r hr hconf huut3 =>
        step_process_translated ht h hoff hn hsfm huut hen hste hsel hon hstage hr hconf huut3,
      fun f hf htrf hfix hdem hdup hmerge hfull => ?_⟩⟩
    exact ⟨_, step_process_faulted ht h hoff hn hsfm huut hen hste hsel hon hstage hf,
      faultTxn_outcome ht htrf hfix hdem hdup hmerge hfull _ c⟩

end Sys2Proof.Machine
end

section
/-! PROOF. An ATS Translation Request with SMMUEN == 0 (26_ats.md R905, 61_event_records.md R1814). -/
namespace Sys2Proof.Machine

/-- What F_BAD_ATS_TREQ has at bit 64 and above does not meet its event number and its StreamID. -/
theorem evBadAtsTreq_fields (unk : BitVec 512) (c : EvCtx) (rd wr ex priv : Bool) (span : BitVec 4) :
    fld (evBadAtsTreq unk c rd wr ex priv span) 0 8 = 0x05 ∧ fld (evBadAtsTreq unk c rd wr ex priv span) 32 32 = c.sid := by
  simp [evBadAtsTreq, Laws.fld_or, placeBit_eq_place, fld_place_disjoint, evBaseSub_fields, evInput, FKind.num]

/-- A Non-secure request that is refused is answered UR and its record waits, where none is merged into another; the free value of the
record is all else that is used. -/
theorem atsRefused_effect {s : State} {r : AtsReq} (hns : r.sec = .ns) (hmerge : s.impl.mergeEvents = false) (mev : Bool) :
    ∃ e : PendEv, s.atsRefused r mev =
        { s with out := s.out ++ [.atsResponse r.id .ur], eventsNs := s.eventsNs ++ [e], draw := s.draw + 1 } ∧
      e.stag = none ∧ fld e.ev 0 8 = 0x05 ∧ fld e.ev 32 32 = r.sid := by
  have hmerge' : (s.drawn.atsAnswer r .ur).impl.mergeEvents = false := hmerge
  simp only [State.atsRefused, State.recordEvent, hmerge', hns, Bool.false_and, Bool.false_eq_true, if_false]
  exact ⟨_, rfl, rfl, evBadAtsTreq_fields _ _ _ _ _ _ _⟩

/-- With SMMUEN == 0 a Non-secure request is refused before any lookup; the counters may have seen it (51_pmcg.md R1404). -/
theorem atsRequest_disabled {s : State} {r : AtsReq} (hats : s.ats = true) (hsfm : s.sfm = false) (hns : r.sec = .ns)
    (hen : s.smmuen .ns = false) : ∃ u, CountsOnly s u ∧ s.atsRequest r = u.atsRefused r false := by
  have hreq : { r with sec := if s.secureImpl then r.sec else .ns } = r := by
    rw [← hns, ite_self]
  have hcount : CountsOnly s ((s.pmu 1 (some (r.sec, r.sid))).pmu 6 (some (r.sec, r.sid))) :=
    (pmu_only s 1 _).trans (pmu_only _ 6 _)
  refine ⟨_, hcount, ?_⟩
  rw [State.atsRequest, hreq]
  simp only [hats]
  generalize (s.pmu 1 (some (r.sec, r.sid))).pmu 6 (some (r.sec, r.sid)) = u at hcount ⊢
  have hkept : u.sfm = false ∧ u.smmuen .ns = false := by
    obtain ⟨_, _, _, rfl⟩ := hcount
    exact ⟨hsfm, hen⟩
  simp [hkept]

/-- Settles O49: the request is counted at most, and then refused. -/
theorem translationRequestRefused : Obligations.TranslationRequestRefused := by
  intro s r rest h hoff hsfm hats hmerge hns hen
  obtain ⟨u, ⟨p, l, d, rfl⟩, hreq⟩ := atsRequest_disabled (s := { s with agenda := rest }) hats hsfm hns hen
  obtain ⟨e, hrefused, hstag, hnum, hsid⟩ :=
    atsRefused_effect (s := { s with agenda := rest, pmcgs := p, irqs := s.irqs ++ l, draw := d }) hns hmerge false
  have hstep : step s = .next _ := (step_of_agenda h hoff).trans (congrArg Host.Outcome.next (hreq.trans hrefused))
  exact ⟨_, e, hstep, List.mem_append_right s.out (.head _), rfl, hstag, hnum, hsid, rfl, rfl, rfl, rfl, rfl, rfl⟩

end Sys2Proof.Machine
end

section
/-! PROOF. The encoding of the commands: `encode` and `decode` undo each other (30_encoding.md R1050, R1054). -/
namespace Sys2Proof.Machine
open Sys2Proof.Laws

/-! ### Fields of a word and masks -/

theorem fld_and {w : Nat} (x y : BitVec w) (lo n : Nat) : fld (x &&& y) lo n = fld x lo n &&& fld y lo n := by
  apply BitVec.eq_of_getLsbD_eq
  intro i hi
  simp [fld, hi]

/-- A single bit is a field of one bit. -/
theorem bit_eq_fld {w : Nat} (x : BitVec w) (p : Nat) : bit x p = (fld x p 1).getLsbD 0 := by simp [fld, bit]

theorem fld_one {w : Nat} (x : BitVec w) (p : Nat) : fld x p 1 = BitVec.ofBool (bit x p) := by
  apply BitVec.eq_of_getLsbD_eq
  intro i hi
  simp [fld, bit, show i = 0 by omega]

/-- A field that does not meet a mask. -/
theorem fld_maskOf_disjoint (lo n p k : Nat) (h : p + k ≤ lo ∨ lo + n ≤ p) : fld (maskOf 128 lo n) p k = 0 :=
  fld_place_disjoint _ _ _ _ h

/-- A field of a word, back in its place. -/
theorem place_fld {w : Nat} (x : BitVec w) (lo n : Nat) : place w (fld x lo n) lo = x &&& maskOf w lo n := by
  apply BitVec.eq_of_getLsbD_eq
  intro i hi
  by_cases hlt : i < lo
  · simp [place, maskOf, hlt]
  · by_cases hge : i - lo < n
    · simp [place, maskOf, fld, hi, hlt, hge, show lo + (i - lo) = i by omega]
    · simp [place, maskOf, fld, hi, hlt, hge]

theorem placeBit_bit {w : Nat} (x : BitVec w) (p : Nat) : placeBit w (bit x p) p = x &&& maskOf w p 1 := by
  rw [← place_fld, fld_one, placeBit_eq_place]

/-- A field whose value is known, back in its place. -/
theorem place_known {w : CmdWord} {lo k n : Nat} (h : (fld w lo k).toNat = n) :
    place 128 (BitVec.ofNat k n) lo = w &&& maskOf 128 lo k := by
  rw [← h, BitVec.ofNat_toNat, BitVec.setWidth_eq, place_fld]

/-- A value placed outside a mask. -/
theorem place_and_of_disjoint {w n : Nat} {m : BitVec w} (v : BitVec n) (lo : Nat) (hm : fld m lo n = 0) : place w v lo &&& m = 0 := by
  apply BitVec.eq_of_getLsbD_eq
  intro i hi
  have hmi := congrArg (fun x => x.getLsbD (i - lo)) hm
  simp only [fld, BitVec.getLsbD_extractLsb', BitVec.ofNat_eq_ofNat, BitVec.getLsbD_zero] at hmi
  simp only [place, BitVec.getLsbD_and, BitVec.getLsbD_shiftLeft, BitVec.getLsbD_setWidth, BitVec.ofNat_eq_ofNat, BitVec.getLsbD_zero]
  by_cases hlt : i < lo
  · simp [hlt]
  · by_cases hge : i - lo < n
    · rw [show lo + (i - lo) = i by omega] at hmi
      simp_all
    · simp [BitVec.getLsbD_of_ge v (i - lo) (by omega)]

/-! ### RES0 bits -/

section
variable {w : Nat} {r m : BitVec w} (h : r &&& ~~~m = 0)
include h

/-- A residue lies in its mask. -/
theorem and_of_residue : r &&& m = r := by
  calc r &&& m = (r &&& m) ||| (r &&& ~~~m) := by rw [h]; simp
    _ = r := by rw [← BitVec.and_or_distrib_left, BitVec.or_not_self, BitVec.and_allOnes]

/-- A field that does not meet the mask of a residue is 0 in it. -/
theorem fld_of_residue (lo n : Nat) (hm : fld m lo n = 0) : fld r lo n = 0 := by
  rw [← and_of_residue h, fld_and, hm]
  simp

end

/-! ### Well-formed commands -/

theorem residue_of_wf {i : Instr} (h : WellFormed i) : residue i &&& ~~~(res0Mask i) = 0 := by
  simp only [WellFormed, Instr.wf, Bool.and_eq_true, beq_iff_eq] at h
  exact h.1

theorem range_of_wf {ssec : Bool} {sid : BitVec 32} {range : BitVec 5} {res : CmdWord} (h : WellFormed (.cfgiSteRange ssec sid range res)) :
    range ≠ 31#5 := by
  simp only [WellFormed, Instr.wf, Bool.and_eq_true, bne_iff_ne] at h
  exact h.2

theorem wf_reserved_iff (w : CmdWord) : WellFormed (.reserved w) ↔ isReservedOpcode (fld w 0 8) = true := by
  simp [WellFormed, Instr.wf, residue]

theorem wf_impdef_iff (w : CmdWord) : WellFormed (.impdef w) ↔ isImpdefOpcode (fld w 0 8) = true := by
  simp [WellFormed, Instr.wf, residue]

theorem opcode_of_wf {i : Instr} (h : WellFormed i) : fld (encode i) 0 8 = Opcode.value i := by
  cases i with
  | prefetchConfig => exact Opcode.prefetchConfig _ _ _ _ _ h
  | prefetchAddr => exact Opcode.prefetchAddr _ _ _ _ _ _ _ _ h
  | cfgiSte => exact Opcode.cfgiSte _ _ _ _ h
  | cfgiSteRange => exact Opcode.cfgiSteRange _ _ _ _ h
  | cfgiAll => exact Opcode.cfgiAll _ _ _ h
  | cfgiCd => exact Opcode.cfgiCd _ _ _ _ _ h
  | cfgiCdAll => exact Opcode.cfgiCdAll _ _ _ h
  | tlbiNhAll => exact Opcode.tlbiNhAll _ _ h
  | tlbiNhAsid => exact Opcode.tlbiNhAsid _ _ _ h
  | tlbiNhVa => exact Opcode.tlbiNhVa _ _ _ _ _ h
  | tlbiNhVaa => exact Opcode.tlbiNhVaa _ _ _ _ h
  | tlbiEl3All => exact Opcode.tlbiEl3All _ h
  | tlbiEl3Va => exact Opcode.tlbiEl3Va _ _ _ h
  | tlbiEl2All => exact Opcode.tlbiEl2All _ h
  | tlbiEl2Asid => exact Opcode.tlbiEl2Asid _ _ h
  | tlbiEl2Va => exact Opcode.tlbiEl2Va _ _ _ _ h
  | tlbiEl2Vaa => exact Opcode.tlbiEl2Vaa _ _ _ h
  | tlbiS12Vmall => exact Opcode.tlbiS12Vmall _ _ h
  | tlbiS2Ipa => exact Opcode.tlbiS2Ipa _ _ _ _ h
  | tlbiNsnhAll => exact Opcode.tlbiNsnhAll _ h
  | atcInv => exact Opcode.atcInv _ _ _ _ _ _ _ h
  | priResp => exact Opcode.priResp _ _ _ _ _ _ h
  | resume => exact Opcode.resume _ _ _ _ _ _ h
  | stallTerm => exact Opcode.stallTerm _ _ _ h
  | sync => exact Opcode.sync _ _ _ _ _ _ h
  | reserved w => exact Opcode.reserved w h
  | impdef w => exact Opcode.impdef w h

/-! ### Decoding -/

/-- An entry with an opcode of no architected command (30_encoding.md R1057, R1058). -/
theorem decode_unarchitected {w : CmdWord} (h : architectedOpcodes.contains (fld w 0 8).toNat = false) :
    decode w = if isImpdefOpcode (fld w 0 8) then .impdef w else .reserved w := by
  unfold decode
  split
  case h_25 => rfl
  all_goals
    next hop =>
    rw [hop] at h
    exact absurd h (by decide)

theorem decode_of_impdef {w : CmdWord} (h : isImpdefOpcode (fld w 0 8) = true) : decode w = .impdef w := by
  have hrange : 0x80 ≤ (fld w 0 8).toNat ∧ (fld w 0 8).toNat ≤ 0x8F := by simpa [isImpdefOpcode] using h
  refine (decode_unarchitected ?_).trans (if_pos h)
  simp only [architectedOpcodes, List.contains_eq_mem, decide_eq_false_iff_not, List.mem_cons, List.not_mem_nil, or_false]
  omega

theorem decode_of_reserved {w : CmdWord} (h : isReservedOpcode (fld w 0 8) = true) : decode w = .reserved w := by
  simp only [isReservedOpcode, Bool.and_eq_true, Bool.not_eq_true'] at h
  obtain ⟨harch, himp⟩ := h
  exact (decode_unarchitected harch).trans (if_neg (Bool.eq_false_iff.1 himp))

/-- Each field of the encoding is read where it was placed, and the bits of the RES0 mask are the residue. -/
theorem decode_encode {i : Instr} (h : WellFormed i) : decode (encode i) = i := by
  have hop := opcode_of_wf h
  have hand := and_of_residue (residue_of_wf h)
  have hfld := fld_of_residue (residue_of_wf h)
  cases i with
  | cfgiSteRange ssec sid range res =>
    simp only [residue, res0Mask] at hfld hand
    simp only [decode, hop, Opcode.value]
    simp [encode, res0Mask, fld_or, bit_eq_fld, placeBit_eq_place, fld_place_same, fld_place_disjoint, hfld, fld_maskOf_disjoint,
      BitVec.and_or_distrib_right, place_and_of_disjoint, hand, range_of_wf h]
  | reserved w => exact decode_of_reserved ((wf_reserved_iff w).1 h)
  | impdef w => exact decode_of_impdef ((wf_impdef_iff w).1 h)
  | _ =>
    simp only [residue, res0Mask] at hfld hand
    simp only [decode, hop, Opcode.value]
    simp [encode, res0Mask, fld_or, bit_eq_fld, placeBit_eq_place, fld_place_same, fld_place_disjoint, hfld, fld_maskOf_disjoint,
      BitVec.and_or_distrib_right, place_and_of_disjoint, hand]

/-- Settles O1. -/
theorem decodeOfEncode : Obligations.DecodeOfEncode := fun _ => decode_encode

/-! ### Every entry is the encoding of a command -/

/-- The fields of a row and its RES0 bits together are all the bits of the word. -/
theorem encode_decode (w : CmdWord) : encode (decode w) = w := by
  have hall : w &&& BitVec.allOnes 128 = w := BitVec.and_allOnes
  unfold decode
  split
  case h_25 => split <;> rfl
  case h_4 hop =>
    split
    case isTrue hrange =>
      have hrange : (fld w 64 5).toNat = 31 := congrArg BitVec.toNat hrange
      simp only [encode, place_known hop, place_known hrange, place_fld, placeBit_bit, ← BitVec.and_or_distrib_left, res0Mask]
      exact hall
    case isFalse =>
      simp only [encode, place_known hop, place_fld, placeBit_bit, ← BitVec.and_or_distrib_left, res0Mask]
      exact hall
  all_goals
    next hop =>
    simp only [encode, place_known hop, place_fld, placeBit_bit, ← BitVec.and_or_distrib_left, res0Mask]
    exact hall

/-- The RES0 bits are cut out of the word by their mask; the opcode is that of the row. -/
theorem wf_decode (w : CmdWord) : WellFormed (decode w) := by
  have hres (m : CmdWord) : (w &&& m &&& ~~~m == 0) = true := by simp [BitVec.and_assoc]
  by_cases harch : architectedOpcodes.contains (fld w 0 8).toNat = true
  · unfold decode
    split
    case h_25 =>
      simp only [architectedOpcodes, List.contains_eq_mem, List.mem_cons, List.not_mem_nil, or_false, decide_eq_true_eq] at harch
      simp_all
    case h_4 =>
      split
      case isTrue => exact Bool.and_eq_true_iff.2 ⟨hres _, rfl⟩
      case isFalse hrange => exact Bool.and_eq_true_iff.2 ⟨hres _, bne_iff_ne.2 hrange⟩
    all_goals exact Bool.and_eq_true_iff.2 ⟨hres _, rfl⟩
  · have harch := Bool.eq_false_iff.2 harch
    rw [decode_unarchitected harch]
    split
    case isTrue himp => exact (wf_impdef_iff w).2 himp
    case isFalse himp => exact (wf_reserved_iff w).2 (by simp only [isReservedOpcode, harch, himp]; rfl)

/-- Settles O2. -/
theorem encodeOfDecode : Obligations.EncodeOfDecode := fun w => ⟨wf_decode w, encode_decode w⟩

/-! ### Bytes -/

theorem decodeBytes_append {bs : List Byte} (h : bs.length = 16) (rest : List Byte) :
    decodeBytes (bs ++ rest) = .ok (decode (BitVec.ofNat 128 (leNat bs)), rest) := by
  have hlen : ¬ (bs ++ rest).length < 16 := by simp [h]
  rw [decodeBytes, if_neg hlen, List.take_left' h, List.drop_left' h]

/-- The number of the 16 bytes of a command is its word. -/
theorem leNat_encodeBytes (i : Instr) : BitVec.ofNat 128 (leNat (encodeBytes i)) = encode i := by
  have hlt : (encode i).toNat < 256 ^ 16 := (encode i).isLt
  rw [encodeBytes, leNat_leBytes, Nat.mod_eq_of_lt hlt, BitVec.ofNat_toNat, BitVec.setWidth_eq]

/-- Settles O3. -/
theorem decodeOfCommandBytes : Obligations.DecodeOfCommandBytes := by
  refine ⟨fun i rest h => ?_, fun bs hlen => if_pos hlen⟩
  have hlen : (encodeBytes i).length = 16 := leBytes_length _ _
  exact ⟨hlen, by rw [decodeBytes_append hlen, leNat_encodeBytes, decode_encode h]⟩

/-! ### Opcodes of no architected command -/

/-- What an entry decodes to is well formed, and so its opcode is of the class of the command. -/
theorem decode_eq_impdef_iff (w : CmdWord) : decode w = .impdef w ↔ isImpdefOpcode (fld w 0 8) = true :=
  ⟨fun h => (wf_impdef_iff w).1 (h ▸ wf_decode w), decode_of_impdef⟩

theorem decode_eq_reserved_iff (w : CmdWord) : decode w = .reserved w ↔ isReservedOpcode (fld w 0 8) = true :=
  ⟨fun h => (wf_reserved_iff w).1 (h ▸ wf_decode w), decode_of_reserved⟩

/-- The Reserved opcodes, by the ranges that the table leaves (30_encoding.md R1057). -/
theorem isReservedOpcode_iff (op : BitVec 8) :
    isReservedOpcode op = true ↔
      (let n := op.toNat
       n = 0 ∨ (0x07 ≤ n ∧ n ≤ 0x0F) ∨ (0x14 ≤ n ∧ n ≤ 0x17) ∨ n = 0x19 ∨ (0x1B ≤ n ∧ n ≤ 0x1F) ∨ (0x24 ≤ n ∧ n ≤ 0x27) ∨
         n = 0x29 ∨ (0x2B ≤ n ∧ n ≤ 0x2F) ∨ (0x31 ≤ n ∧ n ≤ 0x3F) ∨ n = 0x42 ∨ n = 0x43 ∨ (0x47 ≤ n ∧ n ≤ 0x7F) ∨ 0x90 ≤ n) := by
  simp [isReservedOpcode, isImpdefOpcode, architectedOpcodes]
  omega

theorem illegal_of_ill {i : Instr} {s : State} (h : exec i s = ill s) : Illegal i s := by
  rw [Illegal, h]
  exact ill_effect s

/-- Settles O5. -/
theorem implementationDefinedOpcodes : Obligations.ImplementationDefinedOpcodes := by
  refine ⟨fun w => ?_, fun s w h => ?_, fun s w h => ?_, rfl⟩
  · rw [decode_eq_impdef_iff]
    simp [isImpdefOpcode]
  · exact illegal_of_ill (if_neg (by simpa using h))
  · exact if_pos (by simpa using h)

/-- Settles O6. -/
theorem reservedOpcodes : Obligations.ReservedOpcodes :=
  ⟨fun w => ((decode_eq_reserved_iff w).trans (isReservedOpcode_iff _)).symm, fun s _ => ill_effect s⟩

end Sys2Proof.Machine
end

section
/-! PROOF. Taking a command from its queue (30_encoding.md R1061, R1062), and what stops and restarts the queue. -/
namespace Sys2Proof.Machine

/-! ### Reading the command at an index -/

theorem decode_of_decodeBytes {bs : List Byte} {i : Instr} (hlen : bs.length = 16) (h : decodeBytes bs = .ok (i, [])) :
    decode (BitVec.ofNat 128 (leNat bs)) = i := by
  have happend := decodeBytes_append hlen []
  rw [List.append_nil, h] at happend
  injection happend with hpair
  injection hpair with hi
  exact hi.symm

section
variable {s u : State} {q : Sec} {idx : Nat}

theorem fetchRun_of_read {v : Nat} (h : s.busRead q .cmdq q.isNs (s.cmdAddr q idx) 16 ((s.iface q).queueAttrs (s.iface q).cmdqBase) = (some v, u)) :
    s.fetchRun q idx = exec (decode (BitVec.ofNat 128 v)) { u with curQ := q } := by
  simp only [State.fetchRun, h]
  rfl

theorem fetchRun_of_abort (h : s.busRead q .cmdq q.isNs (s.cmdAddr q idx) 16 ((s.iface q).queueAttrs (s.iface q).cmdqBase) = (none, u)) :
    s.fetchRun q idx = .next ({ u with curQ := q }.cmdError .abt) := by
  simp only [State.fetchRun, h]

end

/-! ### The command at RD -/

/-- No copy of the command was read ahead, and so it is read. -/
theorem runCmdq_fetches {s : State} {q : Sec} (h : s.fetches q) : s.runCmdq q = s.fetchRun q (s.cmdIndex q) := by
  obtain ⟨hready, -, hcons, hcopies⟩ := h
  have hfind : (s.cmdCache.find? fun x => x.1 == q && x.2.1 == qPos (s.iface q).cmdqCons (s.cmdqs q)) = none := by
    refine List.find?_eq_none.2 fun x hx => ?_
    simpa using hcopies x hx
  simp only [State.runCmdq, hready, hcons, State.runHead, hfind]
  rfl

/-- The 16 bytes at RD are read, and the command they decode to is executed. -/
theorem runCmdq_executes {s : State} {q : Sec} {i : Instr} (h : s.fetches q) (hok : s.aborts .cmdq q.isNs (s.headAddr q) 16 = false)
    (hmem : s.pcieSpace q.isNs (s.headAddr q) 16 = false) (hdec : decodeBytes (s.load q.isNs (s.headAddr q) 16) = .ok (i, [])) :
    s.runCmdq q = exec i (s.fetched q) := by
  obtain ⟨-, halone, -, -⟩ := id h
  rw [runCmdq_fetches h, fetchRun_of_read (busRead_ok s q .cmdq q.isNs (s.headAddr q) 16 _ halone hok hmem),
    decode_of_decodeBytes (load_length _ _ _ _) hdec]
  rfl

/-- A command that was read ahead is executed from its copy (20_memory.md R464). -/
theorem runCmdq_copy {s : State} {q : Sec} {w : CmdWord} (hready : s.cmdqReady q = true)
    (hcons : qInconsistent (s.iface q).cmdqProd (s.iface q).cmdqCons (s.cmdqs q) = false)
    (hcopy : s.cmdCache = [(q, qPos (s.iface q).cmdqCons (s.cmdqs q), w)]) :
    s.runCmdq q = exec (decode w) { s with curQ := q } := by
  have hfind : (s.cmdCache.find? fun x => x.1 == q && x.2.1 == qPos (s.iface q).cmdqCons (s.cmdqs q)) =
      some (q, qPos (s.iface q).cmdqCons (s.cmdqs q), w) := by simp [hcopy]
  simp only [State.runCmdq, hready, hcons, State.runHead, hfind]
  rfl

/-- A queue that is not processed executes nothing. -/
theorem runCmdq_stopped {s : State} {q : Sec} (h : s.cmdqReady q = false) : s.runCmdq q = .next s := by
  simp only [State.runCmdq, h]
  rfl

/-- Settles O8. -/
theorem turnRunsDecodedCommand : Obligations.TurnRunsDecodedCommand := by
  intro s q rest h hoff
  have hstep : step s = ({ s with agenda := rest } : State).runCmdq q := step_of_agenda h hoff
  refine ⟨fun i hf hok hmem hdec _ => hstep.trans ?_, fun w hready hcons hcopy => hstep.trans ?_⟩
  · exact runCmdq_executes (s := { s with agenda := rest }) hf hok hmem hdec
  · exact runCmdq_copy (s := { s with agenda := rest }) hready hcons hcopy

/-! ### The turn of a queue -/

/-- The work whose turn it is comes first. -/
theorem auto_of_chore {s : State} {o : Out} (hoff : s.off = false) (h : State.chore { s with turn := s.turn.next } s.turn = some o) :
    s.auto = o := by
  have horder : ∃ l, chores.dropWhile (fun c => c != s.turn) ++ chores.takeWhile (fun c => c != s.turn) = s.turn :: l := by
    cases s.turn <;> exact ⟨_, rfl⟩
  obtain ⟨l, hl⟩ := horder
  refine (if_neg (Bool.eq_false_iff.1 hoff)).trans ?_
  simp only [hl, List.findSome?_cons, h]
  rfl

theorem chore_queueTurn {s : State} {q : Sec} (h : s.cmdqReady q = true) : s.chore (queueTurn q) = some (s.runCmdq q) := by
  cases q <;> exact if_pos h

/-- Settles O7. -/
theorem stepRunsDecodedCommand : Obligations.StepRunsDecodedCommand := by
  intro s q i hagenda hoff hturn hf hok hmem hdec _
  obtain ⟨hready, -, -, -⟩ := id hf
  have hchore : State.chore { s with turn := s.turn.next } s.turn = some (exec i ({ s with turn := (queueTurn q).next }.fetched q)) := by
    rw [hturn, chore_queueTurn (s := { s with turn := (queueTurn q).next }) hready]
    exact congrArg some (runCmdq_executes (s := { s with turn := (queueTurn q).next }) hf hok hmem hdec)
  have hstep : step s = s.auto := by simp only [step, hagenda]
  exact hstep.trans (auto_of_chore hoff hchore)

/-! ### An abort of the read -/

/-- The command error procedure runs the same from a state that differs in what the read of a command can change. -/
theorem CommandError.of_ras {code : BitVec 7} {s u t : State} (h : RasOnly s u) (he : CommandError code u t) : CommandError code s t := by
  obtain ⟨l, m, r, d, rfl⟩ := h
  obtain ⟨hcode, hcons, hseen, hactive, hflags, hiface, hother, hbytes, ⟨l', m', hout, hirqs⟩, hframe⟩ := he
  exact ⟨hcode, hcons, hseen, hactive, hflags, hiface, hother, hbytes,
    ⟨l ++ l', m ++ m', by rw [hout, List.append_assoc], by rw [hirqs, List.append_assoc]⟩, hframe⟩

theorem RasOnly.withQueue {s t : State} (h : RasOnly s t) (q : Sec) : RasOnly { s with curQ := q } { t with curQ := q } := by
  obtain ⟨l, m, r, d, rfl⟩ := h
  exact ⟨l, m, r, d, rfl⟩

theorem runCmdq_abort {s : State} {q : Sec} (h : s.fetches q) (habort : s.aborts .cmdq q.isNs (s.headAddr q) 16 = true) :
    ∃ t, s.runCmdq q = .next t ∧ CommandError 2 { s with curQ := q } t := by
  obtain ⟨-, halone, -, -⟩ := id h
  have hread := busRead_abort s q .cmdq q.isNs (s.headAddr q) 16 ((s.iface q).queueAttrs (s.iface q).cmdqBase) halone habort
  have hras := (bus_only s .cmdq .read q.isNs (s.headAddr q) 16 ((s.iface q).queueAttrs (s.iface q).cmdqBase)).trans
    (rasAborted_only _ q .cmdq q.isNs (s.headAddr q))
  exact ⟨_, (runCmdq_fetches h).trans (fetchRun_of_abort hread), CommandError.of_ras (hras.withQueue q) (cmdError_effect _ .abt)⟩

/-- Settles O9. -/
theorem fetchAbortIsCommandError : Obligations.FetchAbortIsCommandError := by
  intro s q rest h hoff hf habort
  obtain ⟨t, hrun, he⟩ := runCmdq_abort (s := { s with agenda := rest }) hf habort
  exact ⟨t, (step_of_agenda h hoff).trans hrun, he⟩

/-! ### A queue that is not processed -/

theorem not_cmdqReady {s : State} {q : Sec} (h : s.cmdqen q = false ∨ s.cmdqEmpty q = true ∨ (s.iface q).gerrActive .cmdq = true ∨
    s.sfm = true ∨ (q = .s ∧ s.secureImpl = false)) : s.cmdqReady q = false := by
  rcases h with h | h | h | h | ⟨rfl, h⟩ <;> simp [State.cmdqReady, h]

/-- Settles O10. -/
theorem stoppedQueueExecutesNothing : Obligations.StoppedQueueExecutesNothing := by
  intro s q rest h hoff hstop
  exact (step_of_agenda h hoff).trans (runCmdq_stopped (s := { s with agenda := rest }) (not_cmdqReady hstop))

/-! ### Acknowledging a command error -/

/-- A write of GERRORN that makes it equal to GERROR, whose flags are all defined, toggles the flags of active errors only
(60_exceptions.md R1701). -/
theorem ackGerror_all {s : State} {q : Sec} (h : (s.iface q).gerror &&& ~~~(s.gerrorMask q) = 0) :
    s.ackGerror q (s.iface q).gerror = s.setIface q { s.iface q with gerrorn := (s.iface q).gerror } := by
  have hnew : (s.iface q).gerror &&& s.gerrorMask q = (s.iface q).gerror := and_of_residue h
  simp only [State.ackGerror, hnew, BitVec.and_not_self]
  rfl

theorem gerrActive_acked {i : Iface} (h : i.gerrorn = i.gerror) (g : Gerr) : i.gerrActive g = false := by
  simp [Iface.gerrActive, h]

theorem cmdqReady_ns {s : State} (hen : s.cmdqen .ns = true) (hne : s.cmdqEmpty .ns = false) (hsfm : s.sfm = false)
    (hwedged : s.cmdqNsWedged = false) (herr : s.ns.gerrActive .cmdq = false) : s.cmdqReady .ns = true := by
  simp [State.cmdqReady, State.wedged, hen, hne, hsfm, hwedged, herr]

/-- Settles O37. -/
theorem acknowledgementRestartsQueue : Obligations.AcknowledgementRestartsQueue := by
  intro s rest h hoff hdef
  refine ⟨?_, fun hen hne hsfm hwedged => ?_⟩
  · rw [step_regWrite_ns (r := .gerrorn) hoff h (by decide) (by decide) (by decide) rfl rfl]
    have hword : lo32 (ext (lo32 (ext s.ns.gerror))) = s.ns.gerror := by rw [lo32_ext, lo32_ext]
    have hack := ackGerror_all (s := { s with agenda := rest }) (q := .ns) hdef
    exact congrArg Host.Outcome.next ((congrArg (State.ackGerror _ .ns) hword).trans hack)
  · exact cmdqReady_ns hen hne hsfm hwedged (gerrActive_acked rfl .cmdq)

end Sys2Proof.Machine
end

section
/-! PROOF. SSec on the Non-secure Command queue (30_encoding.md R1053), and the fields of event records (30_encoding.md R1080). -/
namespace Sys2Proof.Machine

/-! ### SSec == 1 -/

theorem sec_none {s : State} (h : s.curQ = .ns) : s.sec true = none := by rw [State.sec, h]; rfl

/-- Settles O32: the Security state of the operand does not exist, or an earlier check of the command is ILLEGAL already. -/
theorem secureOperandOnNonSecureQueue : Obligations.SecureOperandOnNonSecureQueue := by
  intro s b c ssid sid x y stag addr res hq
  have hsec := sec_none hq
  refine ⟨illegal_of_ill ?_, illegal_of_ill ?_, illegal_of_ill ?_, illegal_of_ill ?_, illegal_of_ill ?_, illegal_of_ill ?_,
    illegal_of_ill ?_, illegal_of_ill ?_, illegal_of_ill ?_⟩
  · simp only [exec, execPrefetchConfig, hsec]
  · simp only [exec, execPrefetchAddr, hsec]
  · simp only [exec, execCfgiSte, hsec]
  · simp only [exec, execCfgiSteRange, hsec]
  · simp only [exec, execCfgiAll, hsec]
  · simp only [exec, execCfgiCd, hsec, ite_self]
  · simp only [exec, execCfgiCdAll, hsec, ite_self]
  · simp only [exec, execResume, hsec, ite_self]
  · simp only [exec, execStallTerm, hsec, ite_self]

/-! ### Event records -/

/-- What a record says of its stream is below bit 64. -/
theorem evBaseSub_above (num : BitVec 8) (unk : BitVec 512) (c : EvCtx) (lo n : Nat) (h : 64 ≤ lo) :
    fld (evBaseSub num unk c) lo n = 0 := by
  have hbelow {k : Nat} (v : BitVec k) (p : Nat) (hp : p + k ≤ 64) : fld (place 256 v p) lo n = 0 :=
    fld_place_disjoint v p lo n (.inr (hp.trans h))
  simp [evBaseSub, evBase, Laws.fld_or, placeBit_eq_place, hbelow]

theorem evBaseSub_ssv (num : BitVec 8) (unk : BitVec 512) (c : EvCtx) : fld (evBaseSub num unk c) 11 1 = BitVec.ofBool c.ssv := by
  simp [evBaseSub, evBase, Laws.fld_or, placeBit_eq_place, fld_place_same, fld_place_disjoint]

theorem evBaseSub_ssid (num : BitVec 8) (unk : BitVec 512) {c : EvCtx} (h : c.ssv = true) :
    fld (evBaseSub num unk c) 12 20 = c.ssid := by
  simp [evBaseSub, evBase, h, Laws.fld_or, placeBit_eq_place, fld_place_same, fld_place_disjoint]

/-- The layout of the record of a Translation-related fault, with what it says of an IPA and, of F_PERMISSION, TTRnW left open
(61_event_records.md R1821 to R1824). -/
theorem evRecord_trf (v30 : Bool) (oas : Nat) (reason : BitVec 32) (unk : BitVec 512) (c : EvCtx) {f : Flt} (stag : Option (BitVec 16))
    (h : f.kind.isTrf = true) :
    ∃ (stall : EvWord) (ipa : W64) (ttRnW : Bool), evRecord v30 oas reason unk c f stag =
        evBaseSub f.kind.num unk c ||| stall ||| (placeBit 256 f.s2 103 ||| place 256 f.cls.code 104) ||| evFlags c |||
          evInput c.addr ||| place 256 ipa 192 ||| placeBit 256 ttRnW 108 ∧
      stall = placeBit 256 stag.isSome 95 ||| place 256 (stag.getD 0) 64 := by
  unfold evRecord
  cases hk : f.kind with
  | translation => exact ⟨_, _, false, BitVec.or_zero.symm, by cases stag <;> rfl⟩
  | addrSize => exact ⟨_, _, false, BitVec.or_zero.symm, by cases stag <;> rfl⟩
  | access => exact ⟨_, _, false, BitVec.or_zero.symm, by cases stag <;> rfl⟩
  | permission => exact ⟨_, _, _, rfl, by cases stag <;> rfl⟩
  | _ =>
    rw [hk] at h
    exact absurd h (by decide)

/-- Settles O42. -/
theorem eventRecordFields : Obligations.EventRecordFields := by
  intro v30 oas reason unk c f stag r
  obtain ⟨hnum, hsid⟩ := evRecord_fields v30 oas reason unk c f stag
  refine ⟨hnum, hsid, fun htrf => ?_⟩
  obtain ⟨_, ipa, ttRnW, hr, rfl⟩ := evRecord_trf v30 oas reason unk c stag htrf
  rw [show r = _ from hr]
  simp +contextual [bit_eq_fld, Laws.fld_or, placeBit_eq_place, fld_place_same, fld_place_disjoint, evFlags, evInput,
    evBaseSub_above, evBaseSub_ssv, evBaseSub_ssid]

end Sys2Proof.Machine
end

section
/-! PROOF. The enables of the queues in effect are those that CR0ACK shows (30_encoding.md R1061, 60_exceptions.md R1652): a case of the
sweep. -/
namespace Sys2Proof.Machine

/-! ### A field of CR0 among its bits -/

theorem bit_mergeMask {w : Nat} (m x y : BitVec w) (n : Nat) (h : n < w) :
    bit (mergeMask m x y) n = if bit m n then bit y n else bit x n := by
  simp only [bit, mergeMask, BitVec.getLsbD_or, BitVec.getLsbD_and, BitVec.getLsbD_not, h, decide_true, Bool.true_and]
  by_cases hm : m.getLsbD n = true
  · simp only [hm, Bool.not_true, Bool.and_false, Bool.false_or, Bool.and_true, if_true]
  · simp only [hm, Bool.not_false, Bool.and_false, Bool.or_false, Bool.and_true, if_false, Bool.false_eq_true]

/-- A queue enable, bit 2 or bit 3, is a field of its own. -/
theorem bit_ctrlMask {n : Nat} (hn : n = 2 ∨ n = 3) (f : Nat) : bit (ctrlMask f) n = decide (n = f) := by
  unfold ctrlMask
  split
  · next hf => rcases hn with rfl | rfl <;> subst hf <;> decide
  · have hlt : n < 32 := by omega
    simp only [bit, maskOf, place, BitVec.getLsbD_shiftLeft, BitVec.getLsbD_setWidth, BitVec.getLsbD_allOnes, hlt, decide_true,
      Bool.true_and]
    by_cases hnf : n = f
    · simp [hnf]
    · by_cases hlt : n < f
      · simp [hlt, hnf]
      · simp [hnf, show ¬ n - f < 1 by omega]

theorem bit_mergeField {n : Nat} (hn : n = 2 ∨ n = 3) (f : Nat) (x y : W32) :
    bit (mergeMask (ctrlMask f) x y) n = if n = f then bit y n else bit x n := by
  rw [bit_mergeMask _ _ _ _ (by omega), bit_ctrlMask hn]
  simp

/-! ### The relation -/

/-- The queue enables of an interface in effect are those that CR0ACK shows. -/
def Iface.enablesShown (i : Iface) : Prop := ∀ n, n = 2 ∨ n = 3 → bit i.cr0Eff n = bit i.cr0Ack n

/-- If the queue enables in effect are shown before, they are after. -/
def KeepsEnables (s t : State) : Prop := (∀ q, (s.iface q).enablesShown) → ∀ q, (t.iface q).enablesShown

namespace KeepsEnables

/-- A change in the registers of no interface but in other fields than the queue enables. -/
theorem of_bits {s t : State} (h : ∀ q n, n = 2 ∨ n = 3 →
    bit (t.iface q).cr0Eff n = bit (s.iface q).cr0Eff n ∧ bit (t.iface q).cr0Ack n = bit (s.iface q).cr0Ack n) : KeepsEnables s t := by
  intro hs q n hn
  obtain ⟨heff, hack⟩ := h q n hn
  rw [heff, hack]
  exact hs q n hn

theorem stepClosed : StepClosed KeepsEnables where
  refl _ h := h
  trans h h' hs := h' (h hs)
  quiet h := by
    simp only [State.watched, Prod.mk.injEq] at h
    obtain ⟨-, -, ⟨heff, hack⟩, heffS, hackS⟩ := h
    refine of_bits fun q n _ => ?_
    cases q
    · exact ⟨by rw [iface_ns, iface_ns, heff], by rw [iface_ns, iface_ns, hack]⟩
    · exact ⟨by rw [iface_s, iface_s, heffS], by rw [iface_s, iface_s, hackS]⟩
  draws _ _ := of_bits fun q _ _ => by cases q <;> exact ⟨rfl, rfl⟩
  emit _ _ := of_bits fun q _ _ => by cases q <;> exact ⟨rfl, rfl⟩
  store _ _ _ _ _ := of_bits fun q _ _ => by cases q <;> exact ⟨rfl, rfl⟩

/-- Registers of an interface that have the same queue enables. -/
theorem setIface {s : State} {q : Sec} {i : Iface}
    (h : ∀ n, n = 2 ∨ n = 3 → bit i.cr0Eff n = bit (s.iface q).cr0Eff n ∧ bit i.cr0Ack n = bit (s.iface q).cr0Ack n) :
    KeepsEnables s (s.setIface q i) := by
  refine of_bits fun p n hn => ?_
  by_cases hp : p = q
  · subst hp
    rw [iface_setIface]
    exact h n hn
  · rw [iface_setIface_ne _ _ _ _ hp]
    exact ⟨rfl, rfl⟩

/-! ### The handshake of a field that enables no queue -/

section
variable {f : Nat} (hf : ∀ n, n = 2 ∨ n = 3 → n ≠ f) (s : State) (q : Sec)
include hf

theorem cr0InEffect : KeepsEnables s (s.cr0InEffect q f) :=
  StepClosed.ite (stepClosed.refl s) (stepClosed.trans (cr0Effects_rel stepClosed s q f _)
    (setIface fun n hn => ⟨by rw [bit_mergeField hn, if_neg (hf n hn)], rfl⟩))

theorem updateCr0_other : KeepsEnables s (s.updateCr0 q f) :=
  StepClosed.ite (stepClosed.refl s) (stepClosed.after
    (setIface fun n hn => ⟨rfl, by rw [bit_mergeField hn, if_neg (hf n hn)]⟩)
    (stepClosed.after (StepClosed.ite (smmuenDone_rel stepClosed _ q) (stepClosed.refl _))
      (StepClosed.ite (smmuenOn_rel stepClosed s q) (cr0InEffect hf s q))))

end

theorem effectCr0 (s : State) (q : Sec) (f : Nat) : KeepsEnables s (s.effectCr0 q f) := by
  by_cases hf : f = 2 ∨ f = 3
  · have hnone : s.effectCr0 q f = s := if_pos (by rcases hf with rfl | rfl <;> rfl)
    rw [hnone]
    exact stepClosed.refl s
  · have hother : ∀ n, n = 2 ∨ n = 3 → n ≠ f := by
      rintro n hn rfl
      exact hf hn
    exact StepClosed.ite (stepClosed.refl s) (cr0InEffect hother s q)

/-! ### The Update of a queue enable -/

section
variable {f : Nat} (hf : f = 2 ∨ f = 3) (s : State) (q : Sec)
include hf

/-- The side effects of a queue enable on the registers: software may see how far a Command queue is consumed. -/
theorem cr0Effects_iface (on : Bool) (p : Sec) : ∃ seen, (s.cr0Effects q f on).iface p = { s.iface p with cmdqSeen := seen } := by
  have hsame : ∃ seen, s.iface p = { s.iface p with cmdqSeen := seen } := ⟨_, rfl⟩
  rcases hf with rfl | rfl <;> cases on
  · exact ⟨_, setEvents_iface s q p _⟩
  · exact hsame
  · change ∃ seen, (((s.showCons q).dropCmds q).setWedged q false).iface p = _
    rw [showCons_eq]
    cases q <;> cases p <;> exact ⟨_, rfl⟩
  · exact hsame

/-- The enable takes effect: of the queue enables of both interfaces it alone changes. -/
theorem cr0InEffect_iface (p : Sec) : ∃ seen e, (s.cr0InEffect q f).iface p = { s.iface p with cmdqSeen := seen, cr0Eff := e } ∧
    ∀ n, n = 2 ∨ n = 3 → bit e n = if p = q ∧ n = f then bit (s.iface q).cr0 n else bit (s.iface p).cr0Eff n := by
  unfold State.cr0InEffect
  dsimp only
  split
  · next hsame =>
    refine ⟨(s.iface p).cmdqSeen, (s.iface p).cr0Eff, rfl, fun n hn => ?_⟩
    by_cases hpn : p = q ∧ n = f
    · obtain ⟨rfl, rfl⟩ := hpn
      have hbit := congrArg (fun x => bit x n) hsame
      simpa [bit_and, bit_ctrlMask hn] using hbit.symm
    · rw [if_neg hpn]
  · obtain ⟨seen, hp⟩ := cr0Effects_iface hf s q (bit (s.iface q).cr0 f) p
    by_cases hpq : p = q
    · subst hpq
      rw [iface_setIface, hp]
      exact ⟨_, _, rfl, fun n hn => by rw [bit_mergeField hn]; simp⟩
    · rw [iface_setIface_ne _ _ _ _ hpq, hp]
      exact ⟨_, _, rfl, fun n _ => by simp [hpq]⟩

/-- With its Update the enable takes effect and is shown. -/
theorem updateCr0_queue : KeepsEnables s (s.updateCr0 q f) := by
  have hzero : decide (f = 0) = false := by rcases hf with rfl | rfl <;> rfl
  unfold State.updateCr0
  simp only [hzero, Bool.false_and, Bool.false_eq_true, if_false]
  split
  · exact stepClosed.refl s
  · intro hs p n hn
    obtain ⟨seen, e, hp, he⟩ := cr0InEffect_iface hf s q p
    by_cases hpq : p = q
    · subst hpq
      rw [iface_setIface, hp, bit_mergeField hn, he n hn]
      simp [hs p n hn]
    · rw [iface_setIface_ne _ _ _ _ hpq, hp, he n hn]
      simpa [hpq] using hs p n hn

end

theorem updateCr0 (s : State) (q : Sec) (f : Nat) : KeepsEnables s (s.updateCr0 q f) := by
  by_cases hf : f = 2 ∨ f = 3
  · exact updateCr0_queue hf s q
  · refine updateCr0_other ?_ s q
    rintro n hn rfl
    exact hf hn

/-- The preset registers of an interface are not those of CR0. -/
theorem presetIface_cr0 (s : State) (q : Sec) (i : Iface) :
    (s.presetIface q i).cr0Eff = i.cr0Eff ∧ (s.presetIface q i).cr0Ack = i.cr0Ack := by
  cases q <;> unfold State.presetIface <;> dsimp only <;> split <;> split <;> exact ⟨rfl, rfl⟩

/-- No queue is enabled after a reset. -/
theorem resetTo (s : State) (cold : Bool) : KeepsEnables s (s.resetTo cold) := by
  have hiface (q : Sec) : ∃ i g ptm, ((s.resetTo cold).iface q) = s.presetIface q i ∧ i = Iface.reset g ptm := by
    cases q <;> cases cold <;> exact ⟨_, _, _, rfl, rfl⟩
  intro _ q n _
  obtain ⟨_, _, _, hq, rfl⟩ := hiface q
  obtain ⟨heff, hack⟩ := presetIface_cr0 s q (Iface.reset _ _)
  rw [hq, heff, hack]
  rfl

theorem ctrlClosed : CtrlClosed KeepsEnables where
  toStepClosed := stepClosed
  effectCr0 := effectCr0
  updateCr0 := updateCr0
  resetTo := resetTo

end KeepsEnables

theorem enablesShown_iff (s : State) : (∀ q, (s.iface q).enablesShown) ↔
    ∀ q, bit (s.iface q).cr0Eff 2 = bit (s.iface q).cr0Ack 2 ∧ bit (s.iface q).cr0Eff 3 = bit (s.iface q).cr0Ack 3 := by
  simp [Iface.enablesShown]

/-- Settles O58. -/
theorem stepKeepsQueueEnables : Obligations.StepKeepsQueueEnables := by
  intro s t hs hstep
  exact (enablesShown_iff t).1 (step_rel KeepsEnables.ctrlClosed s t hstep ((enablesShown_iff s).2 hs))

end Sys2Proof.Machine
end

section
/-! PROOF. The signal of CMD_SYNC, and the delivery of interrupts (43_cmd_fault_sync.md R1240, 60_exceptions.md R1716, R1722). -/
namespace Sys2Proof.Machine

/-! ### Nothing that a CMD_SYNC waits for -/

theorem beginAll_none {q : Sec} {l : List Inval} (s : State) (h : ∀ i ∈ l, i.origin ≠ some q) : State.beginAll q l s = (l, s) := by
  induction l with
  | nil => rfl
  | cons i l ih =>
    have hi : (i.origin == some q) = false := by simpa using h i (.head l)
    simp only [State.beginAll, hi, ih fun j hj => h j (.tail i hj)]
    rfl

theorem completeInvals_none {s : State} {q : Sec} (h : ∀ i ∈ s.pendingInval, i.origin ≠ some q) : s.completeInvals q = s := by
  simp only [State.completeInvals, beginAll_none s h]

theorem flushSyncs_none {s : State} {q : Sec} (h : ∀ x ∈ s.irqs, x.isSyncMsi q = false) (k : Nat) : State.flushSyncs q k s = s := by
  have hfind : s.irqs.findIdx? (Irq.isSyncMsi q) = none := List.findIdx?_eq_none_iff.2 h
  cases k with
  | zero => rfl
  | succ k => simp only [State.flushSyncs, hfind]

theorem flushEvents_none {s : State} {q : Sec} (h : s.events q = []) : s.flushEvents q = s := by
  simp only [State.flushEvents, h]
  rfl

theorem setEvents_events (s : State) (q : Sec) : s.setEvents q (s.events q) = s := by cases q <;> rfl

theorem staleStalls_none {s : State} {q : Sec} (h : s.events q = []) : s.staleStalls q = s := by
  have hset : s.setEvents q [] = s := h ▸ setEvents_events s q
  simp [State.staleStalls, h, hset]

/-- No event is pending. -/
theorem syncEvents_none {s : State} (hns : s.eventsNs = []) (hs : s.eventsS = []) : s.syncEvents = s := by
  have hflush (q : Sec) : (s.flushEvents q).staleStalls q = s := by
    have hq : s.events q = [] := by cases q <;> assumption
    rw [flushEvents_none hq, staleStalls_none hq]
  unfold State.syncEvents
  simp only [hflush]
  split <;> rfl

/-! ### The signal -/

theorem place_two (a : BitVec 50) : place 64 a 2 = (a ++ 0#2).setWidth 64 := by
  apply BitVec.eq_of_getLsbD_eq
  intro n hn
  simp only [place, BitVec.getLsbD_shiftLeft, BitVec.getLsbD_setWidth, BitVec.getLsbD_append, hn, decide_true, Bool.true_and]
  by_cases hlt : n < 2
  · simp [hlt]
  · simp [hlt, show n - 2 < 64 by omega]

theorem place_two_eq_zero (a : BitVec 50) : place 64 a 2 = 0 ↔ a = 0 := by
  constructor
  · intro h
    rw [← fld_place_same (w := 64) a 2 (by decide), h]
    simp [fld]
  · rintro rfl
    rfl

/-- What the signal puts in the list of interrupts and among the outputs. -/
theorem syncSignal_eq (s : State) (cs msh : BitVec 2) (attr : BitVec 4) (data : W32) (addr : BitVec 50) :
    let a := if s.v31 then addr else addr &&& 0x3FFFFFFFFFFF
    s.syncSignal cs msh attr data addr = { s with
      irqs := s.irqs ++
        (if cs = 1 ∧ s.msi s.curQ = true ∧ a ≠ 0 then
           [.msi (.cmdSync s.curQ) s.curQ.isNs ((a ++ 0#2).setWidth 64) data (msiAttrs attr msh s.curQ.isNs)] else []) ++
        (if cs = 1 ∧ s.impl.wiredIrq = true then [.wired (.cmdSync s.curQ)] else [])
      out := s.out ++ if cs = 2 ∧ s.sev = true then [.sendEvent] else [] } := by
  intro a
  have ha : s.msiOperand addr = place 64 a 2 := rfl
  have hzero : (place 64 a 2 != 0) = decide (a ≠ 0) := by rw [bne, beq_eq_decide, decide_eq_decide.2 (place_two_eq_zero a), decide_not]
  unfold State.syncSignal
  simp only [ha, hzero, ← place_two]
  by_cases h1 : cs = 1
  · subst h1
    simp [State.pushIrqs, List.append_assoc]
  · by_cases h2 : cs = 2
    · subst h2
      by_cases hsev : s.sev = true <;> simp [hsev, State.emit]
    · simp only [h1, h2, false_and, if_false, decide_false, Bool.false_and, Bool.false_eq_true, List.append_nil]

/-! ### The end of a CMD_SYNC -/

/-- The consume index of the running command's queue moves on, and the index that software sees is the same. -/
theorem consume_showCons_iface (s : State) : (s.consume.showCons s.curQ).iface s.curQ =
    (s.iface s.curQ).withCons (qInc (s.iface s.curQ).cmdqCons (s.cmdqs s.curQ)) (qInc (s.iface s.curQ).cmdqCons (s.cmdqs s.curQ)) := by
  have hshown : (s.consume.showCons s.curQ).iface s.curQ =
      (s.consume.iface s.curQ).withCons (s.consume.iface s.curQ).cmdqCons (s.consume.iface s.curQ).cmdqCons := by
    rw [showCons_eq]
    cases s.curQ <;> rfl
  rw [hshown, consume_iface]
  rfl

/-- Of the two indexes the wake-up event is that of the one which software sees at once or else now. -/
theorem consume_showOut (s : State) : s.consumeOut ++ s.consume.showOut s.curQ = s.wake := by
  have hsame : s.consume.sev = s.sev ∧ s.consume.cmdqs s.curQ = s.cmdqs s.curQ := by
    rw [consume_eq]
    cases s.curQ <;> exact ⟨rfl, rfl⟩
  obtain ⟨hsev, hqs⟩ := hsame
  unfold State.consumeOut State.showOut
  rw [hsev, hqs, consume_iface]
  by_cases h : s.shows = true
  · simp [h]
  · simp only [h]
    rfl

/-- The command is Consumed, and software sees that it is, with the wake-up event of a queue that it saw full (13_registers_queues.md
R288, 30_encoding.md R1066). -/
theorem consume_showCons (s : State) : Consumed s (s.consume.showCons s.curQ) ∧
    ((s.consume.showCons s.curQ).iface s.curQ).cmdqSeen = ((s.consume.showCons s.curQ).iface s.curQ).cmdqCons ∧
    (s.consume.showCons s.curQ).out = s.out ++ s.wake ∧
    s.consume.showCons s.curQ = { s with
      ns := (s.consume.showCons s.curQ).ns, s := (s.consume.showCons s.curQ).s, out := (s.consume.showCons s.curQ).out,
      cmdCache := (s.consume.showCons s.curQ).cmdCache } := by
  obtain ⟨-, hout, -, hframe⟩ := consume_effect s
  have hiface := consume_showCons_iface s
  have hother : ∀ q, q ≠ s.curQ → (s.consume.showCons s.curQ).iface q = s.iface q := by
    intro q hq
    rw [← consume_iface_ne s q hq, showCons_eq]
    cases hc : s.curQ <;> cases q <;> first | rfl | exact absurd hc.symm hq
  refine ⟨⟨?_, ?_, .inl ?_, ?_, hother⟩, ?_, ?_, ?_⟩
  · rw [hiface, withCons_cons, qPos_qInc _ _ (cmdqs_le s s.curQ)]
  · rw [hiface, withCons_cons, fld_qInc]
  · rw [hiface, withCons_cons, withCons_seen]
  · rw [hiface]
    rfl
  · rw [hiface, withCons_cons, withCons_seen]
  · rw [showCons_eq, ← consume_showOut, ← List.append_assoc, ← hout]
  · obtain ⟨ns, sec, out, copies, hc⟩ : ∃ ns sec out copies,
        s.consume = { s with ns := ns, s := sec, out := out, cmdCache := copies } := ⟨_, _, _, _, hframe⟩
    rw [hc, showCons_eq]
    cases s.curQ <;> rfl

/-- The end of a CMD_SYNC whose signal left the interrupts `l` and the outputs `o`. -/
theorem doneSync_effect (s : State) (e : List SteEvent) (l : List Irq) (o : List Output) :
    ∃ t, doneSync { s with steLog := e, irqs := l, out := o } = .next t ∧ Consumed s t ∧
      (t.iface s.curQ).cmdqSeen = (t.iface s.curQ).cmdqCons ∧ t.irqs = l ∧ t.out = o ++ s.wake ∧
      t = { s with ns := t.ns, s := t.s, irqs := t.irqs, out := t.out, cmdCache := t.cmdCache, steLog := e } := by
  obtain ⟨hconsumed, hseen, hout, hframe⟩ := consume_showCons { s with steLog := e, irqs := l, out := o }
  have hirqs := congrArg State.irqs hframe
  refine ⟨_, rfl, hconsumed, hseen, hirqs, hout, ?_⟩
  rw [hirqs]
  exact hframe

/-! ### CMD_SYNC with nothing to wait for -/

section
variable {s : State} (hns : s.eventsNs = []) (hs : s.eventsS = []) (hmsi : ∀ x ∈ s.irqs, x.isSyncMsi s.curQ = false)
include hns hs hmsi

/-- The maintenance of the Stream tables is on record as complete, and the completion is signalled. -/
theorem syncDone_signals (cs msh : BitVec 2) (attr : BitVec 4) (data : W32) (addr : BitVec 50) :
    s.syncDone cs msh attr data addr =
      ({ s with steLog := s.steLog ++ [.synced s.curQ] } : State).syncSignal cs msh attr data addr := by
  rw [State.syncDone, flushSyncs_none (s := { s with steLog := s.steLog ++ [.synced s.curQ] }) hmsi, syncEvents_none (s := { s with steLog := s.steLog ++ [.synced s.curQ] }) hns hs]

theorem execSync_signals {cs msh : BitVec 2} {attr : BitVec 4} {data : W32} {addr : BitVec 50} {res : CmdWord} (hcs : cs ≠ 3)
    (hres : s.res0Ok res (v30Msi addr)) (hlate : s.atcTimedOut = false) (hatc : s.atc s.curQ = [])
    (hinv : ∀ i ∈ s.pendingInval, i.origin ≠ some s.curQ) :
    execSync cs msh attr data addr res s =
      doneSync (({ s with steLog := s.steLog ++ [.synced s.curQ] } : State).syncSignal cs msh attr data addr) := by
  have hnone : (s.pendingInval.any fun i => i.origin == some s.curQ) = false := by simpa using hinv
  have hok : s.res0Ill res (v30Msi addr) = false := hres
  simp only [execSync, hcs, hok, hlate, hatc, completeInvals_none hinv, hnone, syncDone_signals hns hs hmsi]
  rfl

end

/-! ### Delivery of an interrupt -/

theorem sendIrq_wired {s : State} {n : Nat} {src : IrqSrc} (h : s.irqs[n]? = some (.wired src)) :
    s.sendIrq n = ({ s with irqs := s.irqs.eraseIdx n } : State).emit (.wired src) := by
  simp only [State.sendIrq, h]

theorem truncTo_toNat (a : W64) (n : Nat) : (truncTo a n).toNat = a.toNat % 2 ^ n := by
  rw [truncTo, BitVec.toNat_ofNat, Nat.mod_eq_of_lt (lt_of_le_of_lt (Nat.mod_le _ _) a.isLt)]

/-- An MSI that does not abort is a write of its four bytes of data, and the message. -/
theorem msiWrite_ok {s : State} (src : IrqSrc) {ns : Bool} {addr : W64} (data : W32) (a : Attrs)
    (hok : s.aborts .msi ns (addr.toNat % 2 ^ s.oas) 4 = false) :
    s.msiWrite src ns addr data a =
      (true, ({ s with out := s.out ++
          [.bus .msi .write ns (addr.toNat % 2 ^ s.oas) 4 (ensureConsistent { a with inst := false, priv := true, ns := ns }),
           .msi src (addr.toNat % 2 ^ s.oas) data a s.impl.msiDeviceId] } : State).store false ns (addr.toNat % 2 ^ s.oas)
        (leBytes 4 data.toNat)) := by
  have hwrite := busWrite_ok s (.ofNs ns) .msi ns (addr.toNat % 2 ^ s.oas) (leBytes 4 data.toNat) a hok
  simp only [State.msiWrite, truncTo_toNat, hwrite]
  simp [State.emit, State.store, State.bus, leBytes_length]

theorem sendIrq_msi {s t : State} {n : Nat} {src : IrqSrc} {ns : Bool} {addr : W64} {data : W32} {a : Attrs}
    (h : s.irqs[n]? = some (.msi src ns addr data a))
    (hwrite : ({ s with irqs := s.irqs.eraseIdx n } : State).msiWrite src ns addr data a = (true, t)) : s.sendIrq n = t := by
  simp only [State.sendIrq, h, hwrite]

/-- Settles O29. -/
theorem syncSignals : Obligations.SyncSignals := by
  refine ⟨fun s cs msh attr data addr res hcs hres hlate hatc hns hs hinv hmsi => ?_, fun s n rest h hoff => ⟨?_, ?_⟩⟩
  · intro a
    have hrun := execSync_signals (s := s) (attr := attr) (msh := msh) (data := data) hns hs hmsi hcs hres hlate hatc hinv
    rw [syncSignal_eq] at hrun
    obtain ⟨t, hdone, heffect⟩ := doneSync_effect s _ _ _
    exact ⟨t, hrun.trans hdone, heffect⟩
  · intro src hsrc
    exact (step_of_agenda h hoff).trans (congrArg Host.Outcome.next (sendIrq_wired (s := { s with agenda := rest }) hsrc))
  · intro src ns addr data a hsrc hok pa sent
    exact (step_of_agenda h hoff).trans (congrArg Host.Outcome.next (sendIrq_msi (s := { s with agenda := rest }) hsrc
      (msiWrite_ok (s := { s with agenda := rest, irqs := s.irqs.eraseIdx n }) src data a hok)))

end Sys2Proof.Machine
end

section
/-! PROOF. What a command can change (30_encoding.md R1053, R1061, R1062): of the registers the consume indexes, GERROR and the index of
an Event queue, and from the Non-secure queue nothing of four Secure parts. -/
namespace Sys2Proof.Machine

/-! ### What commands keep -/

/-- The registers of an interface that no command moves. -/
def Iface.keptByCommands (i : Iface) : Iface := { i with cmdqCons := 0, cmdqSeen := 0, gerror := 0, eventqProd := 0 }

/-- The state that no command changes. -/
def State.keptByCommands (s : State) :=
  ((s.impl, s.ids, s.statusr, s.priqBase, s.priqProd, s.priqCons, s.priqCfg, s.vatosSel, s.vatos, s.sInit),
    (s.pendingPri, s.gatosOp, s.sGatosOp, s.vatosOp, s.cmdqNsWedged, s.cmdqSWedged, s.unknown, s.e2hWritten, s.sfm, s.off),
    (s.meanwhile, s.fetchOrder, s.pmcgs, s.pmcgPast, s.agenda, s.trail, s.turn, s.curQ), s.ns.keptByCommands, s.s.keptByCommands)

/-- The parts of the Secure state that no command of the Non-secure queue changes (30_encoding.md R1053). -/
def State.secureParts (s : State) := (s.s, s.eventsS, s.atcS, s.atcSLate, s.stalled.filter fun x => x.txn.sec == .s)

/-- What commands keep stands, and from the Non-secure queue the Secure parts do. -/
def CommandOnly (s t : State) : Prop :=
  t.keptByCommands = s.keptByCommands ∧ (s.curQ = .ns → t.secureParts = s.secureParts)

/-- What is of a Security state may be changed by the running command: by one of the Non-secure queue only what is Non-secure. -/
def State.mayChange (s : State) (q : Sec) : Prop := s.curQ = .ns → q = .ns

theorem mayChange_curQ (s : State) : s.mayChange s.curQ := id

theorem mayChange_of_sec {s : State} {ssec : Bool} {q : Sec} (h : s.sec ssec = some q) : s.mayChange q := by
  intro hq
  rw [State.sec, hq] at h
  cases ssec <;> simp_all [cmdSec]

namespace CommandOnly

theorem refl (s : State) : CommandOnly s s := ⟨rfl, fun _ => rfl⟩

theorem curQ {s t : State} (h : CommandOnly s t) : t.curQ = s.curQ := by
  obtain ⟨hkept, -⟩ := h
  simp only [State.keptByCommands, Prod.mk.injEq] at hkept
  simp only [hkept]

theorem trans {s t u : State} (h : CommandOnly s t) (h' : CommandOnly t u) : CommandOnly s u :=
  ⟨h'.1.trans h.1, fun hq => (h'.2 (h.curQ.trans hq)).trans (h.2 hq)⟩

theorem mayChange {s t : State} (h : CommandOnly s t) {q : Sec} (hq : s.mayChange q) : t.mayChange q := fun ht => hq (h.curQ ▸ ht)

theorem ite {c : Prop} [Decidable c] {s t u : State} (ht : CommandOnly s t) (hu : CommandOnly s u) : CommandOnly s (if c then t else u) := by
  split
  · exact ht
  · exact hu

/-- A change of one interface. -/
theorem setIface {s : State} {q : Sec} (hq : s.mayChange q) {i : Iface} (h : i.keptByCommands = (s.iface q).keptByCommands) :
    CommandOnly s (s.setIface q i) := by
  cases q with
  | ns => exact ⟨by simp only [State.keptByCommands, State.setIface, h, iface_ns], fun _ => rfl⟩
  | s => exact ⟨by simp only [State.keptByCommands, State.setIface, h, iface_s], fun hs => absurd (hq hs) (by decide)⟩

/-- Other stalled transactions: those of the Secure state stand, unless the command may change them. -/
theorem stalls {s : State} {q : Sec} (hq : s.mayChange q) (l : List Stall) (m : List StagUse)
    (h : q = .ns → (l.filter fun x => x.txn.sec == .s) = s.stalled.filter fun x => x.txn.sec == .s) :
    CommandOnly s { s with stalled := l, stags := m } :=
  ⟨rfl, fun hs => by simp only [State.secureParts, h (hq hs)]⟩

end CommandOnly

theorem commandRegisters_of_kept {a b : Iface} (h : b.keptByCommands = a.keptByCommands) : CommandRegisters a b := by
  cases a
  cases b
  simp_all [Iface.keptByCommands, CommandRegisters]

theorem CommandOnly.frame {s t : State} (h : CommandOnly s t) : CommandFrame s t := by
  obtain ⟨hkept, -⟩ := h
  cases s
  cases t
  simp_all [State.keptByCommands, CommandFrame]

theorem CommandOnly.registers {s t : State} (h : CommandOnly s t) : CommandRegisters s.ns t.ns ∧ CommandRegisters s.s t.s := by
  obtain ⟨hkept, -⟩ := h
  simp only [State.keptByCommands, Prod.mk.injEq] at hkept
  obtain ⟨-, -, -, hns, hs⟩ := hkept
  exact ⟨commandRegisters_of_kept hns, commandRegisters_of_kept hs⟩

/-! ### Shared operations -/

theorem drawn_commandOnly (s : State) : CommandOnly s s.drawn := ⟨rfl, fun _ => rfl⟩

theorem emit_commandOnly (s : State) (o : Output) : CommandOnly s (s.emit o) := ⟨rfl, fun _ => rfl⟩

theorem pushIrqs_commandOnly (s : State) (l : List Irq) : CommandOnly s (s.pushIrqs l) := ⟨rfl, fun _ => rfl⟩

theorem WritesOnly.commandOnly {w : List (Bool × Nat × Nat)} {s t : State} (h : WritesOnly w s t) : CommandOnly s t := by
  obtain ⟨m, i, ⟨l, q, r, d, rfl⟩, -⟩ := h
  exact ⟨rfl, fun _ => rfl⟩

theorem irqRaise_commandOnly (s : State) (q : Sec) (src : IrqSrc) (en : Bool) (c : IrqCfg) : CommandOnly s (s.irqRaise q src en c) := by
  obtain ⟨l, h, -⟩ := irqRaise_eq s q src en c
  exact h ▸ pushIrqs_commandOnly s l

section
variable {s : State} {q : Sec} (hq : s.mayChange q)
include hq

theorem showCons_commandOnly : CommandOnly s (s.showCons q) := by
  rw [showCons_eq]
  exact CommandOnly.trans (t := s.setIface q ((s.iface q).withCons (s.iface q).cmdqCons (s.iface q).cmdqCons))
    (CommandOnly.setIface hq rfl) ⟨rfl, fun _ => rfl⟩

theorem gerrorActivate_commandOnly (g : Gerr) : CommandOnly s (s.gerrorActivate q g) := by
  obtain ⟨v, l, h, -⟩ := gerrorActivate_effect s q g
  rw [h]
  exact CommandOnly.trans (CommandOnly.setIface hq (i := (s.iface q).withGerror v) rfl) (pushIrqs_commandOnly _ l)

theorem setEvents_commandOnly (l : List PendEv) : CommandOnly s (s.setEvents q l) := by
  cases q with
  | ns => exact ⟨rfl, fun _ => rfl⟩
  | s => exact ⟨rfl, fun hs => absurd (hq hs) (by decide)⟩

theorem setAtc_commandOnly (l : List AtcReq) : CommandOnly s (s.setAtc q l) := by
  cases q with
  | ns => exact ⟨rfl, fun _ => rfl⟩
  | s => exact ⟨rfl, fun hs => absurd (hq hs) (by decide)⟩

end

theorem consume_commandOnly (s : State) : CommandOnly s s.consume := by
  have hmoved (c v : W32) := CommandOnly.setIface (mayChange_curQ s) (i := (s.iface s.curQ).withCons c v) rfl
  rw [consume_eq]
  exact (hmoved (qInc (s.iface s.curQ).cmdqCons (s.cmdqs s.curQ)) _).trans ⟨rfl, fun _ => rfl⟩

theorem cmdError_commandOnly (s : State) (c : Cerror) : CommandOnly s (s.cmdError c) := by
  have hcopies : CommandOnly s { s with cmdCache := s.cmdCache.filter fun x => x.1 != s.curQ } := ⟨rfl, fun _ => rfl⟩
  have hshown := hcopies.trans (showCons_commandOnly (hcopies.mayChange (mayChange_curQ s)))
  refine hshown.trans ?_
  unfold State.cmdError
  dsimp only
  generalize ({ s with cmdCache := s.cmdCache.filter fun x => x.1 != s.curQ } : State).showCons s.curQ = u
  have hcode := CommandOnly.setIface (mayChange_curQ u)
    (i := { u.iface u.curQ with cmdqCons := setFld (u.iface u.curQ).cmdqCons 24 c.code }) rfl
  exact hcode.trans (gerrorActivate_commandOnly (hcode.mayChange (mayChange_curQ u)) .cmdq)

/-! ### Stalled transactions -/

/-- Records of Non-secure transactions that change, whose transactions stand, are none of the Secure ones. -/
theorem filter_map_secure {f : Stall → Stall} (hsecure : ∀ x, x.txn.sec = .s → f x = x) (htxn : ∀ x, (f x).txn = x.txn) (l : List Stall) :
    (l.map f).filter (fun x => x.txn.sec == .s) = l.filter fun x => x.txn.sec == .s := by
  induction l with
  | nil => rfl
  | cons x l ih =>
    rw [List.map_cons, List.filter_cons, List.filter_cons, ih, htxn]
    split
    · next hx => rw [hsecure x (beq_iff_eq.1 hx)]
    · rfl

theorem filter_set_secure {l : List Stall} {n : Nat} {x y : Stall} (hx : l[n]? = some x) (hns : x.txn.sec = .ns) (hy : y.txn = x.txn) :
    (l.set n y).filter (fun x => x.txn.sec == .s) = l.filter fun x => x.txn.sec == .s := by
  induction l generalizing n with
  | nil => rfl
  | cons z l ih =>
    cases n with
    | zero =>
      obtain rfl : z = x := by simpa using hx
      simp [hy, hns]
    | succ n =>
      have hx : l[n]? = some x := by simpa using hx
      rw [List.set_cons_succ, List.filter_cons, List.filter_cons, ih hx]

/-- Changes of the records of a Security state that the command may change. -/
theorem mapStalls_commandOnly {s : State} {q : Sec} (hq : s.mayChange q) {f : Stall → Stall} (hother : ∀ x, x.txn.sec ≠ q → f x = x)
    (htxn : ∀ x, (f x).txn = x.txn) (m : List StagUse) : CommandOnly s { s with stalled := s.stalled.map f, stags := m } :=
  CommandOnly.stalls hq _ m fun h => filter_map_secure (fun x hx => hother x (by simp [h, hx])) htxn s.stalled

theorem ackStag_commandOnly {s : State} {sec : Sec} (hq : s.mayChange sec) (sid : BitVec 32) (tag : BitVec 16) :
    CommandOnly s (s.ackStag sec sid tag) := by
  refine mapStalls_commandOnly hq (fun x hx => ?_) (fun x => ?_) _
  · simp [hx]
  · split <;> rfl

theorem ackStags_commandOnly {q : Sec} (l : List StagUse) (hl : ∀ y ∈ l, y.sec = q) {s : State} (hq : s.mayChange q) :
    CommandOnly s (l.foldl (fun s y => s.ackStag y.sec y.sid y.tag) s) := by
  induction l generalizing s with
  | nil => exact CommandOnly.refl s
  | cons y l ih =>
    have hy := ackStag_commandOnly (sec := y.sec) (by rw [hl y (.head l)]; exact hq) y.sid y.tag
    exact hy.trans (ih (fun z hz => hl z (.tail y hz)) (hy.mayChange hq))

theorem markRecorded_commandOnly {s : State} {q : Sec} (hq : s.mayChange q) (e : PendEv) : CommandOnly s (s.markRecorded q e) := by
  refine mapStalls_commandOnly hq (fun x hx => ?_) (fun x => ?_) s.stags
  · simp [PendEv.isOf, hx]
  · split <;> rfl

theorem staleStalls_commandOnly {s : State} {q : Sec} (hq : s.mayChange q) : CommandOnly s (s.staleStalls q) := by
  have hdropped := setEvents_commandOnly hq []
  have hstale : CommandOnly (s.setEvents q []) { s.setEvents q [] with
      stalled := (s.setEvents q []).stalled.map fun x =>
        if !x.recorded && (s.events q).any (fun e => e.isOf q x) then { x with stale := true } else x } := by
    refine mapStalls_commandOnly (hdropped.mayChange hq) (fun x hx => ?_) (fun x => ?_) _
    · simp [PendEv.isOf, hx]
    · split <;> rfl
  refine hdropped.trans (hstale.trans (ackStags_commandOnly _ (fun y hy => ?_) (hstale.mayChange (hdropped.mayChange hq))))
  have hsec := (List.mem_filter.1 hy).2
  simp only [Bool.and_eq_true, beq_iff_eq] at hsec
  exact hsec.1.1

theorem markStall_commandOnly {s : State} {n : Nat} (a : StallAct) (hq : ∀ x, s.stalled[n]? = some x → s.mayChange x.txn.sec) :
    CommandOnly s (s.markStall n a) := by
  unfold State.markStall
  split
  · exact CommandOnly.refl s
  · next x hx =>
    have hset : CommandOnly s { s with stalled := s.stalled.set n { x with act := some a } } :=
      CommandOnly.stalls (hq x hx) _ s.stags fun hns => filter_set_secure hx hns rfl
    dsimp only
    split
    · exact hset.trans (ackStag_commandOnly (hset.mayChange (hq x hx)) _ _)
    · exact hset

/-! ### Event queues and the MSIs of CMD_SYNC -/

section
variable {q : Sec}

theorem sendIrq_commandOnly {s : State} (hq : s.mayChange q) {n : Nat} {x : Irq} (hx : s.irqs[n]? = some x) (hmsi : x.isSyncMsi q = true) :
    CommandOnly s (s.sendIrq n) := by
  cases x with
  | wired src => exact absurd hmsi (by simp [Irq.isSyncMsi])
  | msi src ns addr data a =>
    obtain rfl : src = .cmdSync q := by simpa [Irq.isSyncMsi] using hmsi
    have htaken : CommandOnly s { s with irqs := s.irqs.eraseIdx n } := ⟨rfl, fun _ => rfl⟩
    have hsent := htaken.trans (msiWrite_writes _ (.cmdSync q) ns addr data a).commandOnly
    simp only [State.sendIrq, hx]
    split
    · next h => exact of_result h hsent
    · next h =>
      have hsent := of_result h hsent
      exact hsent.trans (gerrorActivate_commandOnly (hsent.mayChange hq) .msiCmdq)

theorem flushSyncs_commandOnly (k : Nat) {s : State} (hq : s.mayChange q) : CommandOnly s (State.flushSyncs q k s) := by
  induction k generalizing s with
  | zero => exact CommandOnly.refl s
  | succ k ih =>
    unfold State.flushSyncs
    split
    · exact CommandOnly.refl s
    · next n hn =>
      obtain ⟨hlt, hmsi, -⟩ := List.findIdx?_eq_some_iff_getElem.1 hn
      have hsent := sendIrq_commandOnly hq (List.getElem?_eq_getElem hlt) hmsi
      exact hsent.trans (ih (hsent.mayChange hq))

/-- What follows the write of a record. -/
theorem eventWritten_commandOnly {t : State} (hq : t.mayChange q) (prod : W32) (ok wasEmpty : Bool) :
    CommandOnly t (let s := t.setIface q { t.iface q with eventqProd := prod }
      let s := if ok then s else s.gerrorActivate q .eventqAbt
      if wasEmpty then s.eventqIrq q else s) := by
  have hmoved : CommandOnly t (t.setIface q { t.iface q with eventqProd := prod }) := CommandOnly.setIface hq rfl
  have herr := hmoved.trans (CommandOnly.ite (c := ok) (CommandOnly.refl _) (gerrorActivate_commandOnly (hmoved.mayChange hq) .eventqAbt))
  exact CommandOnly.ite (herr.trans (irqRaise_commandOnly _ _ _ _ _)) herr

theorem commitEvent_commandOnly {s : State} (hq : s.mayChange q) (e : PendEv) : CommandOnly s (s.commitEvent q e) := by
  have hmarked (pa : Nat) (bs : List Byte) (a : Attrs) (lost : Bool) : CommandOnly s
      (if lost then (s.drawn.busWrite q .eventq q.isNs pa bs a).2 else (s.drawn.busWrite q .eventq q.isNs pa bs a).2.markRecorded q e) := by
    have hwritten := (drawn_commandOnly s).trans (busWrite_writes s.drawn q .eventq q.isNs pa bs a).commandOnly
    exact CommandOnly.ite hwritten (hwritten.trans (markRecorded_commandOnly (hwritten.mayChange hq) e))
  exact CommandOnly.ite ((hmarked _ _ _ _).trans (gerrorActivate_commandOnly ((hmarked _ _ _ _).mayChange hq) .eventqAbt))
    ((hmarked _ _ _ _).trans (eventWritten_commandOnly ((hmarked _ _ _ _).mayChange hq) _ _ _))

theorem eventqHolds_commandOnly (s : State) (q : Sec) : CommandOnly s (s.eventqHolds q).2 := by
  unfold State.eventqHolds
  split
  · exact drawn_commandOnly s
  · exact CommandOnly.refl s

theorem deliverEvent_commandOnly {s : State} (hq : s.mayChange q) (n : Nat) : CommandOnly s (s.deliverEvent q n) := by
  unfold State.deliverEvent
  split
  · exact CommandOnly.refl s
  · next e _ =>
    have hholds := eventqHolds_commandOnly s q
    refine hholds.trans ?_
    have hq := hholds.mayChange hq
    dsimp only
    generalize (s.eventqHolds q).2 = t at hq
    have htaken := setEvents_commandOnly hq ((t.events q).eraseIdx n)
    have hq := htaken.mayChange hq
    exact CommandOnly.ite (CommandOnly.refl t) (CommandOnly.ite (htaken.trans (commitEvent_commandOnly hq e))
      (CommandOnly.ite (CommandOnly.refl t) (htaken.trans (CommandOnly.ite (CommandOnly.setIface hq rfl) (CommandOnly.refl _)))))

theorem deliverFrom_commandOnly (k n : Nat) {s : State} (hq : s.mayChange q) : CommandOnly s (State.deliverFrom q k n s) := by
  induction k generalizing n s with
  | zero => exact CommandOnly.refl s
  | succ k ih =>
    have hone := deliverEvent_commandOnly hq n
    exact hone.trans (CommandOnly.ite (ih _ (hone.mayChange hq)) (ih _ (hone.mayChange hq)))

/-- The events of a Security state are settled. -/
theorem settled_commandOnly {s : State} (hq : s.mayChange q) : CommandOnly s ((s.flushEvents q).staleStalls q) := by
  have hflushed : CommandOnly s (s.flushEvents q) := deliverFrom_commandOnly _ _ hq
  exact hflushed.trans (staleStalls_commandOnly (hflushed.mayChange hq))

end

theorem syncEvents_commandOnly (s : State) : CommandOnly s s.syncEvents := by
  have hns : CommandOnly s ((s.flushEvents .ns).staleStalls .ns) := settled_commandOnly fun _ => rfl
  unfold State.syncEvents
  dsimp only
  split
  · exact hns
  · next hcur => exact hns.trans (settled_commandOnly (hns.mayChange fun h => absurd (hcur.symm.trans h) (by decide)))

/-! ### Invalidations -/

theorem beginInval_commandOnly (s : State) (i : Inval) : CommandOnly s (s.beginInval i).2 := by
  have happly : CommandOnly s (s.applyInval i) := by
    by_cases h : ∃ p, i.scope = .tlb p
    · obtain ⟨p, hp⟩ := h
      rw [applyInval_tlb hp]
      exact CommandOnly.trans (t := (s.restarted i).invalTlb p i.subset) ⟨rfl, fun _ => rfl⟩
        (CommandOnly.ite ⟨rfl, fun _ => rfl⟩ (CommandOnly.refl _))
    · rw [applyInval_cfg (not_exists.1 h)]
      exact ⟨rfl, fun _ => rfl⟩
  unfold State.beginInval
  split
  · exact CommandOnly.refl s
  · exact happly

theorem beginAll_commandOnly (q : Sec) (l : List Inval) (s : State) : CommandOnly s (State.beginAll q l s).2 := by
  induction l generalizing s with
  | nil => exact CommandOnly.refl s
  | cons i l ih =>
    unfold State.beginAll
    split
    · exact (beginInval_commandOnly s i).trans (ih _)
    · exact ih s

theorem completeInvals_commandOnly (s : State) (q : Sec) : CommandOnly s (s.completeInvals q) :=
  (beginAll_commandOnly q s.pendingInval s).trans ⟨rfl, fun _ => rfl⟩

theorem pend_commandOnly (s : State) (i : InvScope) (subset : Option Nat) : CommandOnly s (s.pend i subset) := ⟨rfl, fun _ => rfl⟩

/-! ### Operands -/

/-- Only free values were taken. -/
def Drew (s t : State) : Prop := ∃ d, s.draw ≤ d ∧ t = { s with draw := d }

namespace Drew

theorem refl (s : State) : Drew s s := ⟨s.draw, Nat.le_refl _, rfl⟩

theorem drawn (s : State) : Drew s s.drawn := ⟨s.draw + 1, Nat.le_add_right _ 1, rfl⟩

theorem trans {s t u : State} (h : Drew s t) (h' : Drew t u) : Drew s u := by
  obtain ⟨d, hd, rfl⟩ := h
  obtain ⟨d', hd', rfl⟩ := h'
  exact ⟨d', Nat.le_trans hd hd', rfl⟩

theorem commandOnly {s t : State} (h : Drew s t) : CommandOnly s t := by
  obtain ⟨d, -, rfl⟩ := h
  exact ⟨rfl, fun _ => rfl⟩

end Drew

theorem sidParam_drew (s : State) (sec : Sec) (sid : BitVec 32) : Drew s (s.sidParam sec sid).2 := by
  unfold State.sidParam
  split
  · exact Drew.refl s
  · split <;> exact Drew.drawn s

theorem ssidParam_drew (s : State) (ssid : BitVec 20) : Drew s (s.ssidParam ssid).2 := by
  unfold State.ssidParam
  split
  · exact Drew.refl s
  · split <;> exact Drew.drawn s

theorem substreamParam_drew (s : State) (ssv : Bool) (ssid : BitVec 20) : Drew s (s.substreamParam ssv ssid).2 := by
  unfold State.substreamParam
  split
  · exact Drew.refl s
  · split
    · split <;> exact Drew.drawn s
    · split
      · next h => exact of_result h (ssidParam_drew s ssid)
      · next h => exact of_result h (ssidParam_drew s ssid)

theorem pasidParam_drew (s : State) (ssv : Bool) (ssid : BitVec 20) : Drew s (s.pasidParam ssv ssid).2 := by
  unfold State.pasidParam
  split
  · exact Drew.refl s
  · split
    · split
      · next h => exact of_result h (ssidParam_drew s ssid)
      · next h => exact of_result h (ssidParam_drew s ssid)
    · split <;> exact Drew.drawn s

theorem vmidRes0_drew (s : State) (vmid : BitVec 16) : Drew s (s.vmidRes0 vmid).2 := by
  unfold State.vmidRes0
  split
  · exact Drew.refl s
  · exact Drew.drawn s

/-! ### The ends of a command -/

theorem done_commandOnly {s t : State} (h : CommandOnly s t) : OutRel CommandOnly s (done t) :=
  OutRel.next (h.trans (consume_commandOnly t))

theorem ill_commandOnly (s : State) : OutRel CommandOnly s (ill s) := OutRel.next (cmdError_commandOnly s .ill)

theorem OutRel.afterDrew {s t : State} {o : Out} (h : OutRel CommandOnly t o) (h' : Drew s t) : OutRel CommandOnly s o :=
  fun u hu => h'.commandOnly.trans (h u hu)

/-! ### Prefetch and invalidation commands -/

theorem prefetchCmd_commandOnly (s : State) (sec : Sec) (ssv : Bool) (ssid : BitVec 20) (sid : BitVec 32)
    (addr : Option (W64 × Nat × Nat)) : CommandOnly s (s.prefetchCmd sec ssv ssid sid addr) := by
  refine CommandOnly.ite (CommandOnly.refl s) ?_
  split
  · next h => exact (of_result h (sidParam_drew s sec sid)).commandOnly
  · next h =>
    have hsid := of_result h (sidParam_drew s sec sid)
    split
    · next h => exact (hsid.trans (of_result h (substreamParam_drew _ ssv ssid))).commandOnly
    · next h => exact (hsid.trans (of_result h (substreamParam_drew _ ssv ssid))).commandOnly.trans ⟨rfl, fun _ => rfl⟩

theorem execPrefetchConfig_commandOnly (ssec ssv : Bool) (ssid : BitVec 20) (sid : BitVec 32) (res : CmdWord) (s : State) :
    OutRel CommandOnly s (execPrefetchConfig ssec ssv ssid sid res s) := by
  unfold execPrefetchConfig
  split
  · exact ill_commandOnly s
  · exact OutRel.ite (ill_commandOnly s) (done_commandOnly (prefetchCmd_commandOnly s _ _ _ _ _))

theorem execPrefetchAddr_commandOnly (ssec ssv : Bool) (ssid : BitVec 20) (sid : BitVec 32) (size stride : BitVec 5) (addr : BitVec 52)
    (res : CmdWord) (s : State) : OutRel CommandOnly s (execPrefetchAddr ssec ssv ssid sid size stride addr res s) := by
  unfold execPrefetchAddr
  split
  · exact ill_commandOnly s
  · exact OutRel.ite (ill_commandOnly s) (OutRel.ite (ill_commandOnly s) (done_commandOnly (prefetchCmd_commandOnly s _ _ _ _ _)))

/-- A command that asks for an invalidation. -/
theorem pended_commandOnly (s : State) (i : InvScope) (subset : Option Nat) : OutRel CommandOnly s (done (s.pend i subset)) :=
  done_commandOnly (pend_commandOnly s i subset)

theorem execCfgiSte_commandOnly (ssec : Bool) (sid : BitVec 32) (leaf : Bool) (res : CmdWord) (s : State) :
    OutRel CommandOnly s (execCfgiSte ssec sid leaf res s) := by
  unfold execCfgiSte
  split
  · exact ill_commandOnly s
  · refine OutRel.ite (ill_commandOnly s) ?_
    split
    · next h => exact done_commandOnly (of_result h (sidParam_drew s _ _)).commandOnly
    · next h => exact OutRel.afterDrew (pended_commandOnly _ _ _) (of_result h (sidParam_drew s _ _))

theorem execCfgiSteRange_commandOnly (ssec : Bool) (sid : BitVec 32) (range : BitVec 5) (res : CmdWord) (s : State) :
    OutRel CommandOnly s (execCfgiSteRange ssec sid range res s) := by
  unfold execCfgiSteRange
  split
  · exact ill_commandOnly s
  · refine OutRel.ite (ill_commandOnly s) ?_
    split
    · next h => exact done_commandOnly (of_result h (sidParam_drew s _ _)).commandOnly
    · next h => exact OutRel.afterDrew (pended_commandOnly _ _ _) (of_result h (sidParam_drew s _ _))

theorem execCfgiAll_commandOnly (ssec : Bool) (sid : BitVec 32) (res : CmdWord) (s : State) :
    OutRel CommandOnly s (execCfgiAll ssec sid res s) := by
  unfold execCfgiAll
  split
  · exact ill_commandOnly s
  · exact OutRel.ite (ill_commandOnly s) (pended_commandOnly s _ _)

theorem execCfgiCd_commandOnly (ssec : Bool) (ssid : BitVec 20) (sid : BitVec 32) (leaf : Bool) (res : CmdWord) (s : State) :
    OutRel CommandOnly s (execCfgiCd ssec ssid sid leaf res s) := by
  refine OutRel.ite (ill_commandOnly s) ?_
  split
  · exact ill_commandOnly s
  · refine OutRel.ite (ill_commandOnly s) ?_
    split
    · next h => exact done_commandOnly (of_result h (sidParam_drew s _ _)).commandOnly
    · next h =>
      refine OutRel.afterDrew ?_ (of_result h (sidParam_drew s _ _))
      split
      · next h => exact done_commandOnly (of_result h (ssidParam_drew _ _)).commandOnly
      · next h => exact OutRel.afterDrew (pended_commandOnly _ _ _) (of_result h (ssidParam_drew _ _))

theorem execCfgiCdAll_commandOnly (ssec : Bool) (sid : BitVec 32) (res : CmdWord) (s : State) :
    OutRel CommandOnly s (execCfgiCdAll ssec sid res s) := by
  refine OutRel.ite (ill_commandOnly s) ?_
  split
  · exact ill_commandOnly s
  · refine OutRel.ite (ill_commandOnly s) ?_
    split
    · next h => exact done_commandOnly (of_result h (sidParam_drew s _ _)).commandOnly
    · next h => exact OutRel.afterDrew (pended_commandOnly _ _ _) (of_result h (sidParam_drew s _ _))

theorem nhCmd_commandOnly (vmid : BitVec 16) (asid : Option (BitVec 16 × Bool)) (addr : Option W64) (leaf : Bool) (res : CmdWord)
    (s : State) : OutRel CommandOnly s (nhCmd vmid asid addr leaf res s) := by
  refine OutRel.ite (ill_commandOnly s) (OutRel.ite (ill_commandOnly s) ?_)
  split
  · next h => exact done_commandOnly (of_result h (vmidRes0_drew s vmid)).commandOnly
  · next h => exact OutRel.afterDrew (pended_commandOnly _ _ _) (of_result h (vmidRes0_drew s vmid))

/-- A command that is ILLEGAL for one of two reasons, or asks for one invalidation. -/
theorem pendUnlessIll_commandOnly {c d : Prop} [Decidable c] [Decidable d] (s : State) (i : InvScope) :
    OutRel CommandOnly s (if c then ill s else if d then ill s else done (s.pend i none)) :=
  OutRel.ite (ill_commandOnly s) (OutRel.ite (ill_commandOnly s) (pended_commandOnly s i none))

theorem execTlbiEl2Asid_commandOnly (asid : BitVec 16) (res : CmdWord) (s : State) : OutRel CommandOnly s (execTlbiEl2Asid asid res s) :=
  OutRel.ite (ill_commandOnly s) (OutRel.ite (ill_commandOnly s) (OutRel.ite
    (OutRel.afterDrew (pended_commandOnly _ _ _) (Drew.drawn s)) (pended_commandOnly s _ _)))

theorem el2Va_commandOnly (s : State) (asid : Option (BitVec 16 × Bool)) (leaf : Bool) (addr : BitVec 52) :
    CommandOnly s (s.el2Va asid leaf addr) :=
  CommandOnly.ite (((Drew.drawn s).trans (Drew.drawn _)).commandOnly.trans ((pend_commandOnly _ _ _).trans (pend_commandOnly _ _ _)))
    (CommandOnly.ite (pend_commandOnly s _ _) (pend_commandOnly s _ _))

/-- A command by address of an EL2 regime, ILLEGAL for one of two reasons. -/
theorem el2VaUnlessIll_commandOnly {c d : Prop} [Decidable c] [Decidable d] (s : State) (asid : Option (BitVec 16 × Bool)) (leaf : Bool)
    (addr : BitVec 52) : OutRel CommandOnly s (if c then ill s else if d then ill s else done (s.el2Va asid leaf addr)) :=
  OutRel.ite (ill_commandOnly s) (OutRel.ite (ill_commandOnly s) (done_commandOnly (el2Va_commandOnly s asid leaf addr)))

/-! ### Commands to the ATS port -/

theorem sendAtc_commandOnly (s : State) (r : AtcReq) : CommandOnly s (s.sendAtc r) :=
  (emit_commandOnly s _).trans (setAtc_commandOnly (mayChange_curQ _) _)

theorem atcInv_commandOnly (s : State) (glob ssv : Bool) (ssid : BitVec 20) (sid : BitVec 32) (size : BitVec 6) (addr : BitVec 52) :
    CommandOnly s (s.atcInv glob ssv ssid sid size addr) := by
  refine CommandOnly.ite (CommandOnly.refl s) ?_
  split
  · next h => exact (of_result h (sidParam_drew s _ sid)).commandOnly
  · next h =>
    have hsid := of_result h (sidParam_drew s _ sid)
    split
    · next h => exact (hsid.trans (of_result h (pasidParam_drew _ ssv ssid))).commandOnly
    · next h => exact (hsid.trans (of_result h (pasidParam_drew _ ssv ssid))).commandOnly.trans (sendAtc_commandOnly _ _)

theorem execAtcInv_commandOnly (glob ssv : Bool) (ssid : BitVec 20) (sid : BitVec 32) (size : BitVec 6) (addr : BitVec 52) (res : CmdWord)
    (s : State) : OutRel CommandOnly s (execAtcInv glob ssv ssid sid size addr res s) := by
  refine OutRel.ite (ill_commandOnly s) (OutRel.ite (ill_commandOnly s) (OutRel.ite (ill_commandOnly s) (OutRel.ite ?large
    (done_commandOnly (atcInv_commandOnly s _ _ _ _ _ _)))))
  exact OutRel.ite (OutRel.afterDrew (ill_commandOnly _) (Drew.drawn s)) (OutRel.ite (done_commandOnly (drawn_commandOnly s))
    (done_commandOnly ((drawn_commandOnly s).trans (atcInv_commandOnly _ _ _ _ _ _ _))))

theorem execPriResp_commandOnly (ssv : Bool) (ssid : BitVec 20) (sid : BitVec 32) (group : BitVec 9) (resp : BitVec 2) (res : CmdWord)
    (s : State) : OutRel CommandOnly s (execPriResp ssv ssid sid group resp res s) := by
  refine OutRel.ite (ill_commandOnly s) (OutRel.ite (ill_commandOnly s) (OutRel.ite (ill_commandOnly s) (OutRel.ite (ill_commandOnly s)
    (OutRel.ite (done_commandOnly (CommandOnly.refl s)) ?_))))
  split
  · next h => exact done_commandOnly (of_result h (sidParam_drew s _ sid)).commandOnly
  · next h =>
    have hsid := of_result h (sidParam_drew s _ sid)
    split
    · next h => exact done_commandOnly (hsid.trans (of_result h (pasidParam_drew _ ssv ssid))).commandOnly
    · next h =>
      exact done_commandOnly ((hsid.trans (of_result h (pasidParam_drew _ ssv ssid))).commandOnly.trans (emit_commandOnly _ _))

/-! ### Commands for stalled transactions -/

/-- The stalled transaction that a CMD_RESUME is for is one of its stream. -/
theorem findStall_sec {s : State} {sec : Sec} {sid : BitVec 32} {stag : BitVec 16} {n : Nat} (h : s.findStall sec sid stag = some n)
    {x : Stall} (hx : s.stalled[n]? = some x) : x.txn.sec = sec := by
  have hfound {p : Stall → Bool} (hn : s.stalled.findIdx? p = some n) : p x = true := by
    obtain ⟨hlt, hp, -⟩ := List.findIdx?_eq_some_iff_getElem.1 hn
    obtain ⟨_, rfl⟩ := List.getElem?_eq_some_iff.1 hx
    exact hp
  unfold State.findStall at h
  dsimp only at h
  split at h
  · next m hm =>
    obtain rfl : m = n := Option.some.inj h
    have hhit := hfound hm
    simp only [Bool.and_eq_true, beq_iff_eq] at hhit
    exact hhit.1.1.1
  · have hhit := hfound h
    simp only [Bool.and_eq_true, beq_iff_eq] at hhit
    exact hhit.1.1

theorem resumeStall_commandOnly {s : State} {n : Nat} (a : StallAct) (hq : ∀ x, s.stalled[n]? = some x → s.mayChange x.txn.sec) :
    CommandOnly s (s.resumeStall n a) := by
  unfold State.resumeStall
  split
  · exact CommandOnly.refl s
  · exact CommandOnly.ite (markStall_commandOnly a hq)
      (CommandOnly.ite ((drawn_commandOnly s).trans (markStall_commandOnly (s := s.drawn) a hq)) (drawn_commandOnly s))

theorem execResume_commandOnly (ssec ac ab : Bool) (sid : BitVec 32) (stag : BitVec 16) (res : CmdWord) (s : State) :
    OutRel CommandOnly s (execResume ssec ac ab sid stag res s) := by
  refine OutRel.ite (ill_commandOnly s) ?_
  split
  · exact ill_commandOnly s
  · next sec hsec =>
    refine OutRel.ite (ill_commandOnly s) ?_
    split
    · next h => exact done_commandOnly (of_result h (sidParam_drew s _ sid)).commandOnly
    · next h =>
      have hsid := of_result h (sidParam_drew s _ sid)
      have hq := hsid.commandOnly.mayChange (mayChange_of_sec hsec)
      refine OutRel.afterDrew ?_ hsid
      split
      · exact done_commandOnly (ackStag_commandOnly hq _ _)
      · next n hn =>
        refine done_commandOnly (resumeStall_commandOnly _ fun x hx => ?_)
        rw [findStall_sec hn hx]
        exact hq

theorem termStalls_commandOnly {sec : Sec} (sid : BitVec 32) (pick : Nat → Bool) (k n : Nat) {s : State} (hq : s.mayChange sec) :
    CommandOnly s (State.termStalls sec sid pick k n s) := by
  induction k generalizing n s with
  | zero => exact CommandOnly.refl s
  | succ k ih =>
    unfold State.termStalls
    split
    · exact CommandOnly.refl s
    · next x hx =>
      have hone : CommandOnly s (if x.txn.sec == sec && x.txn.sid == sid && pick n then s.markStall n .abort else s) := by
        split
        · next hpick =>
          simp only [Bool.and_eq_true, beq_iff_eq] at hpick
          refine markStall_commandOnly .abort fun y hy => ?_
          obtain rfl : x = y := Option.some.inj (hx.symm.trans hy)
          rw [hpick.1.1]
          exact hq
        · exact CommandOnly.refl s
      exact hone.trans (ih _ (hone.mayChange hq))

theorem stallTerm_commandOnly {s : State} {sec : Sec} (hq : s.mayChange sec) (sid : BitVec 32) : CommandOnly s (s.stallTerm sec sid) := by
  refine CommandOnly.ite ((termStalls_commandOnly sid _ _ _ hq).trans ⟨rfl, fun _ => rfl⟩) ?_
  have hmarked := termStalls_commandOnly sid (fun i => bit (Config.freeValue (s.draw + i / 512)) (i % 512)) s.stalled.length 0 hq
  exact hmarked.trans ((setEvents_commandOnly (hmarked.mayChange hq) _).trans ⟨rfl, fun _ => rfl⟩)

theorem execStallTerm_commandOnly (ssec : Bool) (sid : BitVec 32) (res : CmdWord) (s : State) :
    OutRel CommandOnly s (execStallTerm ssec sid res s) := by
  refine OutRel.ite (ill_commandOnly s) ?_
  split
  · exact ill_commandOnly s
  · next sec hsec =>
    refine OutRel.ite (ill_commandOnly s) ?_
    split
    · next h => exact done_commandOnly (of_result h (sidParam_drew s _ sid)).commandOnly
    · next h =>
      have hsid := of_result h (sidParam_drew s _ sid)
      exact OutRel.afterDrew (done_commandOnly (stallTerm_commandOnly (hsid.commandOnly.mayChange (mayChange_of_sec hsec)) _)) hsid

/-! ### CMD_SYNC -/

theorem syncSignal_commandOnly (s : State) (cs msh : BitVec 2) (attr : BitVec 4) (data : W32) (addr : BitVec 50) :
    CommandOnly s (s.syncSignal cs msh attr data addr) :=
  CommandOnly.ite (pushIrqs_commandOnly s _) (CommandOnly.ite (emit_commandOnly s _) (CommandOnly.refl s))

theorem syncDone_commandOnly (s : State) (cs msh : BitVec 2) (attr : BitVec 4) (data : W32) (addr : BitVec 50) :
    CommandOnly s (s.syncDone cs msh attr data addr) := by
  have hlogged : CommandOnly s { s with steLog := s.steLog ++ [.synced s.curQ] } := ⟨rfl, fun _ => rfl⟩
  have hflushed := hlogged.trans (flushSyncs_commandOnly s.irqs.length (hlogged.mayChange (mayChange_curQ s)))
  exact (hflushed.trans (syncEvents_commandOnly _)).trans (syncSignal_commandOnly _ _ _ _ _ _)

/-- The requests that timed out are those of the running command's queue. -/
theorem clearAtc_commandOnly (s : State) : CommandOnly s s.clearAtc := by
  unfold State.clearAtc
  split
  · exact ⟨rfl, fun _ => rfl⟩
  · next hcur => exact ⟨rfl, fun h => absurd (hcur.symm.trans h) (by decide)⟩

theorem doneSync_commandOnly {s t : State} (h : CommandOnly s t) : OutRel CommandOnly s (doneSync t) :=
  OutRel.next (h.trans ((consume_commandOnly t).trans
    (showCons_commandOnly ((consume_commandOnly t).mayChange (mayChange_curQ t)))))

theorem execSync_commandOnly (cs msh : BitVec 2) (attr : BitVec 4) (data : W32) (addr : BitVec 50) (res : CmdWord) (s : State) :
    OutRel CommandOnly s (execSync cs msh attr data addr res s) := by
  have hinvals := completeInvals_commandOnly s s.curQ
  refine OutRel.ite (ill_commandOnly s) (OutRel.ite (ill_commandOnly s) (OutRel.ite
    (OutRel.ite ?late (OutRel.next (CommandOnly.refl s))) (OutRel.ite (OutRel.next (CommandOnly.refl s))
      (OutRel.ite (OutRel.next hinvals) ?complete))))
  case late => exact OutRel.next ((clearAtc_commandOnly s).trans (cmdError_commandOnly _ _))
  case complete => exact doneSync_commandOnly (hinvals.trans (syncDone_commandOnly _ _ _ _ _ _))

/-! ### Every command -/

theorem exec_commandOnly (i : Instr) (s : State) : OutRel CommandOnly s (exec i s) := by
  cases i with
  | prefetchConfig => exact execPrefetchConfig_commandOnly _ _ _ _ _ s
  | prefetchAddr => exact execPrefetchAddr_commandOnly _ _ _ _ _ _ _ _ s
  | cfgiSte => exact execCfgiSte_commandOnly _ _ _ _ s
  | cfgiSteRange => exact execCfgiSteRange_commandOnly _ _ _ _ s
  | cfgiAll ssec sid res => exact execCfgiAll_commandOnly ssec sid res s
  | cfgiCd => exact execCfgiCd_commandOnly _ _ _ _ _ s
  | cfgiCdAll => exact execCfgiCdAll_commandOnly _ _ _ s
  | tlbiNhAll => exact nhCmd_commandOnly _ _ _ _ _ s
  | tlbiNhAsid => exact nhCmd_commandOnly _ _ _ _ _ s
  | tlbiNhVa => exact nhCmd_commandOnly _ _ _ _ _ s
  | tlbiNhVaa => exact nhCmd_commandOnly _ _ _ _ _ s
  | tlbiEl3All => exact pendUnlessIll_commandOnly s _
  | tlbiEl3Va => exact pendUnlessIll_commandOnly s _
  | tlbiEl2All => exact pendUnlessIll_commandOnly s _
  | tlbiEl2Asid => exact execTlbiEl2Asid_commandOnly _ _ s
  | tlbiEl2Va => exact el2VaUnlessIll_commandOnly s _ _ _
  | tlbiEl2Vaa => exact el2VaUnlessIll_commandOnly s _ _ _
  | tlbiS12Vmall => exact pendUnlessIll_commandOnly s _
  | tlbiS2Ipa => exact pendUnlessIll_commandOnly s _
  | tlbiNsnhAll => exact OutRel.ite (ill_commandOnly s) (pended_commandOnly s _ _)
  | atcInv => exact execAtcInv_commandOnly _ _ _ _ _ _ _ s
  | priResp => exact execPriResp_commandOnly _ _ _ _ _ _ s
  | resume => exact execResume_commandOnly _ _ _ _ _ _ s
  | stallTerm => exact execStallTerm_commandOnly _ _ _ s
  | sync => exact execSync_commandOnly _ _ _ _ _ _ s
  | reserved w => exact ill_commandOnly s
  | impdef w => exact OutRel.ite (OutRel.refused s _) (ill_commandOnly s)

/-- Settles O59. -/
theorem commandsKeepRegisters : Obligations.CommandsKeepRegisters := by
  intro i s t h
  have honly := exec_commandOnly i s t h
  exact ⟨honly.frame, honly.registers⟩

/-- Settles O60. -/
theorem nonSecureCommandsSpareSecureParts : Obligations.NonSecureCommandsSpareSecureParts := by
  intro i s t hq h
  obtain ⟨-, hspared⟩ := exec_commandOnly i s t h
  have hparts := hspared hq
  simpa only [State.secureParts, Prod.mk.injEq] using hparts

end Sys2Proof.Machine
end

section
/-! PROOF. StreamIDs and SubstreamIDs out of range (30_encoding.md R1056): a command that has them is settled as one of no effect, or as
the same command with operands in range. -/
namespace Sys2Proof.Machine

/-! ### How an operand is settled -/

/-- The state after free values were taken, up to the draw `d`. -/
def State.withDraw (s : State) (d : Nat) : State := { s with draw := d }

/-- An operand `b`, read by `f`, gives no value, or one that an operand in range stands for whatever free values were taken. -/
def Resolves {β γ : Type} (s : State) (f : State → β → Option γ × State) (ok : β → Prop) (b : β) : Prop :=
  ∀ d, ∃ d', d ≤ d' ∧ (f (s.withDraw d) b = (none, s.withDraw d') ∨ ∃ b' x, ok b' ∧
    f (s.withDraw d) b = (some x, s.withDraw d') ∧ ∀ n, f (s.withDraw n) b' = (some x, s.withDraw n))

section
variable {β γ : Type} {s : State} {f : State → β → Option γ × State} {ok : β → Prop} {b : β}

/-- An operand that is in range itself, or that another one in range stands for. -/
theorem resolves_of_value {b' : β} {x : γ} (hok : ok b') (h : ∀ n, f (s.withDraw n) b = (some x, s.withDraw n))
    (h' : ∀ n, f (s.withDraw n) b' = (some x, s.withDraw n)) : Resolves s f ok b :=
  fun d => ⟨d, Nat.le_refl d, .inr ⟨b', x, hok, h d, h'⟩⟩

/-- An operand that one free value settles. -/
theorem resolves_of_draw (h : ∀ n, f (s.withDraw n) b = (none, s.withDraw (n + 1)) ∨ ∃ b' x, ok b' ∧
    f (s.withDraw n) b = (some x, s.withDraw (n + 1)) ∧ ∀ m, f (s.withDraw m) b' = (some x, s.withDraw m)) : Resolves s f ok b :=
  fun d => ⟨d + 1, Nat.le_add_right d 1, h d⟩

end

section
variable (s : State)

theorem sidParam_resolves (sec : Sec) (sid : BitVec 32) :
    Resolves s (fun s v => s.sidParam sec v) (fun v => v.toNat < 2 ^ s.sidSize sec) sid := by
  have hin (v : BitVec 32) (hv : v.toNat < 2 ^ s.sidSize sec) (n : Nat) : (s.withDraw n).sidParam sec v = (some v, s.withDraw n) :=
    sidParam_in (s.withDraw n) sec v hv
  by_cases h : sid.toNat < 2 ^ s.sidSize sec
  · exact resolves_of_value h (hin sid h) (hin sid h)
  · refine resolves_of_draw fun n => ?_
    obtain hnone | ⟨x, hx, hlt⟩ := sidParam_out (s.withDraw n) sec sid h
    · exact .inl hnone
    · exact .inr ⟨x, x, hlt, hx, hin x hlt⟩

theorem ssidParam_resolves (ssid : BitVec 20) :
    Resolves s State.ssidParam (fun k => k.toNat < 2 ^ s.ssidSize) ssid := by
  have hin (k : BitVec 20) (hk : k.toNat < 2 ^ s.ssidSize) (n : Nat) : (s.withDraw n).ssidParam k = (some k, s.withDraw n) :=
    ssidParam_in (s.withDraw n) k hk
  by_cases h : ssid.toNat < 2 ^ s.ssidSize
  · exact resolves_of_value h (hin ssid h) (hin ssid h)
  · refine resolves_of_draw fun n => ?_
    obtain hnone | ⟨x, hx, hlt⟩ := ssidParam_out (s.withDraw n) ssid h
    · exact .inl hnone
    · exact .inr ⟨x, x, hlt, hx, hin x hlt⟩

/-- The SubstreamID of a command, with its SSV, is in range; there is one only if the command `ssv` has one and there are substreams. -/
def State.subInRange (ssv : Bool) (b : Bool × BitVec 20) : Prop :=
  b.2.toNat < 2 ^ s.ssidSize ∧ (b.1 = true → ssv = true ∧ s.ssidSize ≠ 0)

theorem subInRange_none (ssv : Bool) : s.subInRange ssv (false, 0) := ⟨by simp, fun h => absurd h (by decide)⟩

/-- An optional SubstreamID `f`: it is read as `ssidParam` does where there are substreams; else a draw says whether there is none or the
command has no effect. -/
theorem substream_resolves {f : State → Bool × BitVec 20 → Option (Option (BitVec 20)) × State} (ssv : Bool) (ssid : BitVec 20)
    (habsent : ∀ n k, f (s.withDraw n) (false, k) = (some none, s.withDraw n))
    (hunsupported : ∀ n, s.ssidSize = 0 →
      f (s.withDraw n) (true, ssid) = (if bit (s.withDraw n).free 511 then some none else none, s.withDraw (n + 1)))
    (hvalue : ∀ n k x u, s.ssidSize ≠ 0 → (s.withDraw n).ssidParam k = (some x, u) → f (s.withDraw n) (true, k) = (some (some x), u))
    (hnone : ∀ n k u, s.ssidSize ≠ 0 → (s.withDraw n).ssidParam k = (none, u) → f (s.withDraw n) (true, k) = (none, u)) :
    Resolves s f (s.subInRange ssv) (ssv, ssid) := by
  cases ssv with
  | false => exact resolves_of_value (subInRange_none s false) (fun n => habsent n ssid) (fun n => habsent n 0)
  | true =>
    by_cases hsub : s.ssidSize = 0
    · refine resolves_of_draw fun n => ?_
      rw [hunsupported n hsub]
      split
      · exact .inr ⟨(false, 0), none, subInRange_none s true, rfl, fun m => habsent m 0⟩
      · exact .inl rfl
    · intro d
      obtain ⟨d', hle, h | ⟨k, x, hk, hx, hkx⟩⟩ := ssidParam_resolves s ssid d
      · exact ⟨d', hle, .inl (hnone d ssid _ hsub h)⟩
      · exact ⟨d', hle, .inr ⟨(true, k), some x, ⟨hk, fun _ => ⟨rfl, hsub⟩⟩, hvalue d ssid x _ hsub hx,
          fun n => hvalue n k x _ hsub (hkx n)⟩⟩

theorem withDraw_ssidSize (n : Nat) : (s.withDraw n).ssidSize = s.ssidSize := rfl

theorem substreamParam_resolves (ssv : Bool) (ssid : BitVec 20) :
    Resolves s (fun s b => s.substreamParam b.1 b.2) (s.subInRange ssv) (ssv, ssid) := by
  refine substream_resolves s ssv ssid (fun _ _ => rfl) (fun n h => ?_) (fun n k x u h hx => ?_) fun n k u h hx => ?_
  · simp only [State.substreamParam, withDraw_ssidSize, h, Bool.not_true, Bool.false_eq_true, if_false, if_true]
    split <;> rfl
  · simp [State.substreamParam, withDraw_ssidSize, h, hx]
  · simp [State.substreamParam, withDraw_ssidSize, h, hx]

theorem pasidParam_resolves (ssv : Bool) (ssid : BitVec 20) :
    Resolves s (fun s b => s.pasidParam b.1 b.2) (s.subInRange ssv) (ssv, ssid) := by
  refine substream_resolves s ssv ssid (fun _ _ => rfl) (fun n h => ?_) (fun n k x u h hx => ?_) fun n k u h hx => ?_
  · simp only [State.pasidParam, State.pasids, withDraw_ssidSize, h, Bool.not_true, Bool.false_eq_true, if_false, ne_eq, not_true,
      decide_false]
    split <;> rfl
  · simp [State.pasidParam, State.pasids, withDraw_ssidSize, h, hx]
  · simp [State.pasidParam, State.pasids, withDraw_ssidSize, h, hx]

end

/-! ### How a command is settled -/

/-- A command left `u` before its Consumption: no effect, or the effect `E` of one of the commands `P`, after free values were taken. -/
def Settles (s u : State) (P : Instr → Prop) (E : State → State → Prop) : Prop :=
  ∃ d, s.draw ≤ d ∧ (u = s.withDraw d ∨ E (s.withDraw d) u ∧ ∃ i, P i ∧ exec i (s.withDraw d) = done u)

theorem AsOneOf.mono {s t : State} {P Q : Instr → Prop} (h : AsOneOf s t P) (hPQ : ∀ i, P i → Q i) : AsOneOf s t Q := by
  obtain ⟨d, hle, h | ⟨i, hi, hexec⟩⟩ := h
  · exact ⟨d, hle, .inl h⟩
  · exact ⟨d, hle, .inr ⟨i, hPQ i hi, hexec⟩⟩

/-- A command that is settled, where what it leaves has the property `K` in either case. -/
theorem exists_of_settles {s u : State} {c : Instr} {P Q : Instr → Prop} {E : State → State → Prop} {K : State → Prop}
    (hexec : exec c s = done u) (h : Settles s u P E) (hnone : ∀ d, K (s.withDraw d).consume)
    (heffect : ∀ d u, E (s.withDraw d) u → K u.consume) (hPQ : ∀ i, P i → Q i) : ∃ t, exec c s = .next t ∧ K t ∧ AsOneOf s t Q := by
  obtain ⟨d, hle, rfl | ⟨hu, i, hi, hrun⟩⟩ := h
  · exact ⟨_, hexec, hnone d, d, hle, .inl rfl⟩
  · exact ⟨_, hexec, heffect d u hu, d, hle, .inr ⟨i, hPQ i hi, hrun⟩⟩

/-- The effect `e` of an operand that was read: none where the operand gives no value. -/
def effect {γ : Type} (r : Option γ × State) (e : γ → State → State) : State :=
  match r.1 with
  | none => r.2
  | some x => e x r.2

theorem effect_none {γ : Type} {r : Option γ × State} {u : State} (e : γ → State → State) (h : r = (none, u)) : effect r e = u := by
  rw [h, effect]

theorem effect_some {γ : Type} {r : Option γ × State} {x : γ} {u : State} (e : γ → State → State) (h : r = (some x, u)) :
    effect r e = e x u := by
  rw [h, effect]

/-- A command with one operand. -/
theorem settles_of_operand {α γ : Type} {s : State} {f : State → α → Option γ × State} {ok : α → Prop} {c : α → Instr}
    {e : γ → State → State} {a : α} (ha : Resolves s f ok a)
    (hexec : ∀ n a, exec (c a) (s.withDraw n) = done (effect (f (s.withDraw n) a) e)) :
    ∃ u, exec (c a) s = done u ∧ Settles s u (fun i => ∃ a, ok a ∧ i = c a) fun v u => ∃ x, u = e x v := by
  refine ⟨_, hexec s.draw a, ?_⟩
  obtain ⟨d, hd, hx | ⟨a', x, hok, hx, hx'⟩⟩ := ha s.draw
  · exact ⟨d, hd, .inl (effect_none e hx)⟩
  · have hu := effect_some e hx
    have hrun := effect_some e (hx' d)
    exact ⟨d, hd, .inr ⟨⟨x, hu⟩, c a', ⟨a', hok, rfl⟩, by rw [hexec, hrun, hu]⟩⟩

/-- A command with two operands, the second read after the first. -/
theorem settles_of_operands {α β γ δ : Type} {s : State} {f : State → α → Option γ × State} {g : State → β → Option δ × State}
    {okA : α → Prop} {okB : β → Prop} {c : α → β → Instr} {e : γ → δ → State → State} {a : α} {b : β}
    (ha : Resolves s f okA a) (hb : Resolves s g okB b)
    (hexec : ∀ n a b, exec (c a b) (s.withDraw n) = done (effect (f (s.withDraw n) a) fun x u => effect (g u b) (e x))) :
    ∃ u, exec (c a b) s = done u ∧
      Settles s u (fun i => ∃ a b, okA a ∧ okB b ∧ i = c a b) fun v u => ∃ x y, u = e x y v := by
  refine ⟨_, hexec s.draw a b, ?_⟩
  obtain ⟨d, hd, hx | ⟨a', x, hok, hx, hx'⟩⟩ := ha s.draw
  · exact ⟨d, hd, .inl (effect_none _ hx)⟩
  · rw [effect_some _ hx]
    obtain ⟨d', hd', hy | ⟨b', y, hok', hy, hy'⟩⟩ := hb d
    · exact ⟨d', Nat.le_trans hd hd', .inl (effect_none (e x) hy)⟩
    · have hu := effect_some (e x) hy
      have hrun := effect_some (e x) (hy' d')
      exact ⟨d', Nat.le_trans hd hd',
        .inr ⟨⟨x, y, hu⟩, c a' b', ⟨a', b', hok, hok', rfl⟩, by rw [hexec, effect_some _ (hx' d'), hrun, hu]⟩⟩

/-! ### What a settled command leaves -/

/-- Nothing was asked for. -/
theorem queued_withDraw (s : State) (d : Nat) : Queued s (s.withDraw d).consume ∧
    (s.withDraw d).consume.pendingInval = s.pendingInval ∧ (s.withDraw d).consume.prefetches = s.prefetches := by
  obtain ⟨hqueued, hinval, hpre, -⟩ := consume_after s (s.withDraw d) (by simp [State.withDraw])
  exact ⟨hqueued, hinval, hpre⟩

/-- A prefetch was asked for. -/
theorem queued_request (s : State) (d : Nat) (p : Prefetch) : Queued s ((s.withDraw d).request p).consume ∧
    ((s.withDraw d).request p).consume.pendingInval = s.pendingInval := by
  obtain ⟨hqueued, hinval, -, -⟩ := consume_after s ((s.withDraw d).request p) (by simp [State.withDraw, State.request])
  exact ⟨hqueued, hinval⟩

/-- An invalidation was asked for. -/
theorem queued_pend (s : State) (d : Nat) (sc : InvScope) : Queued s ((s.withDraw d).pend sc none).consume ∧
    ((s.withDraw d).pend sc none).consume.prefetches = s.prefetches := by
  obtain ⟨hqueued, -, hpre, -⟩ := consume_after s ((s.withDraw d).pend sc none) (by simp [State.withDraw, State.pend])
  exact ⟨hqueued, hpre⟩

/-- What was done is to stalled transactions alone. -/
theorem stallCommand_consume (s : State) (d : Nat) (l : List Stall) (m : List StagUse) (e f : List PendEv) :
    StallCommand s ({ s with draw := d, stalled := l, stags := m, eventsNs := e, eventsS := f } : State).consume := by
  obtain ⟨hconsumed, hout, hbytes, hframe⟩ :=
    consume_effect { s with draw := d, stalled := l, stags := m, eventsNs := e, eventsS := f }
  have hdraw := congrArg State.draw hframe
  have hstalled := congrArg State.stalled hframe
  have hstags := congrArg State.stags hframe
  have hns := congrArg State.eventsNs hframe
  have hs := congrArg State.eventsS hframe
  refine ⟨hconsumed, hout, hbytes, ?_⟩
  rw [hdraw, hstalled, hstags, hns, hs]
  exact hframe

/-- Messages left by the ATS port. -/
theorem portCommand_consume (s : State) (d : Nat) (l : List Output) (a b : List AtcReq) :
    PortCommand s ({ s with draw := d, out := s.out ++ l, atcNs := a, atcS := b } : State).consume l := by
  obtain ⟨hconsumed, hout, hbytes, hframe⟩ := consume_effect { s with draw := d, out := s.out ++ l, atcNs := a, atcS := b }
  have hdraw := congrArg State.draw hframe
  have hns := congrArg State.atcNs hframe
  have hs := congrArg State.atcS hframe
  refine ⟨hconsumed, hout, hbytes, ?_⟩
  rw [hdraw, hns, hs]
  exact hframe

/-- Nothing but stalled transactions, tags in use, pending records and the counter of the free values changed. -/
def StallEffect (s t : State) : Prop :=
  ∃ d l m e f, t = { s with draw := d, stalled := l, stags := m, eventsNs := e, eventsS := f }

/-- Nothing but the messages of the ATS port and the outstanding requests changed. -/
def PortEffect (s t : State) : Prop := ∃ l a b, t = { s with out := s.out ++ l, atcNs := a, atcS := b }

theorem PortEffect.refl (s : State) : PortEffect s s := ⟨[], _, _, by rw [List.append_nil]⟩

theorem portCommand_of_effect {s u : State} {d : Nat} (h : PortEffect (s.withDraw d) u) : ∃ l, PortCommand s u.consume l := by
  obtain ⟨l, a, b, rfl⟩ := h
  exact ⟨l, portCommand_consume s d l a b⟩

section
variable {s : State} {c : Instr} {P Q : Instr → Prop} {E : State → State → Prop}
  (h : ∃ u, exec c s = done u ∧ Settles s u P E) (hPQ : ∀ i, P i → Q i)
include h hPQ

/-- A command that may ask for a prefetch. -/
theorem request_settled (hE : ∀ v u, E v u → ∃ p, u = v.request p) :
    ∃ t, exec c s = .next t ∧ Queued s t ∧ t.pendingInval = s.pendingInval ∧ AsOneOf s t Q := by
  obtain ⟨u, hexec, hu⟩ := h
  obtain ⟨t, ht, ⟨hqueued, hinval⟩, hone⟩ :=
    exists_of_settles (K := fun t => Queued s t ∧ t.pendingInval = s.pendingInval) hexec hu
      (fun d => ⟨(queued_withDraw s d).1, (queued_withDraw s d).2.1⟩)
      (fun d u hu => by obtain ⟨p, rfl⟩ := hE _ u hu; exact queued_request s d p) hPQ
  exact ⟨t, ht, hqueued, hinval, hone⟩

/-- A command that may ask for an invalidation. -/
theorem pend_settled (hE : ∀ v u, E v u → ∃ sc, u = v.pend sc none) :
    ∃ t, exec c s = .next t ∧ Queued s t ∧ t.prefetches = s.prefetches ∧ AsOneOf s t Q := by
  obtain ⟨u, hexec, hu⟩ := h
  obtain ⟨t, ht, ⟨hqueued, hpre⟩, hone⟩ :=
    exists_of_settles (K := fun t => Queued s t ∧ t.prefetches = s.prefetches) hexec hu
      (fun d => ⟨(queued_withDraw s d).1, (queued_withDraw s d).2.2⟩)
      (fun d u hu => by obtain ⟨sc, rfl⟩ := hE _ u hu; exact queued_pend s d sc) hPQ
  exact ⟨t, ht, hqueued, hpre, hone⟩

/-- A command for stalled transactions. -/
theorem stall_settled (hE : ∀ v u, E v u → StallEffect v u) :
    ∃ t, exec c s = .next t ∧ StallCommand s t ∧ AsOneOf s t Q := by
  obtain ⟨u, hexec, hu⟩ := h
  refine exists_of_settles hexec hu (fun d => stallCommand_consume s d _ _ _ _) (fun d u hu => ?_) hPQ
  obtain ⟨d', l, m, e, f, rfl⟩ := hE _ u hu
  exact stallCommand_consume s d' l m e f

/-- A command to the ATS port. -/
theorem port_settled (hE : ∀ v u, E v u → PortEffect v u) :
    ∃ t l, exec c s = .next t ∧ PortCommand s t l ∧ AsOneOf s t Q := by
  obtain ⟨u, hexec, hu⟩ := h
  obtain ⟨t, ht, ⟨l, hport⟩, hone⟩ :=
    exists_of_settles (K := fun t => ∃ l, PortCommand s t l) hexec hu
      (fun d => portCommand_of_effect (PortEffect.refl (s.withDraw d))) (fun d u hu => portCommand_of_effect (hE _ u hu)) hPQ
  exact ⟨t, l, ht, hport, hone⟩

end

/-! ### Invalidations of configuration -/

section
variable (s : State) {sec : Sec} {ssec : Bool} {res : CmdWord} (hsec : s.sec ssec = some sec) (hres : s.res0Ill res 0 = false)
include hsec hres

theorem exec_cfgiSte (sid : BitVec 32) (leaf : Bool) :
    exec (.cfgiSte ssec sid leaf res) s =
      done (effect (s.sidParam sec sid) fun v u => u.pend (.ste sec v.toNat v.toNat (!leaf)) none) := by
  simp only [exec, execCfgiSte, hsec, hres, Bool.false_eq_true, if_false]
  rcases s.sidParam sec sid with ⟨_ | v, u⟩ <;> rfl

theorem exec_cfgiCd (hs1p : s.s1p = true) (ssid : BitVec 20) (sid : BitVec 32) (leaf : Bool) :
    exec (.cfgiCd ssec ssid sid leaf res) s =
      done (effect (s.sidParam sec sid) fun v u => effect (u.ssidParam ssid) fun k u =>
        u.pend (.cd sec v (some k.toNat) (!leaf)) none) := by
  simp only [exec, execCfgiCd, hs1p, hsec, hres, Bool.not_true, Bool.false_eq_true, if_false]
  rcases s.sidParam sec sid with ⟨_ | v, u⟩
  case none => rfl
  case some => rcases h : u.ssidParam ssid with ⟨_ | k, w⟩ <;> simp [effect, h]

theorem exec_cfgiCdAll (hs1p : s.s1p = true) (sid : BitVec 32) :
    exec (.cfgiCdAll ssec sid res) s =
      done (effect (s.sidParam sec sid) fun v u => u.pend (.cd sec v none true) none) := by
  simp only [exec, execCfgiCdAll, hs1p, hsec, hres, Bool.not_true, Bool.false_eq_true, if_false]
  rcases s.sidParam sec sid with ⟨_ | v, u⟩ <;> rfl

end

/-- The start of a range, whose range is the same. -/
def rangeStart (range : BitVec 5) (sid : BitVec 32) : BitVec 32 := BitVec.ofNat 32 (steRange sid range).1

theorem rangeStart_toNat (range : BitVec 5) (sid : BitVec 32) : (rangeStart range sid).toNat = (steRange sid range).1 := by
  have hle : (steRange sid range).1 ≤ sid.toNat := Nat.div_mul_le_self _ _
  exact Nat.mod_eq_of_lt (by omega)

theorem steRange_rangeStart (range : BitVec 5) (sid : BitVec 32) : steRange (rangeStart range sid) range = steRange sid range := by
  have hpos : 0 < 2 ^ (range.toNat + 1) := Nat.two_pow_pos _
  have h := rangeStart_toNat range sid
  simp only [steRange] at h ⊢
  rw [h, Nat.mul_div_cancel _ hpos]

/-- The StreamIDs of a CMD_CFGI_STE_RANGE: the range of its start, which alone can be out of range. -/
def State.rangeParam (s : State) (sec : Sec) (range : BitVec 5) (sid : BitVec 32) : Option (Nat × Nat) × State :=
  ((s.sidParam sec (rangeStart range sid)).1.map (steRange · range), (s.sidParam sec (rangeStart range sid)).2)

theorem rangeParam_in (s : State) (sec : Sec) (range : BitVec 5) (sid : BitVec 32) (h : sid.toNat < 2 ^ s.sidSize sec) :
    s.rangeParam sec range sid = (some (steRange sid range), s) := by
  have hle : (rangeStart range sid).toNat ≤ sid.toNat := by
    rw [rangeStart_toNat]
    exact Nat.div_mul_le_self _ _
  simp only [State.rangeParam, sidParam_in s sec _ (Nat.lt_of_le_of_lt hle h), Option.map_some, steRange_rangeStart]

theorem rangeParam_resolves (s : State) (sec : Sec) (range : BitVec 5) (sid : BitVec 32) :
    Resolves s (fun s v => s.rangeParam sec range v) (fun v => v.toNat < 2 ^ s.sidSize sec) sid := by
  intro d
  obtain ⟨d', hle, h | ⟨v, x, hv, hx, hvx⟩⟩ := sidParam_resolves s sec (rangeStart range sid) d
  · exact ⟨d', hle, .inl (by simp only [State.rangeParam, h, Option.map_none])⟩
  · have hxv : v = x := by
      have h := (sidParam_in (s.withDraw d) sec v hv).symm.trans (hvx d)
      simpa using h
    subst hxv
    exact ⟨d', hle, .inr ⟨v, steRange v range, hv, by simp only [State.rangeParam, hx, Option.map_some],
      fun n => rangeParam_in (s.withDraw n) sec range v hv⟩⟩

theorem exec_cfgiSteRange (s : State) {sec : Sec} {ssec : Bool} {res : CmdWord} (hsec : s.sec ssec = some sec)
    (hres : s.res0Ill res 0 = false) (sid : BitVec 32) (range : BitVec 5) :
    exec (.cfgiSteRange ssec sid range res) s =
      done (effect (s.rangeParam sec range sid) fun r u => u.pend (.ste sec r.1 r.2 true) none) := by
  simp only [exec, execCfgiSteRange, hsec, hres, Bool.false_eq_true, if_false, State.rangeParam, rangeStart]
  rcases s.sidParam sec (BitVec.ofNat 32 (steRange sid range).1) with ⟨_ | v, u⟩ <;> rfl

/-! ### Prefetches -/

section
variable (s : State) {sec : Sec} {ssec : Bool} {res : CmdWord}

theorem prefetchCmd_off (h : s.queueSmmuen = false) (ssv : Bool) (ssid : BitVec 20) (sid : BitVec 32)
    (addr : Option (W64 × Nat × Nat)) : s.prefetchCmd sec ssv ssid sid addr = s := by
  simp [State.prefetchCmd, h]

theorem prefetchCmd_on (h : s.queueSmmuen = true) (ssv : Bool) (ssid : BitVec 20) (sid : BitVec 32)
    (addr : Option (W64 × Nat × Nat)) :
    s.prefetchCmd sec ssv ssid sid addr =
      effect (s.sidParam sec sid) fun v u => effect (u.substreamParam ssv ssid) fun k u =>
        u.request { sec := sec, sid := v, ssid := k, addr := addr } := by
  simp only [State.prefetchCmd, h, Bool.not_true, Bool.false_eq_true, if_false]
  rcases s.sidParam sec sid with ⟨_ | v, u⟩
  case none => rfl
  case some => rcases h : u.substreamParam ssv ssid with ⟨_ | k, w⟩ <;> simp [effect, h]

/-- A prefetch command `c` is settled, with SMMUEN == 0 as one of no effect. -/
theorem prefetchCmd_settles {c : BitVec 32 → Bool × BitVec 20 → Instr} {addr : Option (W64 × Nat × Nat)}
    (hexec : ∀ n v b, exec (c v b) (s.withDraw n) = done ((s.withDraw n).prefetchCmd sec b.1 b.2 v addr))
    (ssv : Bool) (ssid : BitVec 20) (sid : BitVec 32) :
    ∃ u, exec (c sid (ssv, ssid)) s = done u ∧
      Settles s u (fun i => ∃ v b, v.toNat < 2 ^ s.sidSize sec ∧ s.subInRange ssv b ∧ i = c v b)
        fun v u => ∃ x y, u = v.request { sec := sec, sid := x, ssid := y, addr := addr } := by
  cases hon : s.queueSmmuen with
  | false =>
    have hnone := prefetchCmd_off (sec := sec) s hon ssv ssid sid addr
    exact ⟨_, hexec s.draw sid (ssv, ssid), s.draw, Nat.le_refl _, .inl hnone⟩
  | true =>
    refine settles_of_operands (sidParam_resolves s sec sid) (substreamParam_resolves s ssv ssid) fun n v b => ?_
    rw [hexec, prefetchCmd_on (s.withDraw n) hon]

theorem exec_prefetchConfig (hsec : s.sec ssec = some sec) (hres : s.res0Ill res 0 = false) (ssv : Bool) (ssid : BitVec 20)
    (sid : BitVec 32) : exec (.prefetchConfig ssec ssv ssid sid res) s = done (s.prefetchCmd sec ssv ssid sid none) := by
  simp only [exec, execPrefetchConfig, hsec, hres, Bool.false_eq_true, if_false]

theorem exec_prefetchAddr (hsec : s.sec ssec = some sec) (hres : s.res0Ill res 0 = false) {stride : BitVec 5}
    (hstride : s.v31 = true ∨ stride = 0 ∨ s.impl.v30StrideIll = false) (ssv : Bool) (ssid : BitVec 20) (sid : BitVec 32)
    (size : BitVec 5) (addr : BitVec 52) :
    exec (.prefetchAddr ssec ssv ssid sid size stride addr res) s =
      done (s.prefetchCmd sec ssv ssid sid (some (vaOperand addr, size.toNat, if s.v31 then stride.toNat else 0))) := by
  have hlegal : (!s.v31 && stride != 0 && s.impl.v30StrideIll) = false := by
    obtain h | h | h := hstride <;> simp [h]
  simp only [exec, execPrefetchAddr, hsec, hres, hlegal, Bool.false_eq_true, if_false]

end

/-! ### Stalled transactions -/

/-- The effect of a CMD_RESUME on a stream. -/
def State.resume (s : State) (sec : Sec) (ac ab : Bool) (stag : BitVec 16) (sid : BitVec 32) : State :=
  (s.findStall sec sid stag).elim (s.ackStag sec sid stag) fun n => s.resumeStall n (s.resumeAct ac ab)

theorem StallsOnly.effect {s t : State} (h : StallsOnly s t) : StallEffect s t := by
  obtain ⟨l, m, rfl⟩ := h
  exact ⟨_, l, m, _, _, rfl⟩

theorem resumeStall_effect (s : State) (n : Nat) (a : StallAct) : StallEffect s (s.resumeStall n a) := by
  unfold State.resumeStall
  split
  · exact (StallsOnly.refl s).effect
  · split
    · exact (markStall_only s n a).effect
    · split
      · obtain ⟨l, m, h⟩ := markStall_only s.drawn n a
        exact ⟨_, l, m, _, _, h⟩
      · exact ⟨_, _, _, _, _, rfl⟩

theorem resume_effect (s : State) (sec : Sec) (ac ab : Bool) (stag : BitVec 16) (sid : BitVec 32) :
    StallEffect s (s.resume sec ac ab stag sid) := by
  unfold State.resume
  cases s.findStall sec sid stag with
  | none => exact (ackStag_only s sec sid stag).effect
  | some n => exact resumeStall_effect s n _

theorem stallTerm_effect (s : State) (sec : Sec) (sid : BitVec 32) : StallEffect s (s.stallTerm sec sid) := by
  unfold State.stallTerm
  split
  · obtain ⟨l, m, h⟩ := termStalls_only sec sid (fun _ => true) s.stalled.length 0 s
    exact ⟨_, l, _, _, _, by rw [h]⟩
  · obtain ⟨l, m, h⟩ := termStalls_only sec sid (fun i => bit (Config.freeValue (s.draw + i / 512)) (i % 512)) s.stalled.length 0 s
    simp only [h]
    cases sec <;> exact ⟨_, _, _, _, _, rfl⟩

section
variable (s : State) {sec : Sec} {ssec : Bool} {res : CmdWord}
  (hstall : s.noStall = false) (hsec : s.sec ssec = some sec) (hres : s.res0Ill res 0 = false)
include hstall hsec hres

theorem exec_resume (ac ab : Bool) (sid : BitVec 32) (stag : BitVec 16) :
    exec (.resume ssec ac ab sid stag res) s = done (effect (s.sidParam sec sid) fun v u => u.resume sec ac ab stag v) := by
  simp only [exec, execResume, hstall, hsec, hres, Bool.false_eq_true, if_false]
  rcases s.sidParam sec sid with ⟨_ | v, u⟩
  case none => rfl
  case some => cases h : u.findStall sec v stag <;> simp [effect, State.resume, h]

theorem exec_stallTerm (sid : BitVec 32) :
    exec (.stallTerm ssec sid res) s = done (effect (s.sidParam sec sid) fun v u => u.stallTerm sec v) := by
  simp only [exec, execStallTerm, hstall, hsec, hres, Bool.false_eq_true, if_false]
  rcases s.sidParam sec sid with ⟨_ | v, u⟩ <;> rfl

end

/-! ### Messages of the ATS port -/

/-- The Invalidate Request of a CMD_ATC_INV. -/
def atcRequest (glob : Bool) (size : BitVec 6) (addr : BitVec 52) (sid : BitVec 32) (pasid : Option (BitVec 20)) : AtcReq :=
  { sid := sid, pasid := pasid, glob := pasid.isSome && glob, addr := atcAddress addr size, size := size }

section
variable (s : State) {res : CmdWord} (hsams : ¬ (s.curQ = .s ∧ s.sams = true)) (hres : s.res0Ill res 0 = false)

theorem atcInv_off (h : (!s.impl.sysAts || !s.portsOn) = true) (glob ssv : Bool) (ssid : BitVec 20) (sid : BitVec 32)
    (size : BitVec 6) (addr : BitVec 52) : s.atcInv glob ssv ssid sid size addr = s := by
  simp only [State.atcInv, h, if_true]

theorem atcInv_on (h : (!s.impl.sysAts || !s.portsOn) = false) (glob ssv : Bool) (ssid : BitVec 20) (sid : BitVec 32)
    (size : BitVec 6) (addr : BitVec 52) :
    s.atcInv glob ssv ssid sid size addr =
      effect (s.sidParam .ns sid) fun v u => effect (u.pasidParam ssv ssid) fun k u =>
        u.sendAtc (atcRequest glob size addr v k) := by
  simp only [State.atcInv, h, Bool.false_eq_true, if_false]
  rcases s.sidParam .ns sid with ⟨_ | v, u⟩
  case none => rfl
  case some => rcases h : u.pasidParam ssv ssid with ⟨_ | k, w⟩ <;> simp [effect, h, atcRequest]

include hsams hres

theorem exec_atcInv (hats : s.ats = true) {size : BitVec 6} (hsize : size.toNat ≤ 52) (glob ssv : Bool) (ssid : BitVec 20)
    (sid : BitVec 32) (addr : BitVec 52) :
    exec (.atcInv glob ssv ssid sid size addr res) s = done (s.atcInv glob ssv ssid sid size addr) := by
  have hlegal : (s.curQ == .s && s.sams) = false := by simpa using hsams
  simp only [exec, execAtcInv, hats, hlegal, hres, Nat.not_lt.mpr hsize, Bool.not_true, Bool.false_eq_true, if_false]

theorem exec_atcInv_on (hats : s.ats = true) {size : BitVec 6} (hsize : size.toNat ≤ 52)
    (h : (!s.impl.sysAts || !s.portsOn) = false) (glob ssv : Bool) (ssid : BitVec 20) (sid : BitVec 32) (addr : BitVec 52) :
    exec (.atcInv glob ssv ssid sid size addr res) s =
      done (effect (s.sidParam .ns sid) fun v u => effect (u.pasidParam ssv ssid) fun k u =>
        u.sendAtc (atcRequest glob size addr v k)) := by
  rw [exec_atcInv s hsams hres hats hsize, atcInv_on s h]

theorem exec_priResp_off (hpri : s.pri = true) {resp : BitVec 2} (hresp : resp ≠ 3) (h : (!s.impl.sysPri || !s.portsOn) = true)
    (ssv : Bool) (ssid : BitVec 20) (sid : BitVec 32) (group : BitVec 9) :
    exec (.priResp ssv ssid sid group resp res) s = done s := by
  have hlegal : (s.curQ == .s && s.sams) = false := by simpa using hsams
  simp only [exec, execPriResp, hpri, hresp, hlegal, hres, h, Bool.not_true, Bool.false_eq_true, if_false, if_true]

theorem exec_priResp_on (hpri : s.pri = true) {resp : BitVec 2} (hresp : resp ≠ 3) (h : (!s.impl.sysPri || !s.portsOn) = false)
    (ssv : Bool) (ssid : BitVec 20) (sid : BitVec 32) (group : BitVec 9) :
    exec (.priResp ssv ssid sid group resp res) s =
      done (effect (s.sidParam .ns sid) fun v u => effect (u.pasidParam ssv ssid) fun k u =>
        u.emit (.prgResponse v k group (prgCode resp))) := by
  have hlegal : (s.curQ == .s && s.sams) = false := by simpa using hsams
  simp only [exec, execPriResp, hpri, hresp, hlegal, hres, h, Bool.not_true, Bool.false_eq_true, if_false]
  rcases s.sidParam .ns sid with ⟨_ | v, u⟩
  case none => rfl
  case some => rcases h : u.pasidParam ssv ssid with ⟨_ | k, w⟩ <;> simp [effect, h]

end

theorem setAtc_only (s : State) (q : Sec) (l : List AtcReq) : ∃ a b, s.setAtc q l = { s with atcNs := a, atcS := b } := by
  cases q <;> exact ⟨_, _, rfl⟩

theorem sendAtc_effect (s : State) (r : AtcReq) : PortEffect s (s.sendAtc r) := by
  obtain ⟨a, b, h⟩ := setAtc_only (s.emit (.atsInvalidate s.curQ r)) s.curQ (s.atc s.curQ ++ [r])
  exact ⟨[.atsInvalidate s.curQ r], a, b, h⟩

theorem emit_effect (s : State) (o : Output) : PortEffect s (s.emit o) := ⟨[o], _, _, rfl⟩

section
variable (s : State) {res : CmdWord} (hsams : ¬ (s.curQ = .s ∧ s.sams = true)) (hres : s.res0Ill res 0 = false)
include hsams hres

/-- CMD_ATC_INV is settled, where the port is off as one of no effect. -/
theorem atcInv_settled (hats : s.ats = true) {size : BitVec 6} (hsize : size.toNat ≤ 52) (glob ssv : Bool) (ssid : BitVec 20)
    (sid : BitVec 32) (addr : BitVec 52) :
    ∃ t l, exec (.atcInv glob ssv ssid sid size addr res) s = .next t ∧ PortCommand s t l ∧ AsOneOf s t fun i =>
      ∃ v b, v.toNat < 2 ^ s.sidSize .ns ∧ s.subInRange ssv b ∧ i = .atcInv glob b.1 b.2 v size addr res := by
  cases hon : !s.impl.sysAts || !s.portsOn with
  | true =>
    have hnone := atcInv_off s hon glob ssv ssid sid size addr
    exact port_settled (E := fun _ _ => False)
      ⟨_, exec_atcInv s hsams hres hats hsize glob ssv ssid sid addr, s.draw, Nat.le_refl _, .inl hnone⟩
      (fun _ hi => hi) (fun _ _ h => h.elim)
  | false =>
    have hsettled := settles_of_operands (c := fun v (b : Bool × BitVec 20) => .atcInv glob b.1 b.2 v size addr res)
      (sidParam_resolves s .ns sid) (pasidParam_resolves s ssv ssid) fun n v b =>
        exec_atcInv_on (s.withDraw n) hsams hres hats hsize hon glob b.1 b.2 v addr
    refine port_settled hsettled (fun _ hi => hi) ?_
    rintro v _ ⟨_, _, rfl⟩
    exact sendAtc_effect v _

/-- CMD_PRI_RESP, likewise. -/
theorem priResp_settled (hpri : s.pri = true) {resp : BitVec 2} (hresp : resp ≠ 3) (ssv : Bool) (ssid : BitVec 20)
    (sid : BitVec 32) (group : BitVec 9) :
    ∃ t l, exec (.priResp ssv ssid sid group resp res) s = .next t ∧ PortCommand s t l ∧ AsOneOf s t fun i =>
      ∃ v b, v.toNat < 2 ^ s.sidSize .ns ∧ s.subInRange ssv b ∧ i = .priResp b.1 b.2 v group resp res := by
  cases hon : !s.impl.sysPri || !s.portsOn with
  | true =>
    exact port_settled (E := fun _ _ => False)
      ⟨_, exec_priResp_off s hsams hres hpri hresp hon ssv ssid sid group, s.draw, Nat.le_refl _, .inl rfl⟩
      (fun _ hi => hi) (fun _ _ h => h.elim)
  | false =>
    have hsettled := settles_of_operands (c := fun v (b : Bool × BitVec 20) => .priResp b.1 b.2 v group resp res)
      (sidParam_resolves s .ns sid) (pasidParam_resolves s ssv ssid) fun n v b => exec_priResp_on (s.withDraw n) hsams hres hpri hresp hon b.1 b.2 v group
    refine port_settled hsettled (fun _ hi => hi) ?_
    rintro v _ ⟨_, _, rfl⟩
    exact emit_effect v _

end

/-! ### Every command that has a StreamID -/

/-- The commands with a SubstreamID in range, or none, as `Obligations.StreamOutOfRange` names them. -/
theorem commands_subInRange {s : State} {sec : Sec} {ssv : Bool} {c : BitVec 32 → Bool × BitVec 20 → Instr} {i : Instr}
    (h : ∃ v b, v.toNat < 2 ^ s.sidSize sec ∧ s.subInRange ssv b ∧ i = c v b) :
    ∃ w k v, v.toNat < 2 ^ s.sidSize sec ∧ (k.toNat < 2 ^ s.ssidSize ∧ (w = true → ssv = true ∧ s.ssidSize ≠ 0)) ∧ i = c v (w, k) := by
  obtain ⟨v, ⟨w, k⟩, hv, hk, hi⟩ := h
  exact ⟨w, k, v, hv, hk, hi⟩

section
variable (s : State) {sec : Sec} {ssec : Bool} {res : CmdWord} (hsec : s.sec ssec = some sec) (hres : s.res0Ill res 0 = false)
include hsec hres

theorem prefetchConfig_settled (ssv : Bool) (ssid : BitVec 20) (sid : BitVec 32) :
    ∃ t, exec (.prefetchConfig ssec ssv ssid sid res) s = .next t ∧ Queued s t ∧ t.pendingInval = s.pendingInval ∧
      AsOneOf s t fun i => ∃ v b, v.toNat < 2 ^ s.sidSize sec ∧ s.subInRange ssv b ∧ i = .prefetchConfig ssec b.1 b.2 v res :=
  request_settled (prefetchCmd_settles s (c := fun v (b : Bool × BitVec 20) => .prefetchConfig ssec b.1 b.2 v res)
    (fun n v b => exec_prefetchConfig (s.withDraw n) hsec hres b.1 b.2 v) ssv ssid sid) (fun _ hi => hi) fun _ _ ⟨_, _, hu⟩ => ⟨_, hu⟩

theorem prefetchAddr_settled {y : BitVec 5} (hstride : s.v31 = true ∨ y = 0 ∨ s.impl.v30StrideIll = false) (ssv : Bool)
    (ssid : BitVec 20) (sid : BitVec 32) (x : BitVec 5) (addr : BitVec 52) :
    ∃ t, exec (.prefetchAddr ssec ssv ssid sid x y addr res) s = .next t ∧ Queued s t ∧ t.pendingInval = s.pendingInval ∧
      AsOneOf s t fun i =>
        ∃ v b, v.toNat < 2 ^ s.sidSize sec ∧ s.subInRange ssv b ∧ i = .prefetchAddr ssec b.1 b.2 v x y addr res :=
  request_settled (prefetchCmd_settles s (c := fun v (b : Bool × BitVec 20) => .prefetchAddr ssec b.1 b.2 v x y addr res)
    (addr := some (vaOperand addr, x.toNat, if s.v31 then y.toNat else 0))
    (fun n v b => exec_prefetchAddr (s.withDraw n) hsec hres hstride b.1 b.2 v x addr) ssv ssid sid) (fun _ hi => hi)
    fun _ _ ⟨_, _, hu⟩ => ⟨_, hu⟩

theorem cfgiSte_settled (sid : BitVec 32) (leaf : Bool) :
    ∃ t, exec (.cfgiSte ssec sid leaf res) s = .next t ∧ Queued s t ∧ t.prefetches = s.prefetches ∧
      AsOneOf s t fun i => ∃ v, v.toNat < 2 ^ s.sidSize sec ∧ i = .cfgiSte ssec v leaf res :=
  pend_settled (settles_of_operand (c := fun v => .cfgiSte ssec v leaf res) (sidParam_resolves s sec sid) fun n v =>
    exec_cfgiSte (s.withDraw n) hsec hres v leaf)
    (fun _ hi => hi) fun _ _ ⟨_, hu⟩ => ⟨_, hu⟩

theorem cfgiSteRange_settled (sid : BitVec 32) (range : BitVec 5) :
    ∃ t, exec (.cfgiSteRange ssec sid range res) s = .next t ∧ Queued s t ∧ t.prefetches = s.prefetches ∧
      AsOneOf s t fun i => ∃ v, v.toNat < 2 ^ s.sidSize sec ∧ i = .cfgiSteRange ssec v range res :=
  pend_settled (settles_of_operand (c := fun v => .cfgiSteRange ssec v range res) (rangeParam_resolves s sec range sid) fun n v =>
    exec_cfgiSteRange (s.withDraw n) hsec hres v range) (fun _ hi => hi) fun _ _ ⟨_, hu⟩ => ⟨_, hu⟩

theorem cfgiCd_settled (hs1p : s.s1p = true) (ssid : BitVec 20) (sid : BitVec 32) (leaf : Bool) :
    ∃ t, exec (.cfgiCd ssec ssid sid leaf res) s = .next t ∧ Queued s t ∧ t.prefetches = s.prefetches ∧
      AsOneOf s t fun i => ∃ k v, v.toNat < 2 ^ s.sidSize sec ∧ k.toNat < 2 ^ s.ssidSize ∧ i = .cfgiCd ssec k v leaf res :=
  pend_settled (settles_of_operands (c := fun v k => .cfgiCd ssec k v leaf res) (sidParam_resolves s sec sid)
    (ssidParam_resolves s ssid) fun n v k =>
      exec_cfgiCd (s.withDraw n) hsec hres hs1p k v leaf) (fun _ ⟨v, k, hv, hk, hi⟩ => ⟨k, v, hv, hk, hi⟩)
    fun _ _ ⟨_, _, hu⟩ => ⟨_, hu⟩

theorem cfgiCdAll_settled (hs1p : s.s1p = true) (sid : BitVec 32) :
    ∃ t, exec (.cfgiCdAll ssec sid res) s = .next t ∧ Queued s t ∧ t.prefetches = s.prefetches ∧
      AsOneOf s t fun i => ∃ v, v.toNat < 2 ^ s.sidSize sec ∧ i = .cfgiCdAll ssec v res :=
  pend_settled (settles_of_operand (c := fun v => .cfgiCdAll ssec v res) (sidParam_resolves s sec sid) fun n v =>
    exec_cfgiCdAll (s.withDraw n) hsec hres hs1p v)
    (fun _ hi => hi) fun _ _ ⟨_, hu⟩ => ⟨_, hu⟩

theorem resume_settled (hstall : s.noStall = false) (ac ab : Bool) (sid : BitVec 32) (stag : BitVec 16) :
    ∃ t, exec (.resume ssec ac ab sid stag res) s = .next t ∧ StallCommand s t ∧
      AsOneOf s t fun i => ∃ v, v.toNat < 2 ^ s.sidSize sec ∧ i = .resume ssec ac ab v stag res :=
  stall_settled (settles_of_operand (c := fun v => .resume ssec ac ab v stag res) (sidParam_resolves s sec sid) fun n v =>
    exec_resume (s.withDraw n) hstall hsec hres ac ab v stag) (fun _ hi => hi)
    fun v _ ⟨x, hu⟩ => hu ▸ resume_effect v sec ac ab stag x

theorem stallTerm_settled (hstall : s.noStall = false) (sid : BitVec 32) :
    ∃ t, exec (.stallTerm ssec sid res) s = .next t ∧ StallCommand s t ∧
      AsOneOf s t fun i => ∃ v, v.toNat < 2 ^ s.sidSize sec ∧ i = .stallTerm ssec v res :=
  stall_settled (settles_of_operand (c := fun v => .stallTerm ssec v res) (sidParam_resolves s sec sid) fun n v =>
    exec_stallTerm (s.withDraw n) hstall hsec hres v) (fun _ hi => hi) fun v _ ⟨x, hu⟩ => hu ▸ stallTerm_effect v sec x

end

/-- Settles O35: every operand is in range, or draws settle it as none or as one in range, for which the command then has the same
effect. -/
theorem streamOutOfRange : Obligations.StreamOutOfRange := by
  unfold Obligations.StreamOutOfRange
  intro s sec ssec ssv b c ssid sid x y stag size group resp addr res hsec hres
  refine ⟨?_, fun hstride => ?_, cfgiSte_settled s hsec hres sid b, cfgiSteRange_settled s hsec hres sid x,
    fun hs1p => ⟨cfgiCd_settled s hsec hres hs1p ssid sid b, cfgiCdAll_settled s hsec hres hs1p sid⟩,
    fun hstall => ⟨resume_settled s hsec hres hstall b c sid stag, stallTerm_settled s hsec hres hstall sid⟩,
    fun hsams => ⟨fun hats hsize => ?_, fun hpri hresp => ?_⟩⟩
  · obtain ⟨t, hexec, hqueued, hinval, hone⟩ := prefetchConfig_settled s hsec hres ssv ssid sid
    exact ⟨t, hexec, hqueued, hinval, hone.mono fun _ => commands_subInRange⟩
  · obtain ⟨t, hexec, hqueued, hinval, hone⟩ := prefetchAddr_settled s hsec hres hstride ssv ssid sid x addr
    exact ⟨t, hexec, hqueued, hinval, hone.mono fun _ => commands_subInRange⟩
  · obtain ⟨t, l, hexec, hport, hone⟩ := atcInv_settled s hsams hres hats hsize b ssv ssid sid addr
    exact ⟨t, l, hexec, hport, hone.mono fun _ => commands_subInRange⟩
  · obtain ⟨t, l, hexec, hport, hone⟩ := priResp_settled s hsams hres hpri hresp ssv ssid sid group
    exact ⟨t, l, hexec, hport, hone.mono fun _ => commands_subInRange⟩

end Sys2Proof.Machine
end

section
/-! PROOF. The prefetch commands and the configuration invalidation commands (40_cmd_prefetch_cfgi.md R1102 to R1118). -/
namespace Sys2Proof.Machine

/-! ### Scopes of invalidations of configuration -/

/-- CMD_CFGI_STE, CMD_CFGI_STE_RANGE and CMD_CFGI_ALL (R1114, R1115, R1118), by the kind of the cached structure. -/
theorem cfgMatch_ste_iff (sec : Sec) (lo hi : Nat) (l1 : Bool) (e : CfgEnt) :
    cfgMatch (.ste sec lo hi l1) e = true ↔ SteScope sec lo hi l1 e := by
  cases hkind : e.kind <;> simp [cfgMatch, SteScope, rangesMeet, hkind]

/-- CMD_CFGI_CD (R1116). -/
theorem cfgMatch_cd_iff (sec : Sec) (sid : BitVec 32) (x : Nat) (l1 : Bool) (e : CfgEnt) :
    cfgMatch (.cd sec sid (some x) l1) e = true ↔
      e.sec = sec ∧ e.sid = sid ∧ e.lo ≤ x ∧ x ≤ e.hi ∧ (e.kind = .cd ∨ (e.kind = .l1cd ∧ l1 = true)) := by
  cases hkind : e.kind <;> simp [cfgMatch, hkind] <;> tauto

/-- CMD_CFGI_CD_ALL (R1117). -/
theorem cfgMatch_cdAll_iff (sec : Sec) (sid : BitVec 32) (e : CfgEnt) :
    cfgMatch (.cd sec sid none true) e = true ↔ e.sec = sec ∧ e.sid = sid ∧ (e.kind = .cd ∨ e.kind = .l1cd) := by
  cases hkind : e.kind <;> simp [cfgMatch, hkind]

/-! ### Commands that ask for an invalidation of configuration -/

/-- A command that asks for one invalidation of configuration, and takes no free value. -/
theorem asks_of_pend {s : State} {c : Instr} {sc : InvScope} {P : CfgEnt → Prop} (hexec : exec c s = done (s.pend sc none))
    (hcfg : ∀ p, sc ≠ .tlb p) (hscope : ∀ e, cfgMatch sc e = true ↔ P e) :
    ∃ t, exec c s = .next t ∧ Asks s t ∧ CfgAccepted s t P := by
  obtain ⟨hqueued, hinval, hpre, hdraw⟩ := consume_after s (s.pend sc none) (by simp [State.pend])
  exact ⟨_, hexec, ⟨hqueued, hpre, hdraw⟩, sc, hinval, hcfg, hscope⟩

/-- One of the STEs of a range of StreamIDs, with what belongs to them. -/
theorem asks_of_pend_ste {s : State} {c : Instr} {sec : Sec} {lo hi : Nat} {l1 : Bool}
    (hexec : exec c s = done (s.pend (.ste sec lo hi l1) none)) :
    ∃ t, exec c s = .next t ∧ Asks s t ∧ CfgAccepted s t (SteScope sec lo hi l1) :=
  asks_of_pend hexec (by simp) (cfgMatch_ste_iff sec lo hi l1)

/-- The aligned range of StreamIDs starts at a multiple of its size (R1115). -/
theorem steRange_eq (sid : BitVec 32) (range : BitVec 5) :
    steRange sid range = (sid.toNat - sid.toNat % 2 ^ (range.toNat + 1),
      sid.toNat - sid.toNat % 2 ^ (range.toNat + 1) + 2 ^ (range.toNat + 1) - 1) := by
  have hstart : sid.toNat / 2 ^ (range.toNat + 1) * 2 ^ (range.toNat + 1) = sid.toNat - sid.toNat % 2 ^ (range.toNat + 1) := by
    rw [Nat.div_mul_self_eq_mod_sub_self]
  simp only [steRange, hstart]

/-- A range whose start is in range (log entry 20). -/
theorem rangeParam_start {s : State} {sec : Sec} {range : BitVec 5} {sid : BitVec 32}
    (h : (steRange sid range).1 < 2 ^ s.sidSize sec) : s.rangeParam sec range sid = (some (steRange sid range), s) := by
  have hin := sidParam_in s sec (rangeStart range sid) (by rwa [rangeStart_toNat])
  simp only [State.rangeParam, hin, Option.map_some, steRange_rangeStart]

theorem exec_cfgiAll {s : State} {sec : Sec} {ssec : Bool} {res : CmdWord} (hsec : s.sec ssec = some sec)
    (hres : s.res0Ill res 0 = false) (sid : BitVec 32) :
    exec (.cfgiAll ssec sid res) s = done (s.pend (.ste sec 0 0xFFFFFFFF true) none) := by
  simp only [exec, execCfgiAll, hsec, hres, Bool.false_eq_true, if_false]
  rfl

/-- Settles O14: the StreamID is in range, and the invalidation that the command asks for matches what the scope names. -/
theorem cfgiSteIsAccepted : Obligations.CfgiSteIsAccepted := by
  unfold Obligations.CfgiSteIsAccepted
  intro s sec ssec sid leaf res hsec hres hsid
  refine asks_of_pend_ste ?_
  rw [exec_cfgiSte s hsec hres, effect_some _ (sidParam_in s sec sid hsid)]

/-- Settles O15: the start of the range is in range; CMD_CFGI_ALL has no StreamID to check. -/
theorem cfgiRangeIsAccepted : Obligations.CfgiRangeIsAccepted := by
  unfold Obligations.CfgiRangeIsAccepted
  refine ⟨fun s sec ssec sid range res hsec hres hstart => asks_of_pend_ste ?range,
    fun s sec ssec sid res hsec hres => asks_of_pend_ste (exec_cfgiAll hsec hres sid)⟩
  case range =>
    have hin : (steRange sid range).1 < 2 ^ s.sidSize sec := by rwa [steRange_eq]
    rw [exec_cfgiSteRange s hsec hres, effect_some _ (rangeParam_start hin), steRange_eq]

/-- Settles O16: the StreamID and the SubstreamID are in range, and the invalidations match CDs and L1CDs of the stream alone. -/
theorem cfgiCdIsAccepted : Obligations.CfgiCdIsAccepted := by
  unfold Obligations.CfgiCdIsAccepted
  intro s sec ssec ssid sid leaf res hs1p hsec hres hsid
  have hin := sidParam_in s sec sid hsid
  refine ⟨fun hssid => asks_of_pend (sc := .cd sec sid (some ssid.toNat) (!leaf)) ?cd (by simp) ?scope,
    asks_of_pend ?cdAll (by simp) (cfgMatch_cdAll_iff sec sid)⟩
  case cd =>
    rw [exec_cfgiCd s hsec hres hs1p, effect_some _ hin, effect_some _ (ssidParam_in s ssid hssid)]
  case cdAll => rw [exec_cfgiCdAll s hsec hres hs1p, effect_some _ hin]
  case scope => intro e; rw [cfgMatch_cd_iff, Bool.not_eq_true']

/-! ### Prefetch commands -/

/-- A prefetch command whose parameters are in range: the request is kept, and no free value is taken. -/
theorem queued_of_request {s : State} {c : Instr} {p : Prefetch} (hexec : exec c s = done (s.request p)) :
    ∃ t, exec c s = .next t ∧ Queued s t ∧ t.pendingInval = s.pendingInval ∧ t.draw = s.draw ∧
      t.prefetches = s.prefetches ++ [p] := by
  obtain ⟨hqueued, hinval, hpre, hdraw⟩ := consume_after s (s.request p) (by simp [State.request])
  exact ⟨_, hexec, hqueued, hinval, hdraw, hpre⟩

/-- A command that only is Consumed. -/
theorem asks_of_done {s : State} {c : Instr} (hexec : exec c s = done s) :
    ∃ t, exec c s = .next t ∧ Asks s t ∧ t.pendingInval = s.pendingInval := by
  obtain ⟨hqueued, hinval, hpre, hdraw⟩ := consume_after s s (by simp)
  exact ⟨_, hexec, ⟨hqueued, hpre, hdraw⟩, hinval⟩

/-- A SubstreamID in range, or none (R1102). -/
theorem substreamParam_in {s : State} {ssv : Bool} {ssid : BitVec 20} (h : ssv = true → s.ssidSize ≠ 0 ∧ ssid.toNat < 2 ^ s.ssidSize) :
    s.substreamParam ssv ssid = (some (if ssv then some ssid else none), s) := by
  cases ssv with
  | false => rfl
  | true =>
    obtain ⟨hsub, hssid⟩ := h rfl
    simp [State.substreamParam, hsub, ssidParam_in s ssid hssid]

theorem prefetchCmd_in {s : State} {sec : Sec} {ssv : Bool} {ssid : BitVec 20} {sid : BitVec 32} (hon : s.queueSmmuen = true)
    (hsid : sid.toNat < 2 ^ s.sidSize sec) (hssid : ssv = true → s.ssidSize ≠ 0 ∧ ssid.toNat < 2 ^ s.ssidSize)
    (addr : Option (W64 × Nat × Nat)) :
    s.prefetchCmd sec ssv ssid sid addr =
      s.request { sec := sec, sid := sid, ssid := if ssv then some ssid else none, addr := addr } := by
  rw [prefetchCmd_on s hon, effect_some _ (sidParam_in s sec sid hsid), effect_some _ (substreamParam_in hssid)]

/-- `Address[63:12]` of an operand stands above twelve zeros (R1106). -/
theorem vaOperand_eq_append (a : BitVec 52) : vaOperand a = a ++ 0#12 := by
  rw [vaOperand, place, BitVec.append_def, BitVec.shiftLeftZeroExtend_eq]
  simp

/-- Settles O11: the StreamID and the SubstreamID are in range, and the request is kept. -/
theorem prefetchIsRequested : Obligations.PrefetchIsRequested := by
  unfold Obligations.PrefetchIsRequested
  intro s sec ssec ssv ssid sid size stride addr res hsec hres hon hsid hssid p
  refine ⟨queued_of_request ?config, fun hstride => queued_of_request ?address⟩
  case config => rw [exec_prefetchConfig s hsec hres, prefetchCmd_in hon hsid hssid]
  case address => rw [exec_prefetchAddr s hsec hres hstride, prefetchCmd_in hon hsid hssid, vaOperand_eq_append]

/-- Settles O12: the command ends before it reads its parameters. -/
theorem prefetchWhileDisabled : Obligations.PrefetchWhileDisabled := by
  unfold Obligations.PrefetchWhileDisabled
  intro s sec ssec ssv ssid sid size stride addr res hsec hres hoff
  refine ⟨asks_of_done ?config, fun hstride => asks_of_done ?address⟩
  case config => rw [exec_prefetchConfig s hsec hres, prefetchCmd_off s hoff]
  case address => rw [exec_prefetchAddr s hsec hres hstride, prefetchCmd_off s hoff]

/-! ### Entries of the spec -/

/-- Settles O4: each word is decoded. -/
theorem specWordsDecode : Obligations.SpecWordsDecode := by
  unfold Obligations.SpecWordsDecode
  refine ⟨?_, ?_, ?_, ?_, ?_, ?_, ?_⟩ <;> rfl

end Sys2Proof.Machine
end

section
/-! PROOF. What a configuration lookup and a translation leave alone, and so what carrying out a prefetch does (40_cmd_prefetch_cfgi.md
R1100, R1104). `StepClosed` lets the registers, the records and the lists of work change, so that the frame is a sweep of its own. -/
namespace Sys2Proof.Machine

/-- The state `s` with what looking up a configuration and translating an address can change taken from `t`: memory, by updates of
descriptors and by the writes of other agents meanwhile; the caches; what the accesses put out and the free values they take; RAS
records, counters and their interrupts; and what is remembered of the operation. Registers, event records, transactions and the lists
of work are those of `s`. -/
def State.afterLookup (s t : State) : State :=
  { s with mem := t.mem, internal := t.internal, steLog := t.steLog, meanwhile := t.meanwhile, fetchOrder := t.fetchOrder,
           cfgCache := t.cfgCache, tlb := t.tlb, out := t.out, draw := t.draw, ras := t.ras, pmcgs := t.pmcgs, irqs := t.irqs,
           trail := t.trail }

/-- Nothing else has changed. -/
def LookupOnly (s t : State) : Prop := t = s.afterLookup t

namespace LookupOnly
variable {s t u : State}

theorem refl (s : State) : LookupOnly s s := rfl

theorem trans (h : LookupOnly s t) (h' : LookupOnly t u) : LookupOnly s u :=
  calc u = t.afterLookup u := h'
    _ = (s.afterLookup t).afterLookup u := congrArg (State.afterLookup · u) h
    _ = s.afterLookup u := rfl

/-- A field is what it is in the frame. -/
theorem field (h : LookupOnly s t) {γ : Type} (f : State → γ) : f t = f (s.afterLookup t) := congrArg f h

theorem ite {c : Prop} [Decidable c] (ht : LookupOnly s t) (hu : LookupOnly s u) : LookupOnly s (if c then t else u) :=
  StepClosed.ite ht hu

end LookupOnly

/-- A computation that changes nothing else, whether it ends in a value or in a fault. -/
abbrev Tr.Looks {α : Type} (x : Tr α) : Prop := Tr.Rel LookupOnly x

namespace Tr.Looks
variable {α β : Type} {x y : Tr α} {f : α → Tr β}

theorem pure (a : α) : Tr.Looks (Pure.pure a) := LookupOnly.refl
theorem fail (e : Flt) : Tr.Looks (Tr.fail e : Tr α) := LookupOnly.refl
theorem asks (g : State → α) : Tr.Looks (Tr.asks g) := LookupOnly.refl
theorem draw : Tr.Looks Tr.draw := fun _ => rfl
theorem modify {g : State → State} (hg : ∀ s, LookupOnly s (g s)) : Tr.Looks (Tr.modify g) := hg
theorem lift {g : State → α × State} (hg : ∀ s, LookupOnly s (g s).2) : Tr.Looks (Tr.lift g) := hg

theorem bind (hx : x.Looks) (hf : ∀ a, (f a).Looks) : Tr.Looks (x >>= f) := by
  intro s
  match h : x s with
  | (.ok a, t) =>
    rw [Tr.bind_ok h]
    exact (hx.run h).trans (hf a t)
  | (.error e, t) =>
    rw [Tr.bind_error h]
    exact hx.run h

theorem choice {c : Prop} [Decidable c] (hx : x.Looks) (hy : y.Looks) : Tr.Looks (if c then x else y) := StepClosed.choice hx hy

theorem condBind {c : Prop} [Decidable c] (hx : x.Looks) (hy : y.Looks) (hf : ∀ a, (f a).Looks) :
    Tr.Looks (if c then x >>= f else y >>= f) := choice (hx.bind hf) (hy.bind hf)

theorem afterCond {c : Prop} [Decidable c] {x : Tr Unit} {f : Unit → Tr β} (hx : x.Looks) (hf : (f ()).Looks) :
    Tr.Looks (if c then x >>= f else f ()) := choice (hx.bind fun _ => hf) hf

end Tr.Looks

/-! ### The SMMU's own accesses, and the counters -/

theorem RasOnly.lookup {s t : State} (h : RasOnly s t) : LookupOnly s t := by
  obtain ⟨l, m, r, d, rfl⟩ := h
  rfl

theorem CountsOnly.lookup {s t : State} (h : CountsOnly s t) : LookupOnly s t := by
  obtain ⟨p, l, d, rfl⟩ := h
  rfl

theorem WritesOnly.lookup {w : List (Bool × Nat × Nat)} {s t : State} (h : WritesOnly w s t) : LookupOnly s t := by
  obtain ⟨m, i, ⟨l, q, r, d, rfl⟩, -⟩ := h
  rfl

theorem others_lookup (s : State) : LookupOnly s s.others := by
  have hstores (ws : List MemWr) (u : State) : LookupOnly u (ws.foldl (fun s w => s.agentStore w.ns w.pa w.bytes) u) := by
    induction ws generalizing u with
    | nil => exact .refl u
    | cons w ws ih => exact LookupOnly.trans (t := u.agentStore w.ns w.pa w.bytes) rfl (ih _)
  unfold State.others
  split
  · exact .refl s
  · next ws rest _ => exact LookupOnly.trans (t := { s with meanwhile := rest }) rfl (hstores ws _)

theorem busRead_lookup (s : State) (sec : Sec) (kind : AccKind) (ns : Bool) (pa n : Nat) (a : Attrs) :
    LookupOnly s (s.busRead sec kind ns pa n a).2 := by
  have hread : LookupOnly s (s.others.bus kind .read ns pa n a) := (others_lookup s).trans (bus_only _ _ _ _ _ _ _).lookup
  refine hread.trans ?_
  unfold State.busRead
  dsimp only
  split
  · exact (rasAborted_only _ sec kind ns pa).lookup
  · split
    · split
      · exact ((drawn_only _).trans (rasAborted_only _ sec kind ns pa)).lookup
      · exact ((drawn_only _).trans (drawn_only _)).lookup
    · exact .refl _

theorem readPieces_lookup (sec : Sec) (kind : AccKind) (ns : Bool) (pa w : Nat) (a : Attrs) (n : Nat) (todo : List Nat) (acc : Nat)
    (s : State) : LookupOnly s (State.readPieces sec kind ns pa w a n todo acc s).2 := by
  induction n generalizing todo acc s with
  | zero => exact .refl s
  | succ n ih =>
    have hread (k : Nat) : LookupOnly s (({ s with fetchOrder := s.fetchOrder.tail } : State).busRead sec kind ns k w a).2 :=
      LookupOnly.trans (t := { s with fetchOrder := s.fetchOrder.tail }) rfl (busRead_lookup _ sec kind ns k w a)
    unfold State.readPieces
    dsimp only
    split
    · next h => exact of_result h (hread _)
    · next h => exact (of_result h (hread _)).trans (ih _ _ _)

theorem structRead_lookup (s : State) (sec : Sec) (kind : AccKind) (ns : Bool) (pa n : Nat) (a : Attrs) :
    LookupOnly s (s.structRead sec kind ns pa n a).2 := by
  unfold State.structRead
  dsimp only
  split
  · exact busRead_lookup _ _ _ _ _ _ _
  · exact readPieces_lookup _ _ _ _ _ _ _ _ _ _

theorem pmu_lookup (s : State) (id : Nat) (src : Option (Sec × BitVec 32)) : LookupOnly s (s.pmu id src) := (pmu_only s id src).lookup

/-! ### The pieces of a walk -/

theorem conflictOr_lookup {α : Type} (last : Bool) (f : Flt) (x : α) (xs : List α) : (conflictOr last f x xs).Looks :=
  .bind .draw fun _ => .choice (.fail _) (.choice (.bind (.modify fun _ => rfl) fun _ => .pure _) (.pure _))

theorem spend_lookup : spend.Looks := Tr.Looks.lift fun s => by split <;> rfl

theorem passiveAf_lookup {port : DescPort} (hp : port.Rel LookupOnly) (report : Bool) (a : W64) (ns : Bool) (old d : W64) :
    (passiveAf port report a ns old d).Looks := by
  refine .bind .draw fun _ => .choice (fun s => ?_) (.pure _)
  split <;> next h => exact (hp.write a ns old d).run h

theorem leafStep_lookup (cfg : WalkCfg) {port : DescPort} (hp : port.Rel LookupOnly) (acc : Acc) (perms : Leaf → Perms)
    (fault : FKind → Flt) (a : W64) (ns : Bool) (l : Leaf) : (leafStep cfg port acc perms fault a ns l).Looks := by
  have haf (x : W64) :
      Tr.Looks (if cfg.passive then passiveAf port cfg.passiveReport a ns l.desc x else port.write a ns l.desc x) :=
    .choice (passiveAf_lookup hp _ _ _ _ _) (hp.write _ _ _ _)
  refine .condBind .draw (.pure _) fun skip => .choice (.fail _) (.choice ?dirty (.choice ?served ?denied))
  case dirty => exact .choice (.bind (hp.write _ _ _ _) fun _ => .pure _) (.condBind (haf _) (.pure _) fun _ => .pure _)
  case served =>
    exact .condBind (.bind .draw fun _ => .pure _) (.pure _) fun _ => .condBind (haf _) (.pure _) fun _ => .pure _
  case denied => exact .choice (.bind .draw fun _ => .choice (.bind (haf _) fun _ => .fail _) (.fail _)) (.fail _)

theorem walkFrom_lookup (cfg : WalkCfg) {port : DescPort} (hp : port.Rel LookupOnly) (acc : Acc) (perms : Leaf → Perms)
    (fault : FKind → Flt) {note : Leaf → State → State} (hn : ∀ l s, LookupOnly s (note l s)) (ia : W64) (fuel level : Nat) (table : W64)
    (wa : WalkAcc) : (walkFrom cfg port acc perms fault note ia fuel level table wa).Looks := by
  induction fuel generalizing level table wa with
  | zero => exact .fail _
  | succ fuel ih =>
    unfold walkFrom
    refine .bind (hp.read _ _) fun raw => ?_
    dsimp only
    split
    · exact .fail _
    · exact .choice (.fail _) (.bind (.modify fun s => hn _ s) fun _ => ih _ _ _)
    · refine .choice (.fail _) (.bind (leafStep_lookup cfg hp acc perms fault _ _ _) fun r => ?_)
      cases r with
      | none => exact ih _ _ _
      | some l => exact .pure l

theorem walk_lookup (cfg : WalkCfg) {port : DescPort} (hp : port.Rel LookupOnly) (acc : Acc) (perms : Leaf → Perms) (fault : FKind → Flt)
    {note : Leaf → State → State} (hn : ∀ l s, LookupOnly s (note l s)) (cached : Option Leaf) (ia : W64) :
    (walk cfg port acc perms fault note cached ia).Looks :=
  .bind (.asks _) fun _ => by cases cached <;> exact walkFrom_lookup cfg hp acc perms fault hn ia _ _ _ _

theorem readDescPa_lookup (sec : Sec) (sid : BitVec 32) (eabt : W64 → Flt) (ns : Bool) (a : W64) (attrs : Attrs) :
    (readDescPa sec sid eabt ns a attrs).Looks := by
  refine .bind (.asks _) fun _ => .bind spend_lookup fun _ => .choice ?_ (.fail _)
  refine .bind (.modify fun s => pmu_lookup s _ _) fun _ => .bind (.lift fun s => busRead_lookup s _ _ _ _ _ _) fun v => ?_
  cases v with
  | none => exact .fail _
  | some v => exact .pure _

theorem writeDescPa_lookup (sec : Sec) (sid : BitVec 32) (eabt : W64 → Flt) (big ns : Bool) (a : W64) (old d : W64) (attrs : Attrs) :
    (writeDescPa sec sid eabt big ns a old d attrs).Looks := by
  refine .bind (.asks _) fun _ => .bind spend_lookup fun _ => .bind (.asks _) fun _ =>
    .condBind (.bind .draw fun _ => .pure _) (.pure _) fun _ => .choice (.fail _) (.choice (.pure _) ?_)
  refine .bind (.modify fun s => (pmu_lookup s _ _).trans (others_lookup _)) fun _ => .bind (.asks _) fun _ => .choice (.pure _) ?_
  exact .bind (.lift fun s => (busWrite_writes s _ _ _ _ _ _).lookup) fun _ => .choice (.pure _) (.fail _)

/-! ### The TLB -/

theorem tlbHits_lookup (c : Ctx) (va : Bool) (a : W64) : (tlbHits c va a).Looks :=
  .bind (.asks _) fun _ => .condBind (.bind .draw fun _ => .pure _) (.pure _) fun _ => .asks _

theorem chooseHit_lookup {α : Type} (f : Flt) (l : List α) : (chooseHit f l).Looks := by
  match l with
  | [] => exact .pure _
  | [x] => exact .pure _
  | x :: y :: ys => exact .bind (.asks _) fun _ => .bind (conflictOr_lookup _ _ _ _) fun _ => .pure _

theorem tlbInsertFor_lookup (s : State) (c : Ctx) (e : TlbEnt) : LookupOnly s (s.tlbInsertFor c e) := .ite (.refl s) (.ite rfl (.refl s))

theorem walkNote_lookup (s : State) (c : Ctx) (va own : Bool) (a : W64) (l : Leaf) : LookupOnly s (s.walkNote c va own a l) := by
  have hnoted : LookupOnly s (if own then s.noteTlb (s.walkEntry c va a l) else s) := .ite rfl (.refl s)
  exact .ite (hnoted.trans (tlbInsertFor_lookup _ c _)) hnoted

theorem walkLookup_lookup (c : Ctx) (va own : Bool) (a : W64) : (walkLookup c va own a).Looks := by
  refine .bind (.asks _) fun hits => .choice (.pure _) (.bind .draw fun x => ?_)
  split
  · exact .pure _
  · exact .bind (.modify fun s => .ite rfl rfl) fun _ => .pure _

theorem tlbLookupVa_lookup (c : Ctx) (va : W64) : (tlbLookupVa c va).Looks := by
  refine .bind (.asks _) fun kept => .condBind (.pure _) .draw fun x => .bind (.asks _) fun ia => ?_
  cases ia with
  | none => exact .choice (.bind (.fail _) fun _ => chooseHit_lookup _ _) (.bind (.pure _) fun _ => chooseHit_lookup _ _)
  | some ia => exact .bind (tlbHits_lookup c _ _) fun _ => .bind (.pure _) fun _ => chooseHit_lookup _ _

theorem keptSif_lookup (c : Ctx) (e : TlbEnt) : (keptSif c e).Looks := .choice (.pure _) (.bind .draw fun _ => .pure _)

theorem keptCtx_lookup (c : Ctx) (e : TlbEnt) : (keptCtx c e).Looks := .choice (.pure _) (.bind .draw fun _ => .pure _)

/-! ### The two stages -/

theorem keptIpa_lookup (c : Ctx) (ipa : W64) : (keptIpa c ipa).Looks :=
  .bind (.asks _) fun _ => .condBind (.pure _) .draw fun _ => .pure _

theorem stage2Found_lookup (c : Ctx) (acc : Acc) (cls : FClass) (s0 : State) (fault : FKind → Flt) (x : TlbEnt) :
    (stage2Translate.found c acc cls s0 fault x).Looks := by
  unfold stage2Translate.found
  split
  · exact .pure _
  · refine .bind (keptCtx_lookup c x) fun k => .choice (.pure _) (.bind (.modify fun _ => rfl) fun _ => ?_)
    exact .choice (.choice (.bind (.modify fun _ => rfl) fun _ => .pure _) (.pure _)) (.fail _)

theorem stage2Miss_lookup (c : Ctx) (ipa : W64) (acc : Acc) (cls : FClass) (s0 : State) (fault : FKind → Flt) (cfg : WalkCfg) :
    (stage2Translate.miss c ipa acc cls s0 fault cfg).Looks :=
  .bind (.modify fun _ => rfl) fun _ => .bind (walkLookup_lookup c _ _ _) fun _ =>
    .bind (walk_lookup cfg ⟨fun _ _ => readDescPa_lookup _ _ _ _ _ _, fun _ _ _ _ => writeDescPa_lookup _ _ _ _ _ _ _ _ _⟩ _ _ _
      (fun _ s => walkNote_lookup s c _ _ _ _) _ _) fun _ =>
    .choice (.fail _) (.bind (.modify fun s => tlbInsertFor_lookup s c _) fun _ => .pure _)

theorem stage2Translate_lookup (c : Ctx) (ipa : W64) (acc : Acc) (cls : FClass) : (stage2Translate c ipa acc cls).Looks := by
  have hend (s0 : State) (fault : FKind → Flt) (cfg : WalkCfg) (outside : Bool) (l : Option Leaf) : Tr.Looks (match l with
      | some l => pure l
      | none => if outside then Tr.fail (fault .translation) else stage2Translate.miss c ipa acc cls s0 fault cfg) := by
    cases l with
    | some l => exact .pure l
    | none => exact .choice (.fail _) (stage2Miss_lookup _ _ _ _ _ _ _)
  refine .bind (.asks _) fun s0 => .condBind (keptIpa_lookup c ipa) (tlbHits_lookup c _ _) fun hits =>
    .bind (chooseHit_lookup _ _) fun hit => ?_
  cases hit with
  | none => exact .bind (.pure _) fun l => hend _ _ _ _ l
  | some x => exact .bind (stage2Found_lookup _ _ _ _ _ x) fun l => hend _ _ _ _ l

theorem structPa_lookup (c : Ctx) (a : W64) (acc : Acc) (cls : FClass) (attrs : Attrs) : (structPa c a acc cls attrs).Looks :=
  .choice (.bind (stage2Translate_lookup _ _ _ _) fun _ => .bind (.asks _) fun _ => .pure _) (.pure _)

theorem s1Port_lookup (c : Ctx) (cfg : WalkCfg) : (s1Port c cfg).Rel LookupOnly where
  read a ns := Tr.Looks.condBind (.bind .draw fun _ => .pure _) (.pure _) fun _ =>
    .afterCond (.modify fun s => stage2Translate_lookup c a _ .tt s)
      (.bind (structPa_lookup _ _ _ _ _) fun _ => readDescPa_lookup _ _ _ _ _ _)
  write a ns old d := Tr.Looks.bind (structPa_lookup _ _ _ _ _) fun _ => writeDescPa_lookup _ _ _ _ _ _ _ _ _

theorem stage1Walk_lookup (c : Ctx) (va : W64) (acc : Acc) : (stage1Walk c va acc).Looks := by
  refine .bind (.asks _) fun s0 => ?_
  dsimp only
  split
  · exact .fail _
  · exact .choice (.fail _) (.bind (.modify fun _ => rfl) fun _ => .bind (walkLookup_lookup c _ _ _) fun _ =>
      .bind (walk_lookup _ (s1Port_lookup c _) acc _ _ (fun _ s => walkNote_lookup s c _ _ _ _) _ _) fun _ => .pure _)

/-- A held update: the state is that of the walk only where the final step faults. -/
theorem heldFault_lookup (c : Ctx) (va : W64) (acc : Acc) : (heldFault c va acc).Looks := by
  intro s
  unfold heldFault
  dsimp only
  split
  · exact .refl s
  · next hwalk =>
    split
    · exact .refl s
    · split
      · next hfault => exact ((stage1Walk_lookup _ va acc).run hwalk).trans ((stage2Translate_lookup _ _ _ _).run hfault)
      · exact .refl s

theorem vaMiss_lookup (c : Ctx) (va : W64) (acc : Acc) (s0 : State) : (vaTranslate.miss c va acc s0).Looks := by
  refine .condBind (.bind .draw fun _ => .pure _) (.pure _) fun _ => .afterCond (heldFault_lookup c va acc) ?_
  refine .bind (stage1Walk_lookup c va acc) fun p => .choice (.fail _) (.choice ?nested ?single)
  case nested =>
    exact .bind (stage2Translate_lookup _ _ _ _) fun _ => .bind (.modify fun s => tlbInsertFor_lookup s _ _) fun _ => .pure _
  case single => exact .bind (.modify fun s => tlbInsertFor_lookup s _ _) fun _ => .pure _

theorem vaTranslate_lookup (c : Ctx) (va : W64) (acc : Acc) : (vaTranslate c va acc).Looks := by
  refine .bind (.asks _) fun s0 => .bind (tlbLookupVa_lookup c va) fun hit => ?_
  have hmiss := vaMiss_lookup c va acc s0
  match hit with
  | none => exact hmiss
  | some (ia, e) =>
    dsimp only
    split
    · exact hmiss
    · refine .bind (keptCtx_lookup c e) fun k => .bind (keptSif_lookup c e) fun sif =>
        .choice hmiss (.choice (.fail _) (.choice (.fail _) ?_))
      split
      · exact .bind (.modify fun _ => rfl) fun _ => .pure _
      · exact .choice hmiss (.choice (.fail _) (.bind (.modify fun _ => rfl) fun _ => .pure _))

theorem ipaTranslate_lookup (c : Ctx) (ipa : W64) (acc : Acc) : (ipaTranslate c ipa acc).Looks :=
  .bind (stage2Translate_lookup _ _ _ _) fun _ => .bind (.asks _) fun _ => .pure _

/-! ### The configuration lookup -/

/-- A structure that was read may be kept, and is noted. -/
theorem keepNote_lookup (s : State) (usable : Bool) (e : CfgEnt) : LookupOnly s ((s.cfgKeep usable e).noteCfg e) :=
  LookupOnly.trans (t := s.cfgKeep usable e) (.ite (.ite rfl (.refl s)) (.refl s)) rfl

theorem freshRegs_lookup (sec : Sec) : (freshRegs sec).Looks :=
  .bind (.asks _) fun _ => .choice (.bind .draw fun _ => .pure _) (.pure _)

theorem hitRegs_lookup (sec : Sec) (old : CfgRegs) : (hitRegs sec old).Looks :=
  .bind (freshRegs_lookup sec) fun _ => .choice (.pure _) (.bind .draw fun _ => .pure _)

theorem structEvent_lookup (s : State) (sec : Sec) (sid : BitVec 32) (n : Nat) : LookupOnly s (s.structEvent sec sid n) :=
  LookupOnly.trans (t := if n = 64 then s.beginFetch else s) (.ite rfl (.refl s)) (pmu_lookup _ _ _)

theorem readSte_lookup (sec : Sec) (sid : BitVec 32) (r : CfgRegs) (a : W64) (n : Nat) : (readSte sec sid r a n).Looks := by
  refine .bind (.asks _) fun _ => .choice (.fail _) (.bind spend_lookup fun _ => .afterCond (.fail _) ?_)
  refine .bind (.modify fun s => structEvent_lookup s _ _ _) fun _ => .bind (.lift fun s => structRead_lookup s _ _ _ _ _ _) fun v => ?_
  cases v with
  | none => exact .fail _
  | some v => exact .pure v

theorem getL1std_lookup (sec : Sec) (sid : BitVec 32) : (getL1std sec sid).Looks := by
  refine .bind (.asks _) fun s => ?_
  split
  · exact .bind (hitRegs_lookup sec _) fun _ => .bind (.modify fun _ => rfl) fun _ => .pure _
  · exact .bind (freshRegs_lookup sec) fun _ => .bind (readSte_lookup _ _ _ _ _) fun _ =>
      .bind (.modify fun s => keepNote_lookup s _ _) fun _ => .pure _

theorem steAddr_lookup (sec : Sec) (sid : BitVec 32) : (steAddr sec sid).Looks :=
  .bind (.asks _) fun _ => .choice (.bind (getL1std_lookup sec sid) fun _ => .choice (.pure _) (.fail _))
    (.bind (freshRegs_lookup sec) fun _ => .pure _)

theorem checkSte_lookup (sec : Sec) (r : CfgRegs) (e : StructWord) : (checkSte sec r e).Looks :=
  .bind (.asks _) fun _ => .choice (.pure _) (.fail _)

theorem fetchSte_lookup (sec : Sec) (sid : BitVec 32) : (fetchSte sec sid).Looks :=
  .bind (steAddr_lookup sec sid) fun _ => .bind (.asks _) fun _ => .bind (readSte_lookup _ _ _ _ _) fun _ =>
    .bind (.modify fun s => keepNote_lookup s _ _) fun _ => .pure _

theorem cachedSte_lookup (sec : Sec) (sid : BitVec 32) : (cachedSte sec sid).Looks := by
  refine .bind (.asks _) fun s => ?_
  split
  · exact .pure _
  · exact .condBind (.pure _) (conflictOr_lookup _ _ _ _) fun _ => .bind (.modify fun _ => rfl) fun _ => .pure _

theorem getSte_lookup (sec : Sec) (sid : BitVec 32) : (getSte sec sid).Looks := by
  refine .bind (.modify fun _ => rfl) fun _ => .bind (cachedSte_lookup sec sid) fun held => ?_
  cases held with
  | some c => exact .bind (hitRegs_lookup sec _) fun _ => .bind (checkSte_lookup _ _ _) fun _ => .pure _
  | none =>
    exact .bind (.asks _) fun _ => .choice (.fail _)
      (.bind (fetchSte_lookup sec sid) fun _ => .bind (checkSte_lookup _ _ _) fun _ => .pure _)

theorem cdSelect_lookup (e : StructWord) (ssv : Bool) (ssid : BitVec 20) : (cdSelect e ssv ssid).Looks :=
  .bind (.asks _) fun _ => .choice (.fail _) (.choice (.pure _) (.choice (.pure _)
    (.choice (.choice (.pure _) (.choice (.pure _) (.fail _))) (.choice (.fail _) (.pure _)))))

theorem oorPtr_lookup (e : StructWord) (a : W64) (bad : Flt) : (oorPtr e a bad).Looks := by
  refine .bind (.asks _) fun s => .choice (.choice (.pure _) ?ipa) (.choice (.pure _) (.choice (.fail _) ?pa))
  case ipa =>
    split
    · exact .fail _
    · exact .pure _
    · exact .choice (.pure _) (.pure _)
  case pa =>
    split
    · exact .fail _
    · exact .fail _
    · exact .pure _

theorem readCd_lookup (c : Ctx) (a : W64) (n : Nat) : (readCd c a n).Looks := by
  refine .bind (structPa_lookup _ _ _ _ _) fun _ => .bind (.asks _) fun _ => .bind spend_lookup fun _ => .afterCond (.fail _) ?_
  refine .bind (.modify fun s => structEvent_lookup s _ _ _) fun _ => .bind (.lift fun s => structRead_lookup s _ _ _ _ _ _) fun v => ?_
  cases v with
  | none => exact .fail _
  | some v => exact .pure v

theorem getL1cd_lookup (c : Ctx) (idx : Nat) : (getL1cd c idx).Looks := by
  refine .bind (.asks _) fun s => ?_
  dsimp only
  split
  · exact .bind (.modify fun _ => rfl) fun _ => .choice (.pure _) (.fail _)
  · exact .bind (oorPtr_lookup _ _ _) fun _ => .bind (readCd_lookup _ _ _) fun _ =>
      .bind (.modify fun s => keepNote_lookup s _ _) fun _ => .choice (.pure _) (.fail _)

theorem cdAddr_lookup (c : Ctx) (idx : Nat) : (cdAddr c idx).Looks :=
  .bind (.asks _) fun _ => .choice (.bind (getL1cd_lookup c idx) fun _ => oorPtr_lookup _ _ _) (oorPtr_lookup _ _ _)

theorem checkCd_lookup (c : Ctx) (d : StructWord) : (checkCd c d).Looks := .bind (.asks _) fun _ => .choice (.pure _) (.fail _)

theorem fetchCd_lookup (c : Ctx) (idx : Nat) : (fetchCd c idx).Looks :=
  .bind (cdAddr_lookup c idx) fun _ => .bind (readCd_lookup _ _ _) fun _ =>
    .bind (.modify fun s => keepNote_lookup s _ _) fun _ => .pure _

theorem getCd_lookup (c : Ctx) (idx : Nat) : (getCd c idx).Looks := by
  refine .bind (.asks _) fun hits => ?_
  cases hits with
  | cons x _ => exact .bind (.modify fun _ => rfl) fun _ => checkCd_lookup _ _
  | nil => exact .bind (fetchCd_lookup c idx) fun _ => checkCd_lookup _ _

/-! ### Carrying out a prefetch -/

theorem prefetchTranslate_lookup (s : State) (c : Ctx) (sel : CdSel) (a : Option W64) : LookupOnly s (s.prefetchTranslate c sel a) := by
  cases sel with
  | cd idx =>
    unfold State.prefetchTranslate
    dsimp only
    split
    · next h => exact (getCd_lookup c idx).run h
    · next h =>
      refine ((getCd_lookup c idx).run h).trans ?_
      split
      · exact .refl _
      · exact vaTranslate_lookup _ _ _ _
  | bypass =>
    cases a with
    | none => exact .refl s
    | some a => exact .ite (ipaTranslate_lookup _ _ _ s) (.refl s)

theorem prefetchOne_lookup (s : State) (p : Prefetch) (a : Option W64) : LookupOnly s (s.prefetchOne p a) := by
  refine .ite (.refl s) ?_
  split
  · next h => exact (getSte_lookup _ _).run h
  · next ste regs t h =>
    refine ((getSte_lookup _ _).run h).trans (.ite (.refl _) ?_)
    have hdraw : LookupOnly t (if (p.ssid.isSome && Ste.s1cdmax ste == 0) = true then t.drawn else t) := .ite rfl (.refl t)
    dsimp only
    split
    · next h => exact hdraw.trans ((cdSelect_lookup _ _ _).run h)
    · next h => exact hdraw.trans (((cdSelect_lookup _ _ _).run h).trans (prefetchTranslate_lookup _ _ _ _))

/-- Whatever a prefetch meets, it is a lookup. -/
theorem prefetch_lookup (s : State) (n k : Nat) : LookupOnly s (s.prefetch n k) := by
  unfold State.prefetch
  split
  · exact .refl s
  · exact prefetchOne_lookup s _ _

/-- Settles O13: a prefetch is a lookup, which leaves all these alone. -/
theorem prefetchRecordsNothing : Obligations.PrefetchRecordsNothing := by
  unfold Obligations.PrefetchRecordsNothing
  intro s n k rest h hoff
  have hframe := prefetch_lookup { s with agenda := rest } n k
  exact ⟨_, step_of_agenda h hoff, hframe.field State.eventsNs, hframe.field State.eventsS, hframe.field State.ns,
    hframe.field State.s, hframe.field State.stalled, hframe.field State.inFlight, hframe.field State.priqProd,
    hframe.field State.pendingPri, hframe.field State.prefetches⟩

end Sys2Proof.Machine
end

section
/-! PROOF. The TLB invalidation commands (41_cmd_tlbi.md R1155 to R1172), and the commands of a feature that is not implemented. -/
namespace Sys2Proof.Machine

/-! ### Scopes of invalidations of translations -/

/-- An entry has the ASID that an invalidation names. The Bool says whether it reaches global entries: then all of them, whatever
their ASID, else none (R1161, R1163). -/
def State.withAsid (s : State) (e : TlbEnt) (x : BitVec 16 × Bool) : Prop :=
  if x.2 then e.glob = true ∨ s.ofAsid e x.1 else e.glob = false ∧ s.ofAsid e x.1

/-- The address bits from the entry's size on count (R1155). -/
theorem covers_iff (e : TlbEnt) (a : W64) : e.covers a = true ↔ HasAddr e a := by
  simp only [TlbEnt.covers, HasAddr, beq_iff_eq, ← BitVec.toNat_inj, BitVec.toNat_ushiftRight, Nat.shiftRight_eq_div_pow]

/-- An entry is in the scope of an invalidation if it is of one of its regimes, of the last level with Leaf, of one of its stages, and
has every tag that the invalidation names. -/
theorem tlbMatch_iff (s : State) (p : TlbPred) (e : TlbEnt) :
    s.tlbMatch p e = true ↔
      e.world ∈ p.worlds ∧ (p.leaf = true → e.last = true) ∧ (if e.s1.isSome then p.va else p.ipa) = true ∧
        (∀ v, p.vmid = some v → s.ofVmid e v) ∧ (∀ x, p.asid = some x → s.withAsid e x) ∧ (∀ a, p.addr = some a → HasAddr e a) ∧
        (p.skipAset = true → e.aset = false) := by
  simp only [State.tlbMatch, State.tlbMatchBy, Bool.and_eq_true, and_assoc]
  refine and_congr (by simp) (and_congr ?leaf (and_congr Iff.rfl (and_congr ?vmid (and_congr ?asid (and_congr ?addr ?aset)))))
  case leaf => cases p.leaf <;> simp
  case vmid =>
    cases p.vmid with
    | none => simp
    | some v => cases htag : e.vmid <;> simp [State.ofVmid, htag]
  case asid =>
    rcases p.asid with _ | ⟨v, g⟩
    case none => simp
    case some =>
      cases hglob : e.glob with
      | true => cases g <;> simp [State.withAsid, hglob]
      | false => cases htag : e.asid <;> simp [State.withAsid, State.ofAsid, hglob, htag]
  case addr =>
    cases p.addr with
    | none => simp
    | some a => simp [covers_iff]
  case aset => cases p.skipAset <;> simp

/-- The stage 1 entries of a regime, of an ASID, an address and the last level if these are named. -/
def stageOnePred (w : World) (asid : Option (BitVec 16 × Bool)) (addr : Option W64) (leaf : Bool) : TlbPred :=
  { TlbPred.all [w] true false with asid := asid, addr := addr, leaf := leaf }

theorem tlbMatch_stageOne_iff (s : State) (w : World) (asid : Option (BitVec 16 × Bool)) (addr : Option W64) (leaf : Bool) (e : TlbEnt) :
    s.tlbMatch (stageOnePred w asid addr leaf) e = true ↔
      StageOne w e ∧ (leaf = true → e.last = true) ∧ (∀ x, asid = some x → s.withAsid e x) ∧ ∀ a, addr = some a → HasAddr e a := by
  simp [tlbMatch_iff, stageOnePred, TlbPred.all, StageOne, and_assoc, and_left_comm]

theorem tlbMatch_nhPred_iff (s : State) (vmid : BitVec 16) (asid : Option (BitVec 16 × Bool)) (addr : Option W64) (leaf : Bool)
    (e : TlbEnt) :
    s.tlbMatch (s.nhPred vmid asid addr leaf) e = true ↔
      s.nonHyp vmid e ∧ (leaf = true → e.last = true) ∧ (∀ x, asid = some x → s.withAsid e x) ∧ ∀ a, addr = some a → HasAddr e a := by
  have hworld : s.nhWorld = if s.curQ = .ns then World.nsEL1 else World.secure := by
    unfold State.nhWorld
    cases s.curQ <;> rfl
  simp [tlbMatch_iff, State.nhPred, State.nonHyp, hworld, and_assoc, and_left_comm]

/-! ### Commands that ask for an invalidation of translations -/

/-- A command that asks for one invalidation of translations, and takes no free value. -/
theorem asks_of_pend_tlb {s : State} {c : Instr} {p : TlbPred} {P : TlbEnt → Prop} (hexec : exec c s = done (s.pend (.tlb p) none))
    (hscope : ∀ e, s.tlbMatch p e = true ↔ P e) : ∃ t, exec c s = .next t ∧ Asks s t ∧ TlbAccepted s t P := by
  obtain ⟨hqueued, hinval, hpre, hdraw⟩ := consume_after s (s.pend (.tlb p) none) (by simp [State.pend])
  exact ⟨_, hexec, ⟨hqueued, hpre, hdraw⟩, p, hinval, hscope⟩

/-! ### The CMD_TLBI_NH commands -/

section
variable (s : State) {vmid : BitVec 16} {asid : Option (BitVec 16 × Bool)} {addr : Option W64} {leaf : Bool} {res : CmdWord}
  (hs1p : s.s1p = true) (hres : s.res0Ill res 0 = false)
include hs1p hres

/-- A VMID that is matched, or zero where it is RES0 (R1158). -/
theorem nhCmd_vmid (hvmid : s.useVmid = true ∨ vmid = 0) :
    nhCmd vmid asid addr leaf res s = done (s.pend (.tlb (s.nhPred vmid asid addr leaf)) none) := by
  have hpart : s.vmidRes0 vmid = (true, s) := by
    simp only [State.vmidRes0, Bool.or_eq_true, decide_eq_true_eq, hvmid, if_true]
  simp only [nhCmd, hs1p, hres, hpart, Bool.not_true, Bool.false_eq_true, if_false]

/-- A VMID that is not matched and not zero: a draw says whether the command is performed (log entry 18). -/
theorem nhCmd_vmidRes0 (hvmid : ¬ (s.useVmid = true ∨ vmid = 0)) :
    nhCmd vmid asid addr leaf res s =
      done (if bit s.free 511 then s.drawn.pend (.tlb (s.nhPred vmid asid addr leaf)) none else s.drawn) := by
  have hpart : s.vmidRes0 vmid = (bit s.free 511, s.drawn) := by
    simp only [State.vmidRes0, Bool.or_eq_true, decide_eq_true_eq, hvmid, if_false]
  simp only [nhCmd, hs1p, hres, hpart, Bool.not_true, Bool.false_eq_true, if_false]
  cases bit s.free 511 <;> rfl

/-- What a CMD_TLBI_NH command does, whose scope is that of `P`. -/
theorem nhCmd_accepted {c : Instr} {P : TlbEnt → Prop} (hexec : exec c s = nhCmd vmid asid addr leaf res s)
    (hscope : ∀ e, s.tlbMatch (s.nhPred vmid asid addr leaf) e = true ↔ P e) :
    ((s.useVmid = true ∨ vmid = 0) → ∃ t, exec c s = .next t ∧ Asks s t ∧ TlbAccepted s t P) ∧
      (¬ (s.useVmid = true ∨ vmid = 0) → ∃ t, exec c s = .next t ∧ Queued s t ∧ t.draw = s.draw + 1 ∧
        t.prefetches = s.prefetches ∧ (t.pendingInval = s.pendingInval ∨ TlbAccepted s t P)) := by
  refine ⟨fun hvmid => asks_of_pend_tlb (hexec.trans (nhCmd_vmid s hs1p hres hvmid)) hscope, fun hvmid => ?_⟩
  rw [hexec, nhCmd_vmidRes0 s hs1p hres hvmid]
  split
  · obtain ⟨hqueued, hinval, hpre, hdraw⟩ :=
      consume_after s (s.drawn.pend (.tlb (s.nhPred vmid asid addr leaf)) none) (by simp [State.pend, State.drawn])
    exact ⟨_, rfl, hqueued, hdraw, hpre, .inr ⟨_, hinval, hscope⟩⟩
  · obtain ⟨hqueued, hinval, hpre, hdraw⟩ := consume_after s s.drawn (by simp [State.drawn])
    exact ⟨_, rfl, hqueued, hdraw, hpre, .inl hinval⟩

end

/-- Settles O17: each of the commands is the same one with other operands, whose scope is that of the operands it names. -/
theorem tlbiNonHypIsAccepted : Obligations.TlbiNonHypIsAccepted := by
  unfold Obligations.TlbiNonHypIsAccepted
  rintro s vmid asid leaf addr res i P hs1p hres (⟨rfl, rfl⟩ | ⟨rfl, rfl⟩ | ⟨rfl, rfl⟩ | ⟨rfl, rfl⟩)
  · exact nhCmd_accepted s hs1p hres rfl fun e => by simp [tlbMatch_nhPred_iff]
  · exact nhCmd_accepted s hs1p hres rfl fun e => by simp [tlbMatch_nhPred_iff, State.withAsid]
  · exact nhCmd_accepted s hs1p hres rfl fun e => by simp [tlbMatch_nhPred_iff, vaOperand_eq_append]
  · exact nhCmd_accepted s hs1p hres rfl fun e => by simp [tlbMatch_nhPred_iff, State.withAsid, vaOperand_eq_append]

/-! ### The commands of the EL2 and EL3 regimes -/

section
variable (s : State) {res : CmdWord} (hs1p : s.s1p = true) (hres : s.res0Ill res 0 = false)
include hs1p hres

theorem exec_tlbiEl3All (hq : s.curQ = .s) :
    exec (.tlbiEl3All res) s = done (s.pend (.tlb (stageOnePred .el3 none none false)) none) := by
  simp only [exec, execTlbiEl3All, hs1p, hres, hq]
  rfl

theorem exec_tlbiEl3Va (hq : s.curQ = .s) (leaf : Bool) (addr : BitVec 52) :
    exec (.tlbiEl3Va leaf addr res) s = done (s.pend (.tlb (stageOnePred .el3 none (some (vaOperand addr)) leaf)) none) := by
  simp only [exec, execTlbiEl3Va, hs1p, hres, hq]
  rfl

theorem exec_tlbiEl2All (hhyp : s.hyp = true) :
    exec (.tlbiEl2All res) s = done (s.pend (.tlb (TlbPred.all [.el2, .el2E2H] true false)) none) := by
  simp only [exec, execTlbiEl2All, hs1p, hres, hhyp]
  rfl

theorem exec_tlbiEl2Asid (hhyp : s.hyp = true) (asid : BitVec 16) :
    exec (.tlbiEl2Asid asid res) s =
      done (if s.e2hUnknown then s.drawn.pend (.tlb (stageOnePred .el2E2H (some (asid, false)) none false)) (some s.draw)
        else s.pend (.tlb (stageOnePred .el2E2H (some (asid, false)) none false)) none) := by
  simp only [exec, execTlbiEl2Asid, hs1p, hres, hhyp]
  cases s.e2hUnknown <;> rfl

theorem exec_tlbiEl2Va (hhyp : s.hyp = true) (asid : BitVec 16) (leaf : Bool) (addr : BitVec 52) :
    exec (.tlbiEl2Va asid leaf addr res) s = done (s.el2Va (some (asid, true)) leaf addr) := by
  simp only [exec, execTlbiEl2Va, hs1p, hres, hhyp]
  rfl

theorem exec_tlbiEl2Vaa (hhyp : s.hyp = true) (leaf : Bool) (addr : BitVec 52) :
    exec (.tlbiEl2Vaa leaf addr res) s = done (s.el2Va none leaf addr) := by
  simp only [exec, execTlbiEl2Vaa, hs1p, hres, hhyp]
  rfl

end

theorem tlbMatch_el2All_iff (s : State) (e : TlbEnt) :
    s.tlbMatch (TlbPred.all [.el2, .el2E2H] true false) e = true ↔ StageOne .el2 e ∨ StageOne .el2E2H e := by
  simp [tlbMatch_iff, TlbPred.all, StageOne, or_and_right]

/-- CMD_TLBI_EL2_ASID (R1169). -/
theorem tlbMatch_el2Asid_iff (s : State) (asid : BitVec 16) (e : TlbEnt) :
    s.tlbMatch (stageOnePred .el2E2H (some (asid, false)) none false) e = true ↔
      StageOne .el2E2H e ∧ e.glob = false ∧ s.ofAsid e asid := by
  simp [tlbMatch_stageOne_iff, State.withAsid]

/-- By address, of every ASID (R1165, R1168). -/
theorem tlbMatch_vaa_iff (s : State) (w : World) (leaf : Bool) (addr : BitVec 52) (e : TlbEnt) :
    s.tlbMatch (stageOnePred w none (some (vaOperand addr)) leaf) e = true ↔
      StageOne w e ∧ (leaf = true → e.last = true) ∧ HasAddr e (addr ++ 0#12) := by
  simp [tlbMatch_stageOne_iff, vaOperand_eq_append]

/-- By address and ASID, global entries included (R1167). -/
theorem tlbMatch_va_iff (s : State) (w : World) (asid : BitVec 16) (leaf : Bool) (addr : BitVec 52) (e : TlbEnt) :
    s.tlbMatch (stageOnePred w (some (asid, true)) (some (vaOperand addr)) leaf) e = true ↔
      StageOne w e ∧ (leaf = true → e.last = true) ∧ (e.glob = true ∨ s.ofAsid e asid) ∧ HasAddr e (addr ++ 0#12) := by
  simp [tlbMatch_stageOne_iff, State.withAsid, vaOperand_eq_append]

/-- Settles O18: each command asks for one invalidation; while E2H is UNKNOWN a draw picks the subset of CMD_TLBI_EL2_ASID. -/
theorem tlbiRegimeIsAccepted : Obligations.TlbiRegimeIsAccepted := by
  unfold Obligations.TlbiRegimeIsAccepted
  intro s leaf asid addr res hs1p hres
  refine ⟨fun hq => ⟨asks_of_pend_tlb (exec_tlbiEl3All s hs1p hres hq) fun e => ?el3All,
      asks_of_pend_tlb (exec_tlbiEl3Va s hs1p hres hq leaf addr) (tlbMatch_vaa_iff s .el3 leaf addr)⟩,
    fun hhyp => ⟨asks_of_pend_tlb (exec_tlbiEl2All s hs1p hres hhyp) (tlbMatch_el2All_iff s), fun hknown => ?known,
      fun hunknown => ?unknown⟩⟩
  case el3All => simp [tlbMatch_stageOne_iff]
  case known =>
    refine asks_of_pend_tlb ?_ (tlbMatch_el2Asid_iff s asid)
    rw [exec_tlbiEl2Asid s hs1p hres hhyp, if_neg (by simp [hknown])]
  case unknown =>
    obtain ⟨hqueued, hinval, hpre, -⟩ :=
      consume_after s (s.drawn.pend (.tlb (stageOnePred .el2E2H (some (asid, false)) none false)) (some s.draw))
        (by simp [State.pend, State.drawn])
    refine ⟨_, _, ?_, hqueued, hpre, hinval, tlbMatch_el2Asid_iff s asid⟩
    rw [exec_tlbiEl2Asid s hs1p hres hhyp, if_pos hunknown, done]

/-! ### CMD_TLBI_EL2_VA and CMD_TLBI_EL2_VAA -/

theorem el2Va_known {s : State} (h : s.e2hUnknown = false) (asid : Option (BitVec 16 × Bool)) (leaf : Bool) (addr : BitVec 52) :
    s.el2Va asid leaf addr =
      s.pend (.tlb (if s.e2h then stageOnePred .el2E2H asid (some (vaOperand addr)) leaf
        else stageOnePred .el2 none (some (vaOperand addr)) leaf)) none := by
  simp only [State.el2Va, h, Bool.false_eq_true, if_false]
  cases s.e2h <;> rfl

theorem el2Va_unknown {s : State} (h : s.e2hUnknown = true) (asid : Option (BitVec 16 × Bool)) (leaf : Bool) (addr : BitVec 52) :
    s.el2Va asid leaf addr =
      (s.drawn.drawn.pend (.tlb (stageOnePred .el2 none (some (vaOperand addr)) leaf)) (some s.draw)).pend
        (.tlb (stageOnePred .el2E2H asid (some (vaOperand addr)) leaf)) (some (s.draw + 1)) := by
  simp only [State.el2Va, h, if_true]
  rfl

/-- What a command by an address of the EL2 regimes does: `P` is its scope with E2H == 0, `Q` that with E2H == 1. -/
theorem el2Va_accepted (s : State) {c : Instr} {asid : Option (BitVec 16 × Bool)} {leaf : Bool} {addr : BitVec 52} {P Q : TlbEnt → Prop}
    (hexec : exec c s = done (s.el2Va asid leaf addr))
    (hel2 : ∀ e, s.tlbMatch (stageOnePred .el2 none (some (vaOperand addr)) leaf) e = true ↔ P e)
    (he2h : ∀ e, s.tlbMatch (stageOnePred .el2E2H asid (some (vaOperand addr)) leaf) e = true ↔ Q e) :
    (s.e2hUnknown = false → ∃ t, exec c s = .next t ∧ Asks s t ∧ TlbAccepted s t (if s.e2h then Q else P)) ∧
      (s.e2hUnknown = true → ∃ t p q, exec c s = .next t ∧ Queued s t ∧ t.prefetches = s.prefetches ∧
        t.pendingInval = s.pendingInval ++
          [{ s.inval (.tlb p) with subset := some s.draw }, { s.inval (.tlb q) with subset := some (s.draw + 1) }] ∧
        (∀ e, s.tlbMatch p e = true ↔ P e) ∧ ∀ e, s.tlbMatch q e = true ↔ Q e) := by
  refine ⟨fun hknown => ?known, fun hunknown => ?unknown⟩
  case known =>
    refine asks_of_pend_tlb (hexec.trans (congrArg done (el2Va_known hknown asid leaf addr))) ?_
    cases s.e2h with
    | false => exact hel2
    | true => exact he2h
  case unknown =>
    have hasked := el2Va_unknown hunknown asid leaf addr
    obtain ⟨hqueued, hinval, hpre, -⟩ :=
      consume_after s (s.el2Va asid leaf addr) (by simp [hasked, State.pend, State.drawn, Inval.logged])
    rw [hasked] at hexec hqueued hinval hpre
    exact ⟨_, _, _, hexec, hqueued, hpre, hinval.trans (List.append_assoc _ _ _), hel2, he2h⟩

/-- Settles O19: both commands are the same one, with an ASID and without. -/
theorem tlbiElTwoVaIsAccepted : Obligations.TlbiElTwoVaIsAccepted := by
  unfold Obligations.TlbiElTwoVaIsAccepted
  rintro s asid leaf addr res i P Q hs1p hhyp hres rfl (⟨rfl, rfl⟩ | ⟨rfl, rfl⟩)
  · exact el2Va_accepted s (exec_tlbiEl2Va s hs1p hres hhyp asid leaf addr) (tlbMatch_vaa_iff s .el2 leaf addr)
      (tlbMatch_va_iff s .el2E2H asid leaf addr)
  · exact el2Va_accepted s (exec_tlbiEl2Vaa s hs1p hres hhyp leaf addr) (tlbMatch_vaa_iff s .el2 leaf addr)
      (tlbMatch_vaa_iff s .el2E2H leaf addr)

/-! ### The commands of the NS-EL1 regime at both stages -/

/-- `Address[51:12]` of an operand stands above twelve zeros; SMMUv3.0 has no use for its upper four bits (R1055, R1170). -/
theorem ipaOperand_eq_append (s : State) (a : BitVec 40) :
    s.ipaOperand a = ((if s.v31 then a else a &&& 0xFFFFFFFFF) ++ 0#12).setWidth 64 := by
  have hplace : ∀ b : BitVec 40, place 64 b 12 = (b ++ 0#12).setWidth 64 := fun b => by
    have hlt := b.isLt
    rw [place, BitVec.append_def, BitVec.shiftLeftZeroExtend_eq]
    apply BitVec.eq_of_toNat_eq
    simp [Nat.shiftLeft_eq]
    omega
  exact hplace _

theorem exec_tlbiS12Vmall (s : State) {res : CmdWord} (hs2p : s.s2p = true) (hres : s.res0Ill res 0 = false) (vmid : BitVec 16) :
    exec (.tlbiS12Vmall vmid res) s = done (s.pend (.tlb { TlbPred.all [.nsEL1] true true with vmid := some vmid }) none) := by
  simp only [exec, execTlbiS12Vmall, hs2p, hres]
  rfl

theorem exec_tlbiS2Ipa (s : State) {res : CmdWord} {addr : BitVec 40} (hs2p : s.s2p = true)
    (hres : s.res0Ill res (v30Ipa addr) = false) (vmid : BitVec 16) (leaf : Bool) :
    exec (.tlbiS2Ipa vmid leaf addr res) s =
      done (s.pend (.tlb { TlbPred.all [.nsEL1] false true with
        vmid := some vmid, addr := some (s.ipaOperand addr), leaf := leaf }) none) := by
  simp only [exec, execTlbiS2Ipa, hs2p, hres]
  rfl

theorem exec_tlbiNsnhAll (s : State) {res : CmdWord} (hres : s.res0Ill res 0 = false) :
    exec (.tlbiNsnhAll res) s = done (s.pend (.tlb (TlbPred.all [.nsEL1] true true)) none) := by
  simp only [exec, execTlbiNsnhAll, hres]
  rfl

/-- Settles O20: each command asks for one invalidation, of entries of stage 2 alone where an IPA is named. -/
theorem tlbiStageTwoIsAccepted : Obligations.TlbiStageTwoIsAccepted := by
  unfold Obligations.TlbiStageTwoIsAccepted
  refine ⟨fun s vmid leaf addr res hs2p => ⟨fun hres => asks_of_pend_tlb (exec_tlbiS12Vmall s hs2p hres vmid) fun e => ?vmall,
      fun hres => asks_of_pend_tlb (exec_tlbiS2Ipa s hs2p hres vmid leaf) fun e => ?ipa⟩,
    fun s res hres => asks_of_pend_tlb (exec_tlbiNsnhAll s hres) fun e => ?all⟩
  case vmall => simp [tlbMatch_iff, TlbPred.all]
  case ipa => simp [tlbMatch_iff, TlbPred.all, ipaOperand_eq_append, and_left_comm]
  case all => simp [tlbMatch_iff, TlbPred.all]

/-! ### Commands of a feature that is not implemented -/

theorem nhCmd_withoutFeature {s : State} (h : s.s1p = false) (vmid : BitVec 16) (asid : Option (BitVec 16 × Bool)) (addr : Option W64)
    (leaf : Bool) (res : CmdWord) : nhCmd vmid asid addr leaf res s = ill s := by
  simp only [nhCmd, h, Bool.not_false, if_true]

/-- Settles O33: the missing feature is checked first, or every check before it is ILLEGAL too. -/
theorem commandsWithoutFeature : Obligations.CommandsWithoutFeature := by
  unfold Obligations.CommandsWithoutFeature
  intro s b c ssid sid asid vmid size group resp addr ipa res
  refine ⟨fun h => ?stageOne, fun h => ?el3, fun h => ?el2, fun h => ?stageTwo, fun h => ?ats, fun h => ?pri, fun h a stag => ?stall⟩
  case stageOne =>
    have hnh := nhCmd_withoutFeature h
    refine ⟨illegal_of_ill ?_, illegal_of_ill ?_, illegal_of_ill (hnh ..), illegal_of_ill (hnh ..), illegal_of_ill (hnh ..),
      illegal_of_ill (hnh ..)⟩
    · simp only [exec, execCfgiCd, h, Bool.not_false, if_true]
    · simp only [exec, execCfgiCdAll, h, Bool.not_false, if_true]
  case el3 =>
    have hill : (s.curQ == .ns || !s.s1p) = true := by simpa [or_comm] using h
    refine ⟨illegal_of_ill ?_, illegal_of_ill ?_⟩
    · simp only [exec, execTlbiEl3All, hill, if_true]
    · simp only [exec, execTlbiEl3Va, hill, if_true]
  case el2 =>
    have hill : (!s.s1p || !s.hyp) = true := by simpa using h
    refine ⟨illegal_of_ill ?_, illegal_of_ill ?_, illegal_of_ill ?_, illegal_of_ill ?_⟩
    · simp only [exec, execTlbiEl2All, hill, if_true]
    · simp only [exec, execTlbiEl2Asid, hill, if_true]
    · simp only [exec, execTlbiEl2Va, hill, if_true]
    · simp only [exec, execTlbiEl2Vaa, hill, if_true]
  case stageTwo =>
    refine ⟨illegal_of_ill ?_, illegal_of_ill ?_⟩
    · simp only [exec, execTlbiS12Vmall, h, Bool.not_false, if_true]
    · simp only [exec, execTlbiS2Ipa, h, Bool.not_false, if_true]
  case ats =>
    refine illegal_of_ill ?_
    obtain h | ⟨hq, hsams⟩ := h
    · simp [exec, execAtcInv, h]
    · simp [exec, execAtcInv, hq, hsams]
  case pri =>
    refine illegal_of_ill ?_
    obtain h | h | ⟨hq, hsams⟩ := h
    · simp [exec, execPriResp, h]
    · simp [exec, execPriResp, h]
    · simp [exec, execPriResp, hq, hsams]
  case stall =>
    refine ⟨illegal_of_ill ?_, illegal_of_ill ?_⟩
    · simp only [exec, execResume, h, if_true]
    · simp only [exec, execStallTerm, h, if_true]

end Sys2Proof.Machine
end

section
/-! PROOF. CMD_ATC_INV and CMD_PRI_RESP with operands in range, and as NOPs (42_cmd_ats_pri.md R1201 to R1204). -/
namespace Sys2Proof.Machine

/-! ### When the port is on -/

section
variable {s : State} {sys : Bool}

/-- The messages of the port that the system has (`sys`) are sent only with both SMMUEN (log entry 44). -/
theorem portOff_iff :
    (!sys || !s.portsOn) = true ↔ sys = false ∨ s.smmuen .ns = false ∨ s.smmuen s.curQ = false := by
  simp [State.portsOn, State.queueSmmuen]

theorem portOff_eq_false (hsys : sys = true) (hns : s.smmuen .ns = true) (hq : s.smmuen s.curQ = true) :
    (!sys || !s.portsOn) = false := by
  simp [State.portsOn, State.queueSmmuen, hsys, hns, hq]

end

/-! ### Operands in range -/

/-- A PASID in range, or none (R1203, R1204). -/
theorem pasidParam_in {s : State} {ssv : Bool} {ssid : BitVec 20} (h : ssv = true → s.ssidSize ≠ 0 ∧ ssid.toNat < 2 ^ s.ssidSize) :
    s.pasidParam ssv ssid = (some (if ssv then some ssid else none), s) := by
  cases ssv with
  | false => rfl
  | true =>
    obtain ⟨hsub, hssid⟩ := h rfl
    simp [State.pasidParam, State.pasids, hsub, ssidParam_in s ssid hssid]

theorem effect_operands_in {s : State} {ssv : Bool} {ssid : BitVec 20} {sid : BitVec 32} (hsid : sid.toNat < 2 ^ s.sidSize .ns)
    (hssid : ssv = true → s.ssidSize ≠ 0 ∧ ssid.toNat < 2 ^ s.ssidSize)
    (e : BitVec 32 → Option (BitVec 20) → State → State) :
    (effect (s.sidParam .ns sid) fun v u => effect (u.pasidParam ssv ssid) (e v)) = e sid (if ssv then some ssid else none) s := by
  rw [effect_some _ (sidParam_in s .ns sid hsid), effect_some _ (pasidParam_in hssid)]

/-! ### The Invalidate Request -/

theorem alignDown_eq_ofNat {w : Nat} (x : BitVec w) (n : Nat) : alignDown x n = BitVec.ofNat w (x.toNat / 2 ^ n * 2 ^ n) := by
  apply BitVec.eq_of_toNat_eq
  simp [alignDown, Nat.shiftRight_eq_div_pow, Nat.shiftLeft_eq]

/-- The request of CMD_ATC_INV has the Global bit only with a PASID, and the aligned address of the span (R1203). -/
theorem atcRequest_eq (glob ssv : Bool) (size : BitVec 6) (addr : BitVec 52) (sid : BitVec 32) (ssid : BitVec 20) :
    atcRequest glob size addr sid (if ssv then some ssid else none) =
      { sid := sid, pasid := if ssv then some ssid else none, glob := ssv && glob,
        addr := BitVec.ofNat 64 ((addr ++ 0#12).toNat / 2 ^ (12 + size.toNat) * 2 ^ (12 + size.toNat)), size := size } := by
  have hglob : (if ssv then some ssid else none).isSome = ssv := by cases ssv <;> rfl
  rw [atcRequest, hglob, atcAddress, vaOperand_eq_append, alignDown_eq_ofNat]

theorem setAtc_eq (s : State) (q : Sec) (l : List AtcReq) :
    s.setAtc q l = { s with atcNs := (s.setAtc q l).atcNs, atcS := (s.setAtc q l).atcS } := by
  cases q <;> rfl

theorem sendAtc_eq (s : State) (r : AtcReq) :
    s.sendAtc r = { s with out := s.out ++ [.atsInvalidate s.curQ r], atcNs := (s.sendAtc r).atcNs, atcS := (s.sendAtc r).atcS } :=
  setAtc_eq (s.emit (.atsInvalidate s.curQ r)) s.curQ _

theorem sendAtc_atc (s : State) (r : AtcReq) : (s.sendAtc r).atc s.curQ = s.atc s.curQ ++ [r] :=
  atc_setAtc (s.emit (.atsInvalidate s.curQ r)) s.curQ _

theorem sendAtc_atc_ne (s : State) (r : AtcReq) {q : Sec} (h : q ≠ s.curQ) : (s.sendAtc r).atc q = s.atc q := by
  have hkept := atc_setAtc_ne (s.emit (.atsInvalidate s.curQ r)) s.curQ q (s.atc s.curQ ++ [r]) h
  exact hkept.trans (by cases q <;> rfl)

/-! ### Commands that send a message -/

/-- A command that sends the messages `l`, and takes no free value. -/
theorem sends_of_done {s u : State} {c : Instr} {l : List Output} (hexec : exec c s = done u)
    (hu : u = { s with out := s.out ++ l, atcNs := u.atcNs, atcS := u.atcS }) :
    ∃ t, exec c s = .next t ∧ PortCommand s t l ∧ t.draw = s.draw ∧ ∀ q, t.atc q = u.atc q := by
  have hport : PortCommand s u.consume l := by
    rw [hu]
    exact portCommand_consume s s.draw l u.atcNs u.atcS
  obtain ⟨-, -, -, hframe⟩ := consume_effect u
  refine ⟨_, hexec, hport, ?draw, fun q => ?atc⟩
  case draw => rw [hframe, hu]
  case atc => rw [hframe]; cases q <;> rfl

/-- A command that sends an Invalidate Request, which becomes outstanding on its queue alone. -/
theorem requests_of_sendAtc {s : State} {c : Instr} {r : AtcReq} (hexec : exec c s = done (s.sendAtc r)) :
    ∃ t, exec c s = .next t ∧ PortCommand s t [.atsInvalidate s.curQ r] ∧ t.draw = s.draw ∧
      t.atc s.curQ = s.atc s.curQ ++ [r] ∧ ∀ q, q ≠ s.curQ → t.atc q = s.atc q := by
  obtain ⟨t, hnext, hport, hdraw, hatc⟩ := sends_of_done hexec (sendAtc_eq s r)
  exact ⟨t, hnext, hport, hdraw, (hatc _).trans (sendAtc_atc s r), fun q hne => (hatc q).trans (sendAtc_atc_ne s r hne)⟩

/-- Settles O22: the operands are in range and the request is sent, or the port is off. -/
theorem atcInvSendsRequest : Obligations.AtcInvSendsRequest := by
  unfold Obligations.AtcInvSendsRequest
  intro s glob ssv ssid sid size addr res hats hsams hres hsize
  refine ⟨fun hsys hns hq hsid hssid => requests_of_sendAtc ?sent, fun hoff => asks_of_done ?nop⟩
  case sent =>
    rw [exec_atcInv_on s hsams hres hats hsize (portOff_eq_false hsys hns hq), effect_operands_in hsid hssid, atcRequest_eq]
  case nop => rw [exec_atcInv s hsams hres hats hsize, atcInv_off s (portOff_iff.2 hoff)]

/-- Settles O23: the operands are in range and the response is sent, or the port is off. -/
theorem priRespSendsResponse : Obligations.PriRespSendsResponse := by
  unfold Obligations.PriRespSendsResponse
  intro s ssv ssid sid group resp res hpri hresp hsams hres
  refine ⟨fun hsys hns hq hsid hssid => ?sent,
    fun hoff => asks_of_done (exec_priResp_off s hsams hres hpri hresp (portOff_iff.2 hoff) ssv ssid sid group)⟩
  case sent =>
    have hrun : exec (.priResp ssv ssid sid group resp res) s =
        done (s.emit (.prgResponse sid (if ssv then some ssid else none) group (prgCode resp))) := by
      rw [exec_priResp_on s hsams hres hpri hresp (portOff_eq_false hsys hns hq), effect_operands_in hsid hssid]
    obtain ⟨t, hexec, hport, hdraw, hatc⟩ := sends_of_done hrun rfl
    exact ⟨t, hexec, hport, hdraw, hatc .ns, hatc .s⟩

end Sys2Proof.Machine
end

section
/-! PROOF. Commands with reserved fields (30_encoding.md R1055), and CMD_SYNC while Invalidate Requests are outstanding
(43_cmd_fault_sync.md R1241, R1246). -/
namespace Sys2Proof.Machine

/-! ### Reserved fields -/

/-- With the check every RES0 bit of a command is looked at, whatever SMMUv3.0 adds to them (R1055). -/
theorem res0Ill_of_ne {s : State} {res : CmdWord} (hcheck : s.impl.cmdRes0Check = true) (hres : res ≠ 0) (v30 : CmdWord) :
    s.res0Ill res v30 = true := by
  have hset : (res != 0) = true := bne_iff_ne.2 hres
  rw [State.res0Ill, hcheck, hset]
  rfl

/-- A command with a checked RES0 bit is ILLEGAL, for that or for a check that comes before (R1055). -/
theorem exec_res0 {s : State} {i : Instr} (hcheck : s.impl.cmdRes0Check = true) (hres : residue i ≠ 0) : exec i s = ill s := by
  have hill := res0Ill_of_ne hcheck hres
  cases i <;> dsimp only [residue] at hill hres
  case prefetchConfig | prefetchAddr | cfgiSte | cfgiSteRange | cfgiAll | cfgiCd | cfgiCdAll | resume | stallTerm =>
    simp only [exec, execPrefetchConfig, execPrefetchAddr, execCfgiSte, execCfgiSteRange, execCfgiAll, execCfgiCd, execCfgiCdAll,
      execResume, execStallTerm, hill, if_true, ite_self]
    repeat' split
    all_goals rfl
  case tlbiNhAll | tlbiNhAsid | tlbiNhVa | tlbiNhVaa | tlbiEl3All | tlbiEl3Va | tlbiEl2All | tlbiEl2Asid | tlbiEl2Va | tlbiEl2Vaa |
      tlbiS12Vmall | tlbiS2Ipa | tlbiNsnhAll =>
    simp only [exec, execTlbiNhAll, execTlbiNhAsid, execTlbiNhVa, execTlbiNhVaa, nhCmd, execTlbiEl3All, execTlbiEl3Va, execTlbiEl2All,
      execTlbiEl2Asid, execTlbiEl2Va, execTlbiEl2Vaa, execTlbiS12Vmall, execTlbiS2Ipa, execTlbiNsnhAll, hill, if_true, ite_self]
  case atcInv | priResp | sync => simp only [exec, execAtcInv, execPriResp, execSync, hill, if_true, ite_self]
  case reserved | impdef => exact absurd rfl hres

/-- Settles O34. -/
theorem reservedFieldsAreIllegal : Obligations.ReservedFieldsAreIllegal := by
  unfold Obligations.ReservedFieldsAreIllegal
  exact ⟨fun s msh attr data addr res => illegal_of_ill rfl, fun s i hcheck hres => illegal_of_ill (exec_res0 hcheck hres)⟩

/-! ### Outstanding Invalidate Requests -/

section
variable {s : State} {cs msh : BitVec 2} {attr : BitVec 4} {data : W32} {addr : BitVec 50} {res : CmdWord}
  (hcs : cs ≠ 3) (hres : s.res0Ok res (v30Msi addr))
include hcs hres

/-- A legal CMD_SYNC looks at the requests of its queue that timed out, then at those outstanding, then it completes the invalidations
(R1241, R1246). -/
theorem execSync_legal : execSync cs msh attr data addr res s =
    if s.atcTimedOut then if s.impl.atcTimeoutErr then .next (s.clearAtc.cmdError .atcInvSync) else waits s
    else if !(s.atc s.curQ).isEmpty then waits s
    else if (s.completeInvals s.curQ).pendingInval.any fun i => i.origin == some s.curQ then waits (s.completeInvals s.curQ)
    else doneSync ((s.completeInvals s.curQ).syncDone cs msh attr data addr) := by
  have hlegal : s.res0Ill res (v30Msi addr) = false := hres
  simp only [execSync, hcs, hlegal, if_false, Bool.false_eq_true]

end

/-- The requests that timed out are forgotten, and no other (log entry 22). -/
theorem clearAtc_atcTimedOut (s : State) : s.clearAtc.atcTimedOut = false := by
  unfold State.clearAtc
  split
  · next hq => simp only [State.atcTimedOut, hq]; rfl
  · next hq => simp only [State.atcTimedOut, hq]; rfl

theorem clearAtc_atc (s : State) (q : Sec) : s.clearAtc.atc q = s.atc q := by
  unfold State.clearAtc
  split <;> cases q <;> rfl

/-- The command error procedure leaves the requests alone. -/
theorem CommandError.atc {code : BitVec 7} {s t : State} (h : CommandError code s t) :
    t.atcTimedOut = s.atcTimedOut ∧ ∀ q, t.atc q = s.atc q := by
  obtain ⟨-, -, -, -, -, -, -, -, -, hframe⟩ := h
  rw [hframe]
  exact ⟨rfl, fun q => by cases q <;> rfl⟩

/-- Settles O31. -/
theorem syncWaitsForInvalidateRequests : Obligations.SyncWaitsForInvalidateRequests := by
  unfold Obligations.SyncWaitsForInvalidateRequests
  intro s cs msh attr data addr res hcs hres
  have hrun := execSync_legal (msh := msh) (attr := attr) (data := data) hcs hres
  refine ⟨fun hlate hatc => ?outstanding, fun hlate herr => ?silent, fun hlate herr => ?reported⟩
  case outstanding =>
    refine hrun.trans ?_
    rw [hlate, if_neg Bool.false_ne_true]
    exact if_pos (by simpa using hatc)
  case silent =>
    refine hrun.trans ?_
    rw [hlate, herr]
    rfl
  case reported =>
    have herror := cmdError_effect s.clearAtc .atcInvSync
    obtain ⟨hnone, hothers⟩ := herror.atc
    refine ⟨_, hrun.trans ?_, herror, hnone.trans (clearAtc_atcTimedOut s), (hothers _).trans (clearAtc_atc s _)⟩
    rw [hlate, herr]
    rfl

end Sys2Proof.Machine
end

section
/-! PROOF. CMD_RESUME and CMD_STALL_TERM (43_cmd_fault_sync.md R1230, R1233, 60_exceptions.md R1682), and what was commanded for a
stalled transaction (60_exceptions.md R1680, R1691, R1706). -/
namespace Sys2Proof.Machine

/-! ### What was commanded is carried out -/

/-- With Secure support and ATS a transaction arrives as it is. -/
theorem transaction_eq {s : State} (hsec : s.secureImpl = true) (hats : s.ats = true) (t : Txn) :
    s.transaction t = { s with inFlight := s.inFlight ++ [{ txn := t, stage := .accepted }], pmcgPast := s.livePast } := by
  simp only [State.transaction, hsec, hats, if_true, Bool.and_true]

section
variable {s : State} {n : Nat} {x : Stall} (hx : s.stalled[n]? = some x)
include hx

/-- In Service Failure Mode a stalled transaction is terminated, whatever was commanded (R1706). -/
theorem resolveStall_abort (h : x.act = some .abort ∨ s.sfm = true) :
    s.resolveStall n = ({ s with stalled := s.stalled.eraseIdx n } : State).abortTxn x.txn := by
  simp only [State.resolveStall, hx]
  cases hsfm : s.sfm with
  | true => rfl
  | false =>
    have hact : x.act = some .abort := h.resolve_right (by simp [hsfm])
    simp only [hact]
    rfl

section
variable (hsfm : s.sfm = false)
include hsfm

theorem resolveStall_razwi (h : x.act = some .razwi) :
    s.resolveStall n = ({ s with stalled := s.stalled.eraseIdx n } : State).emit (.razwi x.txn.id) := by
  simp only [State.resolveStall, hx, hsfm, h]
  rfl

/-- A retried transaction is accepted as it is, with Secure support and ATS (R1680, R1691). -/
theorem resolveStall_retry (h : x.act = some .retry) (hsec : s.secureImpl = true) (hats : s.ats = true) :
    s.resolveStall n = { s with stalled := s.stalled.eraseIdx n, pmcgPast := s.livePast,
                                inFlight := s.inFlight ++ [{ txn := x.txn, stage := .accepted }] } := by
  simp only [State.resolveStall, hx, h]
  exact (if_neg (by simp [hsfm])).trans (transaction_eq (s := { s with stalled := s.stalled.eraseIdx n }) hsec hats x.txn)

theorem resolveStall_waits (h : x.act = none) (hfresh : x.stale = false) : s.resolveStall n = s := by
  simp only [State.resolveStall, hx, hsfm, h, hfresh]
  rfl

end
end

/-- Settles O27: by what was commanded, and by Service Failure Mode. -/
theorem markedStallIsTerminated : Obligations.MarkedStallIsTerminated := by
  unfold Obligations.MarkedStallIsTerminated
  intro s n x rest h hoff hx
  have hstep : step s = .next (({ s with agenda := rest } : State).resolveStall n) := step_of_agenda h hoff
  have hx : ({ s with agenda := rest } : State).stalled[n]? = some x := hx
  refine ⟨fun habort hcls => hstep.trans (congrArg _ ?abort), fun hsfm => ⟨fun hact => hstep.trans (congrArg _ ?razwi),
    fun hact hsec hats => hstep.trans (congrArg _ ?retry), fun hact hfresh => hstep.trans (congrArg _ ?stays)⟩⟩
  case abort =>
    rw [resolveStall_abort hx habort, State.abortTxn, if_neg hcls]
    rfl
  case razwi => exact resolveStall_razwi hx hsfm hact
  case retry => exact resolveStall_retry hx hsfm hact hsec hats
  case stays => exact resolveStall_waits hx hsfm hact hfresh

/-! ### The commands, with a StreamID in range -/

section
variable {s : State} {sec : Sec} {ssec : Bool} {sid : BitVec 32} {res : CmdWord} (hstall : s.noStall = false)
  (hsec : s.sec ssec = some sec) (hres : s.res0Ok res 0) (hsid : sid.toNat < 2 ^ s.sidSize sec)
include hstall hsec hres hsid

theorem exec_resume_in (ac ab : Bool) (stag : BitVec 16) :
    exec (.resume ssec ac ab sid stag res) s = done (s.resume sec ac ab stag sid) :=
  (exec_resume s hstall hsec hres ac ab sid stag).trans (congrArg done (effect_some _ (sidParam_in s sec sid hsid)))

theorem exec_stallTerm_in : exec (.stallTerm ssec sid res) s = done (s.stallTerm sec sid) :=
  (exec_stallTerm s hstall hsec hres sid).trans (congrArg done (effect_some _ (sidParam_in s sec sid hsid)))

end

/-- A command that ends in `u`: it is a command for stalled transactions, and what it leaves of them is what `u` has. -/
theorem stallCommand_of_effect {s u : State} (h : StallEffect s u) :
    StallCommand s u.consume ∧ u.consume.stalled = u.stalled ∧ u.consume.stags = u.stags ∧ u.consume.draw = u.draw ∧
      ∀ q, u.consume.events q = u.events q := by
  obtain ⟨d, l, m, e, f, rfl⟩ := h
  obtain ⟨-, -, -, hframe⟩ := consume_effect { s with draw := d, stalled := l, stags := m, eventsNs := e, eventsS := f }
  refine ⟨stallCommand_consume s d l m e f, ?_, ?_, ?_, fun q => ?_⟩ <;> rw [hframe]
  cases q <;> rfl

/-- Settles O25. -/
theorem stallTermCompletes : Obligations.StallTermCompletes := by
  unfold Obligations.StallTermCompletes
  intro s ssec sid res hstall hq hres hsid
  have hsec : s.sec ssec = some (if s.curQ = .s ∧ ssec = true then .s else .ns) := by
    unfold State.sec
    cases hcur : s.curQ <;> cases ssec <;> simp_all [cmdSec]
  exact ⟨_, exec_stallTerm_in hstall hsec hres hsid, (stallCommand_of_effect (stallTerm_effect s _ sid)).1⟩

/-! ### The acknowledgement of a record, and the action commanded -/

/-- What the acknowledgement of a record does to a stalled transaction: a duplicate suppressed behind it is retried (R1682). -/
def Stall.acked (sec : Sec) (sid : BitVec 32) (tag : BitVec 16) (y : Stall) : Stall :=
  if y.parent = some tag ∧ y.txn.sec = sec ∧ y.txn.sid = sid ∧ y.act = none then { y with act := some .retry } else y

theorem ackStag_eq (s : State) (sec : Sec) (sid : BitVec 32) (tag : BitVec 16) :
    s.ackStag sec sid tag = { s with stalled := s.stalled.map (Stall.acked sec sid tag)
                                     stags := s.stags.filter fun k => !k.names sec sid tag } := by
  have hdup : (fun y : Stall => if (y.parent == some tag && y.txn.sec == sec && y.txn.sid == sid) && y.act.isNone then
      { y with act := some .retry } else y) = Stall.acked sec sid tag := by
    funext y
    simp only [Stall.acked, Bool.and_eq_true, beq_iff_eq, Option.isNone_iff_eq_none, and_assoc]
  rw [← hdup]
  rfl

theorem mem_ackStag_stags {s : State} {sec : Sec} {sid : BitVec 32} {tag : BitVec 16} {k : StagUse} :
    k ∈ (s.ackStag sec sid tag).stags ↔ k ∈ s.stags ∧ k.names sec sid tag = false := by
  simp [ackStag_eq]

/-- Where no duplicate waits behind the record, no stalled transaction changes. -/
theorem ackStag_stalled_none {s : State} {sec : Sec} {sid : BitVec 32} {tag : BitVec 16}
    (h : ∀ y ∈ s.stalled, ¬ (y.parent = some tag ∧ y.txn.sec = sec ∧ y.txn.sid = sid)) :
    (s.ackStag sec sid tag).stalled = s.stalled := by
  rw [ackStag_eq]
  refine (List.map_congr_left fun y hy => ?_).trans (List.map_id _)
  exact if_neg fun ⟨hparent, hsec, hsid, _⟩ => h y hy ⟨hparent, hsec, hsid⟩

/-- A stalled transaction with the action commanded for it. -/
def Stall.marked (x : Stall) (a : StallAct) : Stall := { x with act := some a }

section
variable {s : State} {n : Nat} {x : Stall} (hx : s.stalled[n]? = some x) (a : StallAct)
include hx

/-- A marked transaction, and the acknowledgement of its record if it has one. -/
theorem markStall_eq : s.markStall n a = x.stag.elim { s with stalled := s.stalled.set n (x.marked a) }
    (({ s with stalled := s.stalled.set n (x.marked a) } : State).ackStag x.txn.sec x.txn.sid) := by
  simp only [State.markStall, hx, Stall.marked]
  cases h : x.stag <;> rfl

theorem markStall_same : (s.markStall n a).stalled[n]? = some (x.marked a) := by
  have hset : (s.stalled.set n (x.marked a))[n]? = some (x.marked a) := List.getElem?_set_self (List.getElem?_eq_some_iff.1 hx).1
  rw [markStall_eq hx]
  cases x.stag with
  | none => exact hset
  | some tag =>
    simp only [Option.elim_some, ackStag_eq, List.getElem?_map, hset, Option.map_some]
    exact congrArg some (if_neg fun ⟨_, _, _, hact⟩ => absurd hact (Option.some_ne_none a))

theorem markStall_ne {m : Nat} {y : Stall} (hne : m ≠ n) (hy : s.stalled[m]? = some y) :
    (s.markStall n a).stalled[m]? = some (x.stag.elim y fun tag => y.acked x.txn.sec x.txn.sid tag) := by
  have hset : (s.stalled.set n (x.marked a))[m]? = some y := (List.getElem?_set_ne hne.symm).trans hy
  rw [markStall_eq hx]
  cases x.stag with
  | none => exact hset
  | some tag => simp only [Option.elim_some, ackStag_eq, List.getElem?_map, hset, Option.map_some]

theorem markStall_length : (s.markStall n a).stalled.length = s.stalled.length := by
  rw [markStall_eq hx]
  cases x.stag with
  | none => exact List.length_set
  | some tag => simp [ackStag_eq]

theorem mem_markStall_stags {k : StagUse} :
    k ∈ (s.markStall n a).stags ↔ k ∈ s.stags ∧ ∀ tag, x.stag = some tag → k.names x.txn.sec x.txn.sid tag = false := by
  rw [markStall_eq hx]
  cases x.stag with
  | none => simp
  | some tag => simp [mem_ackStag_stags]

end

/-! ### CMD_RESUME -/

/-- A stalled transaction that no command has named yet is found by its STAG, where it alone has that. -/
theorem findStall_unique {s : State} {sec : Sec} {sid : BitVec 32} {stag : BitVec 16} {n : Nat} {x : Stall}
    (hx : s.stalled[n]? = some x) (hof : x.isOf sec sid stag) (hact : x.act = none)
    (honly : ∀ m y, s.stalled[m]? = some y → y.isOf sec sid stag → m = n) : s.findStall sec sid stag = some n := by
  obtain ⟨hlt, rfl⟩ := List.getElem?_eq_some_iff.1 hx
  have hfound : s.stalled.findIdx? (fun x => (x.txn.sec == sec && x.txn.sid == sid && x.stag == some stag) && x.act.isNone) = some n := by
    refine List.findIdx?_eq_some_iff_getElem.2 ⟨hlt, ?_, fun m hm hhit => ?_⟩
    · simp [hact, hof.1, hof.2.1, hof.2.2]
    · simp only [Bool.and_eq_true, beq_iff_eq] at hhit
      exact absurd (honly m _ (List.getElem?_eq_getElem (hm.trans hlt)) ⟨hhit.1.1.1, hhit.1.1.2, hhit.1.2⟩) (Nat.ne_of_lt hm)
  simp only [State.findStall, hfound]

theorem findStall_none {s : State} {sec : Sec} {sid : BitVec 32} {stag : BitVec 16} (h : ∀ x ∈ s.stalled, ¬ x.isOf sec sid stag) :
    s.findStall sec sid stag = none := by
  have hnone {p : Stall → Bool} (hp : ∀ x, p x = true → x.isOf sec sid stag) : s.stalled.findIdx? p = none :=
    List.findIdx?_eq_none_iff.2 fun x hx => Bool.eq_false_iff.2 fun hpx => h x hx (hp x hpx)
  unfold State.findStall
  dsimp only
  rw [hnone (fun x hx => ?_), hnone fun x hx => ?_]
  · simpa [Stall.isOf, and_assoc] using hx
  · simp only [Bool.and_eq_true, beq_iff_eq] at hx
    exact ⟨hx.1.1.1, hx.1.1.2, hx.1.2⟩

/-- Settles O24: the transaction is found and marked, or its STAG is acknowledged alone. -/
theorem resumeMarksStall : Obligations.ResumeMarksStall := by
  unfold Obligations.ResumeMarksStall
  intro s sec ssec ac ab sid stag res hstall hsec hres hsid
  have hexec := exec_resume_in hstall hsec hres hsid ac ab stag
  refine ⟨fun n x hx hof hrec hact honly => ?marked, fun hnone => ?freed⟩
  case marked =>
    have hresume : s.resume sec ac ab stag sid = s.markStall n (s.resumeAct ac ab) := by
      simp only [State.resume, findStall_unique hx hof hact honly, Option.elim_some, State.resumeStall, hx, hrec, hact]
      rfl
    obtain ⟨rfl, rfl, htag⟩ := hof
    obtain ⟨hcommand, hstalled, hstags, hdraw, hevents⟩ := stallCommand_of_effect (markStall_only s n (s.resumeAct ac ab)).effect
    obtain ⟨l, m, honly⟩ := markStall_only s n (s.resumeAct ac ab)
    refine ⟨_, hexec.trans (congrArg done hresume), hcommand, hdraw.trans (by rw [honly]), (hevents .ns).trans ?_, (hevents .s).trans ?_,
      ?_, fun m y hne hy => ?_, ?_, fun k => ?_⟩
    · rw [honly]; rfl
    · rw [honly]; rfl
    · rw [hstalled, markStall_same hx]; rfl
    · rw [hstalled, markStall_ne hx _ hne hy, htag]; rfl
    · rw [hstalled, markStall_length hx]
    · rw [hstags, mem_markStall_stags hx, htag]
      simp
  case freed =>
    have hresume : s.resume sec ac ab stag sid = s.ackStag sec sid stag := by
      simp only [State.resume, findStall_none fun x hx => (hnone x hx).1, Option.elim_none]
    obtain ⟨hcommand, hstalled, hstags, hdraw, hevents⟩ := stallCommand_of_effect (ackStag_only s sec sid stag).effect
    refine ⟨_, hexec.trans (congrArg done hresume), hcommand, hdraw, hstalled.trans (ackStag_stalled_none fun y hy => (hnone y hy).2),
      hevents .ns, hevents .s, fun k => ?_⟩
    rw [hstags, mem_ackStag_stags]

/-! ### CMD_STALL_TERM -/

/-- What the terminations of a stream leave of a stalled transaction `x`: one of the stream may be marked for an abort, or, as a duplicate,
for a retry (R1682). -/
def Stall.leaves (sec : Sec) (sid : BitVec 32) (x y : Stall) : Prop :=
  y = x ∨ (x.txn.sec = sec ∧ x.txn.sid = sid) ∧
    (y = { x with act := some .abort } ∨ x.parent ≠ none ∧ x.act = none ∧ y = { x with act := some .retry })

section
variable {sec : Sec} {sid : BitVec 32} {x y z : Stall}

theorem Stall.leaves_trans (h : x.leaves sec sid y) (h' : y.leaves sec sid z) : x.leaves sec sid z := by
  obtain rfl | ⟨hof, rfl | ⟨hparent, hact, rfl⟩⟩ := h
  · exact h'
  · obtain rfl | ⟨-, rfl | ⟨-, hnone, -⟩⟩ := h'
    · exact .inr ⟨hof, .inl rfl⟩
    · exact .inr ⟨hof, .inl rfl⟩
    · cases hnone
  · obtain rfl | ⟨-, rfl | ⟨-, hnone, -⟩⟩ := h'
    · exact .inr ⟨hof, .inr ⟨hparent, hact, rfl⟩⟩
    · exact .inr ⟨hof, .inl rfl⟩
    · cases hnone

/-- Marked for an abort, the transaction is the same as it would have been. -/
theorem Stall.leaves_abort (h : x.leaves sec sid y) : { y with act := some .abort } = { x with act := some .abort } := by
  obtain rfl | ⟨-, rfl | ⟨-, -, rfl⟩⟩ := h <;> rfl

theorem Stall.leaves_txn (h : x.leaves sec sid y) : y.txn = x.txn := by
  obtain rfl | ⟨-, rfl | ⟨-, -, rfl⟩⟩ := h <;> rfl

/-- One that is marked for an abort stays so. -/
theorem Stall.eq_of_abort_leaves (h : ({ x with act := some .abort } : Stall).leaves sec sid y) : y = { x with act := some .abort } := by
  obtain rfl | ⟨-, rfl | ⟨-, hnone, -⟩⟩ := h
  · rfl
  · rfl
  · cases hnone

theorem Stall.leaves_acked (tag : BitVec 16) : x.leaves sec sid (x.acked sec sid tag) := by
  unfold Stall.acked
  split
  · next h =>
    obtain ⟨hparent, hsec, hsid, hact⟩ := h
    exact .inr ⟨⟨hsec, hsid⟩, .inr ⟨by simp [hparent], hact, rfl⟩⟩
  · exact .inl rfl

end

/-- What the terminations of a stream leave of the stalled transactions and the tags in use. -/
structure Terminates (sec : Sec) (sid : BitVec 32) (s t : State) : Prop where
  length : t.stalled.length = s.stalled.length
  left : ∀ {n : Nat} {x : Stall}, s.stalled[n]? = some x → ∃ y, t.stalled[n]? = some y ∧ x.leaves sec sid y
  tags : ∀ k ∈ t.stags, k ∈ s.stags
  others : ∀ k ∈ s.stags, ¬ (k.sec = sec ∧ k.sid = sid) → k ∈ t.stags

section
variable {sec : Sec} {sid : BitVec 32}

theorem Terminates.refl (s : State) : Terminates sec sid s s :=
  ⟨rfl, fun h => ⟨_, h, .inl rfl⟩, fun _ h => h, fun _ h _ => h⟩

theorem Terminates.trans {s t u : State} (h : Terminates sec sid s t) (h' : Terminates sec sid t u) : Terminates sec sid s u where
  length := h'.length.trans h.length
  left hx := by
    obtain ⟨y, hy, hxy⟩ := h.left hx
    obtain ⟨z, hz, hyz⟩ := h'.left hy
    exact ⟨z, hz, Stall.leaves_trans hxy hyz⟩
  tags k hk := h.tags k (h'.tags k hk)
  others k hk hne := h'.others k (h.others k hk hne) hne

theorem Terminates.of_eq {s t u : State} (h : Terminates sec sid s t) (hstalled : u.stalled = t.stalled) (hstags : u.stags = t.stags) :
    Terminates sec sid s u := by
  obtain ⟨hlength, hleft, htags, hothers⟩ := h
  rw [← hstalled] at hlength
  refine ⟨hlength, fun hx => ?_, fun k hk => htags k (hstags ▸ hk), fun k hk hne => hstags ▸ hothers k hk hne⟩
  rw [hstalled]
  exact hleft hx

theorem markStall_terminates {s : State} {n : Nat} {x : Stall} (hx : s.stalled[n]? = some x) (hof : x.txn.sec = sec ∧ x.txn.sid = sid) :
    Terminates sec sid s (s.markStall n .abort) where
  length := markStall_length hx .abort
  left {m y} hy := by
    by_cases hne : m = n
    · obtain rfl : x = y := Option.some.inj (hx.symm.trans (hne ▸ hy))
      exact ⟨_, hne ▸ markStall_same hx .abort, .inr ⟨hof, .inl rfl⟩⟩
    · refine ⟨_, markStall_ne hx .abort hne hy, ?_⟩
      obtain ⟨rfl, rfl⟩ := hof
      cases x.stag with
      | none => exact .inl rfl
      | some tag => exact Stall.leaves_acked tag
  tags k hk := ((mem_markStall_stags hx .abort).1 hk).1
  others k hk hne := by
    refine (mem_markStall_stags hx .abort).2 ⟨hk, fun tag _ => ?_⟩
    rw [hof.1, hof.2]
    by_contra hnames
    simp only [StagUse.names, Bool.not_eq_false, Bool.and_eq_true, beq_iff_eq] at hnames
    exact hne hnames.1

/-- One transaction of the sweep. -/
theorem termOne_terminates {s : State} {n : Nat} {x : Stall} (hx : s.stalled[n]? = some x) (pick : Bool) :
    Terminates sec sid s (if x.txn.sec == sec && x.txn.sid == sid && pick then s.markStall n .abort else s) := by
  split
  · next h =>
    simp only [Bool.and_eq_true, beq_iff_eq] at h
    exact markStall_terminates hx h.1
  · exact Terminates.refl s

theorem termStalls_terminates (pick : Nat → Bool) (k n : Nat) (s : State) :
    Terminates sec sid s (State.termStalls sec sid pick k n s) := by
  induction k generalizing n s with
  | zero => exact Terminates.refl s
  | succ k ih =>
    unfold State.termStalls
    split
    · exact Terminates.refl s
    · next x hx => exact (termOne_terminates hx (pick n)).trans (ih _ _)

/-- Where every one is selected, every transaction of the stream is marked for an abort. -/
theorem termStalls_all {k n m : Nat} {s : State} {x : Stall} (hx : s.stalled[m]? = some x) (hof : x.txn.sec = sec ∧ x.txn.sid = sid)
    (hle : n ≤ m) (hlt : m < n + k) :
    (State.termStalls sec sid (fun _ => true) k n s).stalled[m]? = some { x with act := some .abort } := by
  induction k generalizing n s x with
  | zero => omega
  | succ k ih =>
    have hm : m < s.stalled.length := (List.getElem?_eq_some_iff.1 hx).1
    unfold State.termStalls
    split
    · next hnone => exact absurd (List.getElem?_eq_none_iff.1 hnone) (by omega)
    · next z hz =>
      by_cases heq : m = n
      · subst heq
        obtain rfl : x = z := Option.some.inj (hx.symm.trans hz)
        have hpick : (x.txn.sec == sec && x.txn.sid == sid && true) = true := by simp [hof]
        simp only [hpick, if_true]
        obtain ⟨y, hy, hleft⟩ := (termStalls_terminates (fun _ => true) k (m + 1) (s.markStall m .abort)).left
          (sec := sec) (sid := sid) (markStall_same hx .abort)
        rw [hy, Stall.eq_of_abort_leaves hleft]
      · obtain ⟨y, hy, hleft⟩ := (termOne_terminates (sec := sec) (sid := sid) hz true).left hx
        rw [ih hy (by rw [Stall.leaves_txn hleft]; exact hof) (by omega) (by omega), Stall.leaves_abort hleft]

/-- What may be dropped of the records that wait: stall records of the stream. -/
def KeepsOtherRecords (sec : Sec) (sid : BitVec 32) (s t : State) : Prop :=
  (∀ e ∈ t.events sec, e ∈ s.events sec) ∧ (∀ e ∈ s.events sec, e.stag = none ∨ fld e.ev 32 32 ≠ sid → e ∈ t.events sec) ∧
    ∀ q, q ≠ sec → t.events q = s.events q

theorem StallsOnly.events {s t : State} (h : StallsOnly s t) (q : Sec) : t.events q = s.events q := by
  obtain ⟨l, m, rfl⟩ := h
  cases q <;> rfl

/-- The records that stay where the stall records of a stream at the positions `drop` are dropped. -/
def keptRecords (sid : BitVec 32) (drop : Nat → Bool) (l : List PendEv) : List PendEv :=
  (l.zipIdx.filter fun x => !(x.1.stag.isSome && fld x.1.ev 32 32 == sid && drop x.2)).map Prod.fst

theorem mem_keptRecords {drop : Nat → Bool} {l : List PendEv} {e : PendEv} :
    e ∈ keptRecords sid drop l ↔ ∃ k, l[k]? = some e ∧ (e.stag.isSome && fld e.ev 32 32 == sid && drop k) = false := by
  simp only [keptRecords, List.mem_map, List.mem_filter, Prod.exists, exists_and_right, exists_eq_right,
    List.mem_zipIdx_iff_getElem?, Bool.not_eq_true']

section
variable {s : State} (h : s.streamTerminates sec sid = true)
include h

/-- With the precondition of CMD_STALL_TERM (R1233) every transaction of the stream is marked, and its tags are free. -/
theorem stallTerm_certain : s.stallTerm sec sid =
    { State.termStalls sec sid (fun _ => true) s.stalled.length 0 s with
      stags := (State.termStalls sec sid (fun _ => true) s.stalled.length 0 s).stags.filter fun y => !(y.sec == sec && y.sid == sid) } :=
  if_pos h

theorem stallTerm_certain_frame : (s.stallTerm sec sid).draw = s.draw ∧ ∀ q, (s.stallTerm sec sid).events q = s.events q := by
  obtain ⟨l, m, hterm⟩ := termStalls_only sec sid (fun _ => true) s.stalled.length 0 s
  rw [stallTerm_certain h, hterm]
  exact ⟨rfl, fun q => by cases q <;> rfl⟩

theorem stallTerm_certain_marks {n : Nat} {x : Stall} (hx : s.stalled[n]? = some x) (hof : x.txn.sec = sec ∧ x.txn.sid = sid) :
    (s.stallTerm sec sid).stalled[n]? = some { x with act := some .abort } := by
  have hlt : n < s.stalled.length := (List.getElem?_eq_some_iff.1 hx).1
  rw [stallTerm_certain h]
  exact termStalls_all hx hof n.zero_le (by omega)

theorem mem_stallTerm_certain_stags {k : StagUse} :
    k ∈ (s.stallTerm sec sid).stags ↔ k ∈ s.stags ∧ ¬ (k.sec = sec ∧ k.sid = sid) := by
  have hterm := termStalls_terminates (sec := sec) (sid := sid) (fun _ => true) s.stalled.length 0 s
  rw [stallTerm_certain h]
  simp only [List.mem_filter, Bool.not_eq_true', Bool.and_eq_false_imp, beq_iff_eq, beq_eq_false_iff_ne, not_and]
  exact ⟨fun ⟨hk, hne⟩ => ⟨hterm.tags k hk, hne⟩, fun ⟨hk, hne⟩ => ⟨hterm.others k hk (not_and.2 hne), hne⟩⟩

end

/-- Without it each transaction of the stream is marked or not, and each stall record of it is kept or not (U45). -/
theorem stallTerm_open {s : State} (h : s.streamTerminates sec sid = false) : ∃ (pick drop : Nat → Bool) (d : Nat),
    s.stallTerm sec sid =
      ((State.termStalls sec sid pick s.stalled.length 0 s).setEvents sec (keptRecords sid drop (s.events sec))).withDraw d := by
  have hopen : ¬ s.streamTerminates sec sid = true := Bool.eq_false_iff.1 h
  exact ⟨fun i => bit (Config.freeValue (s.draw + i / 512)) (i % 512),
    fun i => bit (Config.freeValue (s.draw + (s.stalled.length / 512 + 1) + i / 512)) (i % 512), _, if_neg hopen⟩

theorem withDraw_events (s : State) (d : Nat) (q : Sec) : (s.withDraw d).events q = s.events q := by cases q <;> rfl

theorem stallTerm_terminates (s : State) : Terminates sec sid s (s.stallTerm sec sid) := by
  cases h : s.streamTerminates sec sid with
  | true =>
    have hterm := termStalls_terminates (sec := sec) (sid := sid) (fun _ => true) s.stalled.length 0 s
    have hfewer (k : StagUse) := mem_stallTerm_certain_stags (s := s) (k := k) h
    refine ⟨?_, fun hx => ?_, fun k hk => ((hfewer k).1 hk).1, fun k hk hne => (hfewer k).2 ⟨hk, hne⟩⟩
    · rw [stallTerm_certain h]
      exact hterm.length
    · rw [stallTerm_certain h]
      exact hterm.left hx
  | false =>
    obtain ⟨pick, drop, d, heq⟩ := stallTerm_open h
    rw [heq]
    exact (termStalls_terminates pick s.stalled.length 0 s).of_eq (setEvents_stalled _ _ _) (setEvents_stags _ _ _)

theorem stallTerm_records (s : State) : KeepsOtherRecords sec sid s (s.stallTerm sec sid) := by
  cases h : s.streamTerminates sec sid with
  | true =>
    obtain ⟨-, hevents⟩ := stallTerm_certain_frame h
    refine ⟨fun e he => ?_, fun e he _ => ?_, fun q _ => hevents q⟩
    · rwa [hevents] at he
    · rwa [hevents]
  | false =>
    obtain ⟨pick, drop, d, heq⟩ := stallTerm_open h
    rw [heq]
    refine ⟨fun e he => ?_, fun e he hother => ?_, fun q hq => ?_⟩
    · rw [withDraw_events, events_setEvents] at he
      obtain ⟨k, hk, -⟩ := mem_keptRecords.1 he
      exact List.mem_of_getElem? hk
    · obtain ⟨k, hk⟩ := List.mem_iff_getElem?.1 he
      rw [withDraw_events, events_setEvents]
      refine mem_keptRecords.2 ⟨k, hk, ?_⟩
      obtain hnone | hne := hother
      · simp [hnone]
      · simp [hne]
    · rw [withDraw_events, events_setEvents_ne _ _ _ _ hq, (termStalls_only sec sid pick s.stalled.length 0 s).events q]

end

/-- Settles O26: what becomes of a stalled transaction, of the records that wait and, with the precondition, of the tags. -/
theorem stallTermMarksStream : Obligations.StallTermMarksStream := by
  unfold Obligations.StallTermMarksStream
  intro s sec ssec sid res hstall hsec hres hsid
  obtain ⟨hcommand, hstalled, hstags, hdraw, hevents⟩ := stallCommand_of_effect (stallTerm_effect s sec sid)
  have hterm := stallTerm_terminates (sec := sec) (sid := sid) s
  obtain ⟨hfewer, hothers, helse⟩ := stallTerm_records (sec := sec) (sid := sid) s
  refine ⟨_, exec_stallTerm_in hstall hsec hres hsid, hcommand, ?length, fun n x hx hne => ?others, fun n x hx => ?each, ?fewer, ?kept,
    fun q hq => (hevents q).trans (helse q hq), fun h => ⟨fun n x hx hof => ?marked, fun k => ?tags, ?rest⟩⟩
  case length => rw [hstalled, hterm.length]
  case others =>
    obtain ⟨y, hy, rfl | ⟨hof, -⟩⟩ := hterm.left hx
    · rwa [hstalled]
    · exact absurd hof hne
  case each =>
    rw [hstalled]
    obtain ⟨y, hy, rfl | ⟨-, rfl | ⟨hparent, hact, rfl⟩⟩⟩ := hterm.left hx
    · exact .inl hy
    · exact .inr (.inl hy)
    · exact .inr (.inr ⟨hparent, hact, hy⟩)
  case fewer => rwa [hevents]
  case kept => rwa [hevents]
  case marked => rw [hstalled, stallTerm_certain_marks h hx hof]
  case tags => rw [hstags, mem_stallTerm_certain_stags h]
  case rest =>
    obtain ⟨hsame, hnone⟩ := stallTerm_certain_frame h
    exact ⟨hdraw.trans hsame, (hevents .ns).trans (hnone .ns), (hevents .s).trans (hnone .s)⟩

end Sys2Proof.Machine
end

section
/-! PROOF. The invalidations that a CMD_SYNC completes, or waits for (43_cmd_fault_sync.md R1241, 20_memory.md R480, R485). -/
namespace Sys2Proof.Machine

/-! ### What invalidations can change -/

/-- What invalidations that take effect can change: cached entries go, or have another SIF, and transactions that were not passed
downstream start again. -/
structure Invalidates (s t : State) : Prop where
  frame : ∃ c l f d, t = { s with cfgCache := c, tlb := l, inFlight := f, draw := d }
  cfg : ∀ e ∈ t.cfgCache, ∃ e' ∈ s.cfgCache, e'.noSif = e.noSif
  tlb : ∀ e ∈ t.tlb, e ∈ s.tlb
  started : ∀ f ∈ t.inFlight, f ∈ s.inFlight ∨ f.stage = .accepted
  passed : ∀ f ∈ s.inFlight, ∀ w c l, f.stage = .issued w c l → f ∈ t.inFlight
  txn : ∀ f ∈ s.inFlight, ∃ g ∈ t.inFlight, g.txn = f.txn
  txn_of : ∀ g ∈ t.inFlight, ∃ f ∈ s.inFlight, f.txn = g.txn

namespace Invalidates

theorem refl (s : State) : Invalidates s s where
  frame := ⟨_, _, _, _, rfl⟩
  cfg e he := ⟨e, he, rfl⟩
  tlb _ he := he
  started _ hf := .inl hf
  passed _ hf _ _ _ _ := hf
  txn f hf := ⟨f, hf, rfl⟩
  txn_of g hg := ⟨g, hg, rfl⟩

theorem trans {s t u : State} (h : Invalidates s t) (h' : Invalidates t u) : Invalidates s u where
  frame := by
    obtain ⟨c, l, f, d, rfl⟩ := h.frame
    exact h'.frame
  cfg e he := by
    obtain ⟨e', he', h1⟩ := h'.cfg e he
    obtain ⟨e'', he'', h2⟩ := h.cfg e' he'
    exact ⟨e'', he'', h2.trans h1⟩
  tlb e he := h.tlb e (h'.tlb e he)
  started f hf := by
    obtain hf | hacc := h'.started f hf
    · exact h.started f hf
    · exact .inr hacc
  passed f hf w c l hst := h'.passed f (h.passed f hf w c l hst) w c l hst
  txn f hf := by
    obtain ⟨g, hg, h1⟩ := h.txn f hf
    obtain ⟨k, hk, h2⟩ := h'.txn g hg
    exact ⟨k, hk, h2.trans h1⟩
  txn_of k hk := by
    obtain ⟨g, hg, h1⟩ := h'.txn_of k hk
    obtain ⟨f, hf, h2⟩ := h.txn_of g hg
    exact ⟨f, hf, h2.trans h1⟩

section
variable {s t : State} (h : Invalidates s t)
include h

/-- What is in the scope of an invalidation does not depend on what others removed. -/
theorem tlbDue (p : TlbPred) (e : TlbEnt) : t.tlbDue p e = s.tlbDue p e := by
  obtain ⟨c, l, f, d, rfl⟩ := h.frame
  rfl

theorem tlbMatch (p : TlbPred) (e : TlbEnt) : t.tlbMatch p e = s.tlbMatch p e := by
  obtain ⟨c, l, f, d, rfl⟩ := h.frame
  rfl

theorem stopped (i : Inval) (f : Flight) : t.stopped i f = s.stopped i f := by
  obtain ⟨c, l, k, d, rfl⟩ := h.frame
  rfl

theorem waitedFor (i : Inval) (f : Flight) : t.waitedFor i f = s.waitedFor i f := by
  obtain ⟨c, l, k, d, rfl⟩ := h.frame
  rfl

end
end Invalidates

/-! ### One invalidation -/

theorem stopped_issued {s : State} {i : Inval} {f : Flight} {w : Fwd} {c : List CfgEnt} {l : List TlbEnt} (h : f.stage = .issued w c l) :
    s.stopped i f = false := by
  simp only [State.stopped, h]

theorem stopped_accepted {s : State} {i : Inval} {f : Flight} (h : f.stage = .accepted) : s.stopped i f = false := by
  simp only [State.stopped, h]

/-- Only what was passed downstream is waited for. -/
theorem issued_of_waitedFor {s : State} {i : Inval} {f : Flight} (h : s.waitedFor i f = true) : ∃ w c l, f.stage = .issued w c l := by
  unfold State.waitedFor at h
  split at h
  · next w c l hst => exact ⟨w, c, l, hst⟩
  · cases h

/-- SIF is no part of a scope (log entry 45). -/
theorem cfgMatch_noSif (sc : InvScope) (e : CfgEnt) : cfgMatch sc e.noSif = cfgMatch sc e := by cases sc <;> rfl

theorem cfgMatch_congr {sc : InvScope} {e e' : CfgEnt} (h : e'.noSif = e.noSif) : cfgMatch sc e' = cfgMatch sc e := by
  rw [← cfgMatch_noSif sc e', h, cfgMatch_noSif]

section
variable (s : State) (i : Inval)

/-- A cached structure of after was there before, out of the scope. -/
theorem cfg_of_mem_applyInval {e : CfgEnt} (h : e ∈ (s.applyInval i).cfgCache) :
    cfgMatch i.scope e = false ∧ ∃ e' ∈ s.cfgCache, e'.noSif = e.noSif := by
  by_cases hs : ∃ p, i.scope = .tlb p
  · obtain ⟨p, hp⟩ := hs
    refine ⟨by rw [hp]; rfl, ?_⟩
    rw [applyInval_tlb_cfgCache hp] at h
    obtain ⟨e', he', rfl⟩ := List.mem_map.1 h
    refine ⟨e', he', ?_⟩
    split <;> rfl
  · obtain ⟨he, hout⟩ := (mem_applyInval_cfgCache (not_exists.1 hs) e).1 h
    exact ⟨hout, e, he, rfl⟩

/-- A cached structure out of the scope stays. -/
theorem mem_applyInval_of_not_cfgMatch {e : CfgEnt} (h : e ∈ s.cfgCache) (hout : cfgMatch i.scope e = false) :
    ∃ e' ∈ (s.applyInval i).cfgCache, e'.noSif = e.noSif := by
  by_cases hs : ∃ p, i.scope = .tlb p
  · obtain ⟨p, hp⟩ := hs
    rw [applyInval_tlb_cfgCache hp]
    refine ⟨_, List.mem_map_of_mem h, ?_⟩
    split <;> rfl
  · exact ⟨e, (mem_applyInval_cfgCache (not_exists.1 hs) e).2 ⟨h, hout⟩, rfl⟩

/-- A transaction in flight of after, as it was or started again. -/
theorem mem_applyInval_flights {g : Flight} : g ∈ (s.applyInval i).inFlight ↔
    ∃ f ∈ s.inFlight, (if s.stopped i f then { f with stage := .accepted } else f) = g := by
  rw [applyInval_inFlight]
  exact List.mem_map

theorem applyInval_invalidates : Invalidates s (s.applyInval i) where
  frame := ⟨_, _, _, _, applyInval_frame s i⟩
  cfg e he := (cfg_of_mem_applyInval s i he).2
  tlb e he := mem_of_mem_applyInval he
  started g hg := by
    obtain ⟨f, hf, rfl⟩ := (mem_applyInval_flights s i).1 hg
    split
    · exact .inr rfl
    · exact .inl hf
  passed f hf w c l hst := (mem_applyInval_flights s i).2 ⟨f, hf, by rw [stopped_issued hst]; rfl⟩
  txn f hf := ⟨_, (mem_applyInval_flights s i).2 ⟨f, hf, rfl⟩, by split <;> rfl⟩
  txn_of g hg := by
    obtain ⟨f, hf, rfl⟩ := (mem_applyInval_flights s i).1 hg
    exact ⟨f, hf, by split <;> rfl⟩

end

/-- Nothing is cached, and no translated transaction uses, what an invalidation removes. -/
def Inval.doneIn (i : Inval) (t : State) : Prop :=
  (∀ e ∈ t.cfgCache, cfgMatch i.scope e = false) ∧
    (i.subset = none → ∀ p, i.scope = .tlb p → ∀ e ∈ t.tlb, t.tlbDue p e = false) ∧ ∀ f ∈ t.inFlight, t.stopped i f = false

theorem applyInval_done (s : State) (i : Inval) : i.doneIn (s.applyInval i) := by
  have hinv := applyInval_invalidates s i
  refine ⟨fun e he => (cfg_of_mem_applyInval s i he).1, fun hsub p hp e he => ?_, fun g hg => ?_⟩
  · rw [hinv.tlbDue]
    exact tlbDue_of_mem_applyInval hp hsub he
  · rw [hinv.stopped]
    obtain ⟨f, hf, rfl⟩ := (mem_applyInval_flights s i).1 hg
    split
    · exact stopped_accepted rfl
    · next h => exact Bool.eq_false_iff.2 h

theorem Invalidates.keeps_done {s t : State} (h : Invalidates s t) {i : Inval} (hi : i.doneIn s) : i.doneIn t := by
  obtain ⟨hcfg, htlb, hflight⟩ := hi
  refine ⟨fun e he => ?_, fun hsub p hp e he => ?_, fun f hf => ?_⟩
  · obtain ⟨e', he', hsame⟩ := h.cfg e he
    rw [← cfgMatch_congr hsame]
    exact hcfg e' he'
  · rw [h.tlbDue]
    exact htlb hsub p hp e (h.tlb e he)
  · rw [h.stopped]
    obtain hf | hacc := h.started f hf
    · exact hflight f hf
    · exact stopped_accepted hacc

/-! ### Several invalidations -/

/-- The state after invalidations take effect, one after another. -/
def State.applyInvals (s : State) (l : List Inval) : State := l.foldl State.applyInval s

theorem applyInvals_invalidates (l : List Inval) (s : State) : Invalidates s (s.applyInvals l) := by
  induction l generalizing s with
  | nil => exact Invalidates.refl s
  | cons i l ih => exact (applyInval_invalidates s i).trans (ih _)

theorem applyInvals_done {l : List Inval} {i : Inval} (h : i ∈ l) (s : State) : i.doneIn (s.applyInvals l) := by
  induction l generalizing s with
  | nil => cases h
  | cons j l ih =>
    obtain rfl | h := List.mem_cons.1 h
    · exact (applyInvals_invalidates l _).keeps_done (applyInval_done s i)
    · exact ih h _

theorem mem_applyInvals_of_not_cfgMatch {l : List Inval} {s : State} {e : CfgEnt} (he : e ∈ s.cfgCache)
    (hout : ∀ i ∈ l, cfgMatch i.scope e = false) : ∃ e' ∈ (s.applyInvals l).cfgCache, e'.noSif = e.noSif := by
  induction l generalizing s e with
  | nil => exact ⟨e, he, rfl⟩
  | cons i l ih =>
    obtain ⟨e', he', hsame⟩ := mem_applyInval_of_not_cfgMatch s i he (hout i (.head l))
    obtain ⟨e'', he'', hsame'⟩ := ih he' fun j hj => by rw [cfgMatch_congr hsame]; exact hout j (.tail i hj)
    exact ⟨e'', he'', hsame'.trans hsame⟩

theorem mem_applyInvals_of_not_tlbMatch {l : List Inval} {s : State} {e : TlbEnt} (he : e ∈ s.tlb)
    (hout : ∀ i ∈ l, ∀ p, i.scope = .tlb p → s.tlbMatch p e = false) : e ∈ (s.applyInvals l).tlb := by
  induction l generalizing s with
  | nil => exact he
  | cons i l ih =>
    refine ih (mem_applyInval_of_not_match he (hout i (.head l))) fun j hj p hp => ?_
    rw [(applyInval_invalidates s i).tlbMatch]
    exact hout j (.tail i hj) p hp

/-! ### The invalidations of a Command queue -/

/-- The pending invalidations of a Command queue that have not taken effect. -/
def freshOf (q : Sec) (l : List Inval) : List Inval := l.filter fun i => i.origin == some q && i.wait.isNone

theorem mem_freshOf {q : Sec} {l : List Inval} {i : Inval} : i ∈ freshOf q l ↔ i ∈ l ∧ i.origin = some q ∧ i.wait = none := by
  simp [freshOf]

theorem beginInval_state (s : State) (i : Inval) : (s.beginInval i).2 = s.applyInvals (if i.wait.isNone then [i] else []) := by
  cases h : i.wait with
  | none => rw [beginInval_fresh h]; rfl
  | some l => rw [beginInval_waiting h]; rfl

theorem beginInval_invalidates (s : State) (i : Inval) : Invalidates s (s.beginInval i).2 := by
  rw [beginInval_state]
  exact applyInvals_invalidates _ s

theorem beginInval_origin (s : State) (i : Inval) : (s.beginInval i).1.origin = i.origin := by
  cases h : i.wait with
  | none => rw [beginInval_fresh h]; rfl
  | some l => rw [beginInval_waiting h]

section
variable {q : Sec} {i : Inval} (l : List Inval) (s : State)

theorem beginAll_cons_other (h : i.origin ≠ some q) :
    State.beginAll q (i :: l) s = (i :: (State.beginAll q l s).1, (State.beginAll q l s).2) := by
  have hother : (i.origin == some q) = false := by simpa using h
  simp only [State.beginAll, hother]
  rfl

theorem beginAll_cons_own (h : i.origin = some q) :
    State.beginAll q (i :: l) s =
      (if (s.beginInval i).2.drained (s.beginInval i).1 then (State.beginAll q l (s.beginInval i).2).1
        else (s.beginInval i).1 :: (State.beginAll q l (s.beginInval i).2).1, (State.beginAll q l (s.beginInval i).2).2) := by
  have hown : (i.origin == some q) = true := by simpa using h
  simp only [State.beginAll, hown]
  rfl

end

/-- Those of the queue that have not taken effect do so. -/
theorem beginAll_state (q : Sec) (l : List Inval) (s : State) : (State.beginAll q l s).2 = s.applyInvals (freshOf q l) := by
  induction l generalizing s with
  | nil => rfl
  | cons i l ih =>
    by_cases h : i.origin = some q
    · rw [beginAll_cons_own l s h, ih, beginInval_state]
      cases hw : i.wait <;> simp [freshOf, State.applyInvals, h, hw]
    · rw [beginAll_cons_other l s h, ih]
      simp [freshOf, h]

theorem completeInvals_eq (s : State) (q : Sec) : s.completeInvals q =
    { s.applyInvals (freshOf q s.pendingInval) with pendingInval := (State.beginAll q s.pendingInval s).1 } := by
  rw [← beginAll_state]
  rfl

/-! ### Which of them complete -/

/-- No transaction in flight makes an invalidation wait: none was passed downstream, and of those that it waits for already none is
under way. -/
def State.calm (s : State) (q : Sec) (l : List Inval) : Prop :=
  (∀ f ∈ s.inFlight, ∀ w cfg tlb, f.stage ≠ .issued w cfg tlb) ∧
    ∀ i ∈ l, i.origin = some q → ∀ w, i.wait = some w → ∀ f ∈ w, ∀ g ∈ s.inFlight, g.txn ≠ f.txn

theorem Invalidates.calm {s t : State} (h : Invalidates s t) {q : Sec} {l : List Inval} (hs : s.calm q l) : t.calm q l := by
  obtain ⟨hissued, hwait⟩ := hs
  refine ⟨fun f hf w cfg tlb hst => ?_, fun i hi ho w hw f hf g hg => ?_⟩
  · obtain hf | hacc := h.started f hf
    · exact hissued f hf w cfg tlb hst
    · cases hst.symm.trans hacc
  · obtain ⟨g', hg', hsame⟩ := h.txn_of g hg
    rw [← hsame]
    exact hwait i hi ho w hw f hf g' hg'

/-- One that nothing makes wait completes at once. -/
theorem drained_of_calm {s : State} {q : Sec} {l : List Inval} {i : Inval} (h : s.calm q l) (hi : i ∈ l) (ho : i.origin = some q) :
    (s.beginInval i).2.drained (s.beginInval i).1 = true := by
  obtain ⟨hissued, hwait⟩ := h
  cases hw : i.wait with
  | none =>
    rw [beginInval_fresh hw, drained_begun_iff]
    intro f hf
    by_contra hwaited
    obtain ⟨w, cfg, tlb, hst⟩ := issued_of_waitedFor (Bool.not_eq_false _ ▸ hwaited)
    exact hissued f hf w cfg tlb hst
  | some w =>
    have hgone := hwait i hi ho w hw
    rw [beginInval_waiting hw]
    by_cases hatc : ∃ sid, i.scope = .atc sid
    · obtain ⟨sid, hsid⟩ := hatc
      rw [drained_atc_iff hsid, hw]
      exact hgone
    · rw [drained_iff (not_exists.1 hatc), hw]
      exact fun f hf hin => hgone f hf f hin rfl

/-- Every invalidation of the queue completes where nothing makes one wait (R1241). -/
theorem beginAll_complete {q : Sec} {l : List Inval} {s : State} (h : s.calm q l) :
    (State.beginAll q l s).1 = l.filter fun i => i.origin != some q := by
  induction l generalizing s with
  | nil => rfl
  | cons i l ih =>
    have htail : s.calm q l := ⟨h.1, fun j hj => h.2 j (.tail i hj)⟩
    by_cases ho : i.origin = some q
    · rw [beginAll_cons_own l s ho, if_pos (drained_of_calm h (.head l) ho), ih ((beginInval_invalidates s i).calm htail)]
      simp [ho]
    · rw [beginAll_cons_other l s ho, ih htail]
      simp [ho]

/-- A transaction in flight makes an invalidation wait: it was passed downstream with what is removed, or an ATS invalidation
waits for it. -/
def State.holdsUp (s : State) (f : Flight) (i : Inval) : Prop :=
  (i.wait = none ∧ s.waitedFor i f = true) ∨ ∃ sid l, i.scope = .atc sid ∧ i.wait = some l ∧ ∃ g ∈ l, f.txn = g.txn

theorem Invalidates.holdsUp {s t : State} (h : Invalidates s t) {f : Flight} {i : Inval} (hf : f ∈ s.inFlight) (hi : s.holdsUp f i) :
    ∃ g ∈ t.inFlight, t.holdsUp g i := by
  obtain ⟨hw, hwaited⟩ | ⟨sid, l, hatc, hw, k, hk, hsame⟩ := hi
  · obtain ⟨w, c, l, hst⟩ := issued_of_waitedFor hwaited
    exact ⟨f, h.passed f hf w c l hst, .inl ⟨hw, (h.waitedFor i f).trans hwaited⟩⟩
  · obtain ⟨g, hg, htxn⟩ := h.txn f hf
    exact ⟨g, hg, .inr ⟨sid, l, hatc, hw, k, hk, htxn.trans hsame⟩⟩

theorem not_drained_of_holdsUp {s : State} {f : Flight} {i : Inval} (hf : f ∈ s.inFlight) (h : s.holdsUp f i) :
    ¬ (s.beginInval i).2.drained (s.beginInval i).1 = true := by
  obtain ⟨hw, hwaited⟩ | ⟨sid, l, hatc, hw, k, hk, hsame⟩ := h
  · rw [beginInval_fresh hw, drained_begun_iff]
    exact fun hnone => Bool.false_ne_true ((hnone f hf).symm.trans hwaited)
  · rw [beginInval_waiting hw, drained_atc_iff hatc, hw]
    exact fun hnone => hnone k hk f hf hsame

/-- One that a transaction makes wait stays pending, or another of the queue does (R480, R485). -/
theorem beginAll_waits {q : Sec} {l : List Inval} {s : State} {i : Inval} {f : Flight} (hi : i ∈ l) (ho : i.origin = some q)
    (hf : f ∈ s.inFlight) (h : s.holdsUp f i) : ∃ j ∈ (State.beginAll q l s).1, j.origin = some q := by
  induction l generalizing s f with
  | nil => cases hi
  | cons j l ih =>
    obtain rfl | hi := List.mem_cons.1 hi
    · rw [beginAll_cons_own l s ho, if_neg (not_drained_of_holdsUp hf h)]
      exact ⟨_, .head _, (beginInval_origin s i).trans ho⟩
    · by_cases hj : j.origin = some q
      · obtain ⟨g, hg, hhold⟩ := (beginInval_invalidates s j).holdsUp hf h
        obtain ⟨k, hk, hko⟩ := ih hi hg hhold
        rw [beginAll_cons_own l s hj]
        refine ⟨k, ?_, hko⟩
        split
        · exact hk
        · exact .tail _ hk
      · obtain ⟨k, hk, hko⟩ := ih hi hf h
        rw [beginAll_cons_other l s hj]
        exact ⟨k, .tail _ hk, hko⟩

end Sys2Proof.Machine
end

section
/-! PROOF. What a CMD_SYNC that completes changes: the Event queues it settles, the MSIs of earlier ones that it delivers, and the bytes
of memory that these write (43_cmd_fault_sync.md R1240 to R1244). -/
namespace Sys2Proof.Machine

/-! ### Bytes written -/

/-- Bytes are written in windows alone, and the memories keep their canonical form. -/
def StoresIn (w : List (Bool × Nat × Nat)) (s t : State) : Prop :=
  Memory.wf s.mem = true → Memory.wf s.internal = true →
    Memory.wf t.mem = true ∧ Memory.wf t.internal = true ∧ SameBytesBut w s t

namespace StoresIn
variable {w w' : List (Bool × Nat × Nat)} {s t u : State}

theorem trans (h : StoresIn w s t) (h' : StoresIn w t u) : StoresIn w s u := fun hm hi => by
  obtain ⟨hm', hi', hbytes⟩ := h hm hi
  obtain ⟨hm'', hi'', hbytes'⟩ := h' hm' hi'
  exact ⟨hm'', hi'', fun ns a ha => (hbytes' ns a ha).trans (hbytes ns a ha)⟩

theorem of_same (himpl : t.impl = s.impl) (hmem : t.mem = s.mem) (hint : t.internal = s.internal) : StoresIn w s t := fun hm hi =>
  ⟨hmem ▸ hm, hint ▸ hi, fun ns a _ => by simp only [State.byte, himpl, hmem, hint]⟩

theorem of_writes (h : WritesOnly w s t) : StoresIn w s t := fun hm hi => ⟨(h.wf hm hi).1, (h.wf hm hi).2, h.bytes hm hi⟩

/-- Wider windows. -/
theorem mono (h : StoresIn w s t) (hw : ∀ x ∈ w, ∀ ns a, inWindow x.1 x.2.1 x.2.2 ns a → ∃ y ∈ w', inWindow y.1 y.2.1 y.2.2 ns a) :
    StoresIn w' s t := fun hm hi => by
  obtain ⟨hm', hi', hbytes⟩ := h hm hi
  refine ⟨hm', hi', fun ns a ha => hbytes ns a fun x hx hin => ?_⟩
  obtain ⟨y, hy, hin'⟩ := hw x hx ns a hin
  exact ha y hy hin'

end StoresIn

/-! ### What settling can change -/

/-- The registers that the delivery of events and MSIs does not move. -/
def Iface.keptBySync (i : Iface) : Iface := { i with gerror := 0, eventqProd := 0 }

/-- What the delivery of events and MSIs leaves alone, as far as a CMD_SYNC goes. -/
def State.keptBySync (s : State) :=
  ((s.impl, s.ids, s.curQ), (s.cfgCache, s.tlb, s.inFlight, s.pendingInval, s.steLog), s.ns.keptBySync, s.s.keptBySync)

/-- Only the events of the interfaces `qs` change, only bytes in the windows `w` do, and what a CMD_SYNC keeps stands. -/
structure SyncOnly (qs : List Sec) (w : List (Bool × Nat × Nat)) (s t : State) : Prop where
  kept : t.keptBySync = s.keptBySync
  events : ∀ p, p ∉ qs → t.events p = s.events p
  stores : StoresIn w s t

namespace SyncOnly
variable {qs : List Sec} {q : Sec} {w : List (Bool × Nat × Nat)} {s t u : State}

theorem trans (h : SyncOnly qs w s t) (h' : SyncOnly qs w t u) : SyncOnly qs w s u :=
  ⟨h'.kept.trans h.kept, fun p hp => (h'.events p hp).trans (h.events p hp), h.stores.trans h'.stores⟩

theorem ite {c : Prop} [Decidable c] (ht : SyncOnly qs w s t) (hu : SyncOnly qs w s u) : SyncOnly qs w s (if c then t else u) := by
  split
  · exact ht
  · exact hu

/-- A change of what a CMD_SYNC does not keep, that writes no memory. -/
theorem quiet (hkept : t.keptBySync = s.keptBySync) (hevents : ∀ p, p ∉ qs → t.events p = s.events p) (hmem : t.mem = s.mem)
    (hint : t.internal = s.internal) : SyncOnly qs w s t := by
  refine ⟨hkept, hevents, StoresIn.of_same ?_ hmem hint⟩
  simp only [State.keptBySync, Prod.mk.injEq] at hkept
  exact hkept.1.1

theorem refl (s : State) : SyncOnly qs w s s := quiet rfl (fun _ _ => rfl) rfl rfl

theorem of_writes (h : WritesOnly w s t) : SyncOnly qs w s t := by
  refine ⟨?_, fun p _ => ?_, StoresIn.of_writes h⟩
  · obtain ⟨m, i, ⟨l, k, r, d, rfl⟩, -⟩ := h
    rfl
  · obtain ⟨m, i, ⟨l, k, r, d, rfl⟩, -⟩ := h
    cases p <;> rfl

theorem of_ras (h : RasOnly s t) : SyncOnly qs w s t := of_writes (WritesOnly.of_ras h)

theorem of_stalls (h : StallsOnly s t) : SyncOnly qs w s t := by
  obtain ⟨l, m, rfl⟩ := h
  exact quiet rfl (fun p _ => by cases p <;> rfl) rfl rfl

theorem setIface {i : Iface} (h : i.keptBySync = (s.iface q).keptBySync) : SyncOnly qs w s (s.setIface q i) := by
  refine quiet ?_ (fun p _ => by cases q <;> cases p <;> rfl) (setIface_mem s q i) (setIface_internal s q i)
  cases q with
  | ns => simp only [State.keptBySync, State.setIface, h, iface_ns]
  | s => simp only [State.keptBySync, State.setIface, h, iface_s]

theorem setEvents (hq : q ∈ qs) (l : List PendEv) : SyncOnly qs w s (s.setEvents q l) :=
  quiet (by cases q <;> rfl) (fun p hp => events_setEvents_ne s q p l fun h => hp (h ▸ hq)) (setEvents_mem s q l)
    (setEvents_internal s q l)

theorem mono {qs' : List Sec} (h : SyncOnly qs w s t) (hq : ∀ p ∈ qs, p ∈ qs') : SyncOnly qs' w s t :=
  ⟨h.kept, fun p hp => h.events p fun hin => hp (hq p hin), h.stores⟩

/-! What stands. -/

theorem iface_kept (h : SyncOnly qs w s t) (p : Sec) : (t.iface p).keptBySync = (s.iface p).keptBySync := by
  have hkept := h.kept
  simp only [State.keptBySync, Prod.mk.injEq] at hkept
  cases p
  · exact hkept.2.2.1
  · exact hkept.2.2.2

theorem curQ (h : SyncOnly qs w s t) : t.curQ = s.curQ := by
  have hkept := h.kept
  simp only [State.keptBySync, Prod.mk.injEq] at hkept
  exact hkept.1.2.2

theorem ids (h : SyncOnly qs w s t) : t.ids = s.ids ∧ t.impl = s.impl := by
  have hkept := h.kept
  simp only [State.keptBySync, Prod.mk.injEq] at hkept
  exact ⟨hkept.1.2.1, hkept.1.1⟩

end SyncOnly

/-! ### The windows -/

theorem oas_congr {s t : State} (h : t.ids = s.ids) : t.oas = s.oas := by
  have hids : t.oas = ({ s with ids := t.ids } : State).oas := rfl
  rw [hids, h]

/-- Where an Event queue is depends on its base register and on what an implementation fixes. -/
theorem eventqWindow_congr {s t : State} {q : Sec} (hids : t.ids = s.ids) (himpl : t.impl = s.impl)
    (hbase : (t.iface q).eventqBase = (s.iface q).eventqBase) : t.eventqWindow q = s.eventqWindow q := by
  have hidr : t.idr1 = s.idr1 := by simp only [State.idr1, hids]
  simp only [State.eventqWindow, State.queueBase, State.eventqs, hidr, himpl, hbase, oas_congr hids]

theorem SyncOnly.window {qs : List Sec} {w : List (Bool × Nat × Nat)} {s t : State} (h : SyncOnly qs w s t) (q : Sec) :
    t.eventqWindow q = s.eventqWindow q :=
  eventqWindow_congr h.ids.1 h.ids.2 (congrArg Iface.eventqBase (h.iface_kept q) :)

/-- The 32 bytes of a record lie in its Event queue. -/
theorem record_inWindow {s : State} {q : Sec} {i : Nat} (hi : i < 2 ^ s.eventqs q) {ns : Bool} {a : Nat}
    (h : inWindow q.isNs (s.queueBase (s.iface q).eventqBase (s.eventqs q + 5) + 32 * i) 32 ns a) :
    inWindow (s.eventqWindow q).1 (s.eventqWindow q).2.1 (s.eventqWindow q).2.2 ns a := by
  obtain ⟨j, hj, hkey⟩ := h
  refine ⟨32 * i + j, ?_, ?_⟩
  · have hsize : (s.eventqWindow q).2.2 = 2 ^ s.eventqs q * 32 := pow_add 2 (s.eventqs q) 5
    omega
  · rw [hkey, Nat.add_assoc]
    rfl

theorem eventIndex_lt (s : State) (q : Sec) : s.eventIndex q < 2 ^ s.eventqs q := by
  unfold State.eventIndex
  split
  · exact Nat.mod_lt _ (Nat.two_pow_pos _)
  · exact Nat.mod_lt _ (Nat.two_pow_pos _)

/-- An MSI of an earlier CMD_SYNC has its window. -/
theorem mem_syncWindows {s : State} {q : Sec} {x : Bool × Nat × Nat} : x ∈ s.syncWindows q ↔
    ∃ ns addr data a, .msi (.cmdSync q) ns addr data a ∈ s.irqs ∧ x = (ns, (truncTo addr s.oas).toNat, 4) := by
  unfold State.syncWindows
  simp only [List.mem_filterMap]
  constructor
  · rintro ⟨irq, hirq, hx⟩
    cases irq with
    | wired src => cases hx
    | msi src ns addr data a =>
      dsimp only at hx
      split at hx
      · next hsrc =>
        subst hsrc
        exact ⟨ns, addr, data, a, hirq, (Option.some.inj hx).symm⟩
      · cases hx
  · rintro ⟨ns, addr, data, a, hirq, rfl⟩
    exact ⟨_, hirq, if_pos rfl⟩

/-- Interrupts wait beside those that waited, but no MSI of a CMD_SYNC. -/
def NoMoreSyncMsis (q : Sec) (s t : State) : Prop := ∀ x ∈ t.irqs, x.isSyncMsi q = true → x ∈ s.irqs

theorem NoMoreSyncMsis.trans {q : Sec} {s t u : State} (h : NoMoreSyncMsis q s t) (h' : NoMoreSyncMsis q t u) :
    NoMoreSyncMsis q s u := fun x hx hmsi => h x (h' x hx hmsi) hmsi

theorem NoMoreSyncMsis.of_same {q : Sec} {s t : State} (h : t.irqs = s.irqs) : NoMoreSyncMsis q s t := fun _ hx _ => h ▸ hx

theorem NoMoreSyncMsis.pushIrqs {q : Sec} {s : State} {l : List Irq} (h : ∀ x ∈ l, x.isSyncMsi q = false) :
    NoMoreSyncMsis q s (s.pushIrqs l) := fun x hx hmsi =>
  (List.mem_append.1 hx).resolve_right fun hl => Bool.false_ne_true ((h x hl).symm.trans hmsi)

theorem syncWindows_of_noMore {q : Sec} {s t : State} (h : NoMoreSyncMsis q s t) (hids : t.ids = s.ids) :
    ∀ x ∈ t.syncWindows q, x ∈ s.syncWindows q := by
  intro x hx
  obtain ⟨ns, addr, data, a, hirq, rfl⟩ := mem_syncWindows.1 hx
  exact mem_syncWindows.2 ⟨ns, addr, data, a, h _ hirq (beq_self_eq_true _), by rw [oas_congr hids]⟩

/-! ### The MSIs of earlier CMD_SYNCs -/

section
variable {q : Sec}

/-- RAS interrupts are wired. -/
theorem rasAborted_noMore (s : State) (sec : Sec) (kind : AccKind) (ns : Bool) (pa : Nat) :
    NoMoreSyncMsis q s (s.rasAborted sec kind ns pa) := by
  have hirqs (t : State) (g f : Nat) (r : RasIrq) : NoMoreSyncMsis q t (t.rasIrqs g f r) := by
    unfold State.rasIrqs
    split
    · exact NoMoreSyncMsis.of_same rfl
    · refine NoMoreSyncMsis.pushIrqs fun x hx => ?_
      obtain hx | hx := List.mem_append.1 hx
      · obtain ⟨-, hx⟩ := List.mem_ite_nil_right.1 hx
        rw [List.mem_singleton.1 hx]
        rfl
      · obtain ⟨-, hx⟩ := List.mem_ite_nil_right.1 hx
        rw [List.mem_singleton.1 hx]
        rfl
  unfold State.rasAborted
  split
  · exact NoMoreSyncMsis.of_same rfl
  · unfold State.rasDetect
    split
    · exact NoMoreSyncMsis.of_same rfl
    · exact NoMoreSyncMsis.trans (NoMoreSyncMsis.of_same rfl) (hirqs _ _ _ _)

theorem busWrite_noMore (s : State) (sec : Sec) (kind : AccKind) (ns : Bool) (pa : Nat) (bs : List Byte) (a : Attrs) :
    NoMoreSyncMsis q s (s.busWrite sec kind ns pa bs a).2 := by
  unfold State.busWrite
  dsimp only
  split
  · split
    · exact NoMoreSyncMsis.trans (NoMoreSyncMsis.of_same rfl) (rasAborted_noMore _ _ _ _ _)
    · exact NoMoreSyncMsis.of_same rfl
  · exact NoMoreSyncMsis.of_same rfl

theorem irqRaise_noMore (s : State) (p : Sec) {src : IrqSrc} (h : src ≠ .cmdSync q) (en : Bool) (c : IrqCfg) :
    NoMoreSyncMsis q s (s.irqRaise p src en c) := by
  unfold State.irqRaise
  split
  · refine NoMoreSyncMsis.pushIrqs fun x hx => ?_
    obtain hx | hx := List.mem_append.1 hx
    · obtain ⟨-, hx⟩ := List.mem_ite_nil_right.1 hx
      rw [List.mem_singleton.1 hx]
      rfl
    · obtain ⟨-, hx⟩ := List.mem_ite_nil_right.1 hx
      rw [List.mem_singleton.1 hx]
      exact beq_eq_false_iff_ne.2 h
  · exact NoMoreSyncMsis.of_same rfl

theorem gerrorActivate_noMore (s : State) (p : Sec) (g : Gerr) : NoMoreSyncMsis q s (s.gerrorActivate p g) := by
  have htoggled : NoMoreSyncMsis q s (s.gerrToggle p g) := NoMoreSyncMsis.of_same (setIface_irqs s p _)
  unfold State.gerrorActivate
  split
  · exact NoMoreSyncMsis.of_same rfl
  · split
    · exact htoggled
    · exact htoggled.trans (irqRaise_noMore _ _ (by simp) _ _)

end

section
variable {qs : List Sec} {q : Sec} {w : List (Bool × Nat × Nat)}

theorem irqRaise_syncOnly (s : State) (p : Sec) (src : IrqSrc) (en : Bool) (c : IrqCfg) : SyncOnly qs w s (s.irqRaise p src en c) := by
  obtain ⟨l, h, -⟩ := irqRaise_eq s p src en c
  exact SyncOnly.of_ras (h ▸ pushIrqs_only s l)

theorem gerrorActivate_syncOnly (s : State) (p : Sec) (g : Gerr) : SyncOnly qs w s (s.gerrorActivate p g) := by
  obtain ⟨v, l, h, -⟩ := gerrorActivate_effect s p g
  rw [h]
  exact (SyncOnly.setIface (i := (s.iface p).withGerror v) rfl).trans (SyncOnly.of_ras (pushIrqs_only _ l))

/-- One MSI is delivered: its bytes are written, and one MSI fewer waits. -/
theorem sendIrq_syncMsi {s : State} {n : Nat} {x : Irq} (hx : s.irqs[n]? = some x) (hmsi : x.isSyncMsi q = true)
    (hw : ∀ y ∈ s.syncWindows q, y ∈ w) : SyncOnly qs w s (s.sendIrq n) ∧ NoMoreSyncMsis q s (s.sendIrq n) := by
  cases x with
  | wired src => cases hmsi
  | msi src ns addr data a =>
    obtain rfl : src = .cmdSync q := beq_iff_eq.1 hmsi
    have htaken : SyncOnly qs w s { s with irqs := s.irqs.eraseIdx n } := SyncOnly.quiet rfl (fun p _ => by cases p <;> rfl) rfl rfl
    have hfewer : NoMoreSyncMsis q s { s with irqs := s.irqs.eraseIdx n } := fun y hy _ => List.mem_of_mem_eraseIdx hy
    have hwindow : (ns, (truncTo addr s.oas).toNat, 4) ∈ w := hw _ (mem_syncWindows.2 ⟨ns, addr, data, a, List.mem_of_getElem? hx, rfl⟩)
    have hwritten := htaken.trans (SyncOnly.of_writes
      ((msiWrite_writes { s with irqs := s.irqs.eraseIdx n } (.cmdSync q) ns addr data a).mono fun y hy => List.mem_singleton.1 hy ▸ hwindow))
    have hsame := hfewer.trans (u := (({ s with irqs := s.irqs.eraseIdx n } : State).msiWrite (.cmdSync q) ns addr data a).2)
      (NoMoreSyncMsis.trans (busWrite_noMore _ _ _ _ _ _ _) (NoMoreSyncMsis.of_same rfl))
    simp only [State.sendIrq, hx]
    split
    · next h => exact ⟨of_result h hwritten, of_result h hsame⟩
    · next h =>
      exact ⟨(of_result h hwritten).trans (gerrorActivate_syncOnly _ q .msiCmdq),
        (of_result h hsame).trans (gerrorActivate_noMore _ q .msiCmdq)⟩

/-- The MSIs of earlier CMD_SYNCs write their bytes (R1241, 60_exceptions.md R1726). -/
theorem flushSyncs_syncOnly (k : Nat) {s : State} (hw : ∀ y ∈ s.syncWindows q, y ∈ w) :
    SyncOnly qs w s (State.flushSyncs q k s) := by
  induction k generalizing s with
  | zero => exact SyncOnly.refl s
  | succ k ih =>
    unfold State.flushSyncs
    split
    · exact SyncOnly.refl s
    · next n hn =>
      obtain ⟨hlt, hmsi, -⟩ := List.findIdx?_eq_some_iff_getElem.1 hn
      obtain ⟨hsent, hfewer⟩ := sendIrq_syncMsi (qs := qs) (List.getElem?_eq_getElem hlt) hmsi hw
      exact hsent.trans (ih fun y hy => hw y (syncWindows_of_noMore hfewer hsent.ids.1 y hy))

/-! ### The Event queues -/

theorem markRecorded_syncOnly (s : State) (p : Sec) (e : PendEv) : SyncOnly qs w s (s.markRecorded p e) :=
  SyncOnly.of_stalls ⟨_, _, rfl⟩

/-- What follows the write of a record. -/
theorem eventWritten_syncOnly (t : State) (p : Sec) (prod : W32) (ok wasEmpty : Bool) :
    SyncOnly qs w t (let s := t.setIface p { t.iface p with eventqProd := prod }
      let s := if ok then s else s.gerrorActivate p .eventqAbt
      if wasEmpty then s.eventqIrq p else s) := by
  have hmoved : SyncOnly qs w t (t.setIface p { t.iface p with eventqProd := prod }) := SyncOnly.setIface rfl
  have herr := hmoved.trans (SyncOnly.ite (c := ok) (SyncOnly.refl _) (gerrorActivate_syncOnly _ p .eventqAbt))
  exact SyncOnly.ite (herr.trans (irqRaise_syncOnly _ _ _ _ _)) herr

/-- A record is written in its Event queue (60_exceptions.md R1656). -/
theorem commitEvent_syncOnly {s : State} (hw : s.eventqWindow q ∈ w) (e : PendEv) : SyncOnly qs w s (s.commitEvent q e) := by
  have hwritten (a : Attrs) : SyncOnly qs w s (s.drawn.busWrite q .eventq q.isNs
      (s.queueBase (s.iface q).eventqBase (s.eventqs q + 5) + 32 * s.eventIndex q) (leBytes 32 e.ev.toNat) a).2 := by
    have hbus := (SyncOnly.of_writes (qs := qs) (busWrite_writes s.drawn q .eventq q.isNs
      (s.queueBase (s.iface q).eventqBase (s.eventqs q + 5) + 32 * s.eventIndex q) (leBytes 32 e.ev.toNat) a))
    refine (SyncOnly.of_ras (drawn_only s)).trans ⟨hbus.kept, hbus.events, hbus.stores.mono fun x hx ns b hin => ?_⟩
    rw [List.mem_singleton.1 hx, leBytes_length] at hin
    exact ⟨_, hw, record_inWindow (eventIndex_lt s q) hin⟩
  have hmarked (a : Attrs) (lost : Bool) : SyncOnly qs w s (if lost then
      (s.drawn.busWrite q .eventq q.isNs (s.queueBase (s.iface q).eventqBase (s.eventqs q + 5) + 32 * s.eventIndex q)
        (leBytes 32 e.ev.toNat) a).2
      else (s.drawn.busWrite q .eventq q.isNs (s.queueBase (s.iface q).eventqBase (s.eventqs q + 5) + 32 * s.eventIndex q)
        (leBytes 32 e.ev.toNat) a).2.markRecorded q e) :=
    SyncOnly.ite (hwritten a) ((hwritten a).trans (markRecorded_syncOnly _ q e))
  exact SyncOnly.ite ((hmarked _ _).trans (gerrorActivate_syncOnly _ q .eventqAbt))
    ((hmarked _ _).trans (eventWritten_syncOnly _ q _ _ _))

theorem eventqHolds_syncOnly (s : State) (p : Sec) : SyncOnly qs w s (s.eventqHolds p).2 := by
  unfold State.eventqHolds
  split
  · exact SyncOnly.of_ras (drawn_only s)
  · exact SyncOnly.refl s

section
variable (hq : q ∈ qs)
include hq

theorem deliverEvent_syncOnly {s : State} (hw : s.eventqWindow q ∈ w) (n : Nat) : SyncOnly qs w s (s.deliverEvent q n) := by
  unfold State.deliverEvent
  split
  · exact SyncOnly.refl s
  · next e _ =>
    have hholds : SyncOnly qs w s (s.eventqHolds q).2 := eventqHolds_syncOnly s q
    rw [← hholds.window] at hw
    refine hholds.trans ?_
    dsimp only
    generalize (s.eventqHolds q).2 = t at hw
    have htaken : SyncOnly qs w t (t.setEvents q ((t.events q).eraseIdx n)) := SyncOnly.setEvents hq _
    rw [← htaken.window] at hw
    exact SyncOnly.ite (SyncOnly.refl t) (SyncOnly.ite (htaken.trans (commitEvent_syncOnly hw e))
      (SyncOnly.ite (SyncOnly.refl t) (htaken.trans (SyncOnly.ite (SyncOnly.setIface rfl) (SyncOnly.refl _)))))

theorem deliverFrom_syncOnly (k n : Nat) {s : State} (hw : s.eventqWindow q ∈ w) : SyncOnly qs w s (State.deliverFrom q k n s) := by
  induction k generalizing n s with
  | zero => exact SyncOnly.refl s
  | succ k ih =>
    have hone : SyncOnly qs w s (s.deliverEvent q n) := deliverEvent_syncOnly hq hw n
    rw [← hone.window] at hw
    exact hone.trans (SyncOnly.ite (ih _ hw) (ih _ hw))

/-- The events of an interface are made visible or dropped (R1243, R1244). -/
theorem settled_syncOnly {s : State} (hw : s.eventqWindow q ∈ w) : SyncOnly qs w s ((s.flushEvents q).staleStalls q) :=
  (deliverFrom_syncOnly hq _ _ hw).trans ((SyncOnly.setEvents hq []).trans (SyncOnly.of_stalls (staleStalls_only _ q)))

end

end

/-- None stays pending. -/
theorem staleStalls_events (s : State) (q : Sec) : (s.staleStalls q).events q = [] :=
  ((staleStalls_only s q).events q).trans (events_setEvents s q [])

end Sys2Proof.Machine
end

section
/-! PROOF. CMD_SYNC: the bytes it can change (43_cmd_fault_sync.md R1240, R1241, R1243), and what it completes or waits for
(R1241, R1244, 20_memory.md R480, R485). -/
namespace Sys2Proof.Machine

/-! ### The events and the signal -/

section
variable {s : State} {w : List (Bool × Nat × Nat)}

/-- A CMD_SYNC settles the events of the Non-secure interface, and from the Secure queue those of both. -/
theorem syncEvents_syncOnly (hns : s.eventqWindow .ns ∈ w) (hs : s.curQ = .s → s.eventqWindow .s ∈ w) :
    SyncOnly [.ns, .s] w s s.syncEvents := by
  have hsettled : SyncOnly [.ns, .s] w s ((s.flushEvents .ns).staleStalls .ns) := settled_syncOnly (by simp) hns
  unfold State.syncEvents
  dsimp only
  split
  · exact hsettled
  · next hq =>
    refine hsettled.trans (settled_syncOnly (by simp) ?_)
    rw [hsettled.window]
    exact hs hq

end

/-- No event of the interfaces that it settles stays pending, and no other event is touched (log entry 17). -/
theorem syncEvents_events (s : State) : s.syncEvents.eventsNs = [] ∧ (s.curQ = .s → s.syncEvents.eventsS = []) ∧
    (s.curQ = .ns → s.syncEvents.eventsS = s.eventsS) := by
  have hns : ((s.flushEvents .ns).staleStalls .ns).eventsNs = [] := staleStalls_events (s.flushEvents .ns) .ns
  unfold State.syncEvents
  cases hq : s.curQ with
  | ns =>
    have hone : SyncOnly [.ns] [s.eventqWindow .ns] s ((s.flushEvents .ns).staleStalls .ns) := settled_syncOnly (by simp) (by simp)
    exact ⟨hns, nofun, fun _ => hone.events .s (by simp)⟩
  | s =>
    have hone (u : State) : SyncOnly [.s] [u.eventqWindow .s] u ((u.flushEvents .s).staleStalls .s) :=
      settled_syncOnly (by simp) (by simp)
    exact ⟨((hone _).events .ns (by simp)).trans hns, fun _ => staleStalls_events _ .s, nofun⟩

section
variable (cs msh : BitVec 2) (attr : BitVec 4) (data : W32) (addr : BitVec 50)

theorem syncSignal_syncOnly (s : State) {qs : List Sec} {w : List (Bool × Nat × Nat)} :
    SyncOnly qs w s (s.syncSignal cs msh attr data addr) := by
  rw [syncSignal_eq]
  exact SyncOnly.quiet rfl (fun p _ => by cases p <;> rfl) rfl rfl

theorem syncDone_syncOnly {s : State} {w : List (Bool × Nat × Nat)} (hmsi : ∀ x ∈ s.syncWindows s.curQ, x ∈ w)
    (hns : s.eventqWindow .ns ∈ w) (hs : s.curQ = .s → s.eventqWindow .s ∈ w) :
    SyncOnly [.ns, .s] w { s with steLog := s.steLog ++ [.synced s.curQ] } (s.syncDone cs msh attr data addr) := by
  have hsent : SyncOnly [.ns, .s] w { s with steLog := s.steLog ++ [.synced s.curQ] }
      (State.flushSyncs s.curQ s.irqs.length { s with steLog := s.steLog ++ [.synced s.curQ] }) := flushSyncs_syncOnly _ hmsi
  refine hsent.trans ((syncEvents_syncOnly ?_ fun hq => ?_).trans (syncSignal_syncOnly cs msh attr data addr _))
  · rw [hsent.window]
    exact hns
  · rw [hsent.window]
    exact hs (hsent.curQ.symm.trans hq)

/-- No event stays pending. -/
theorem syncDone_events (s : State) :
    (s.syncDone cs msh attr data addr).eventsNs = [] ∧ (s.curQ = .s → (s.syncDone cs msh attr data addr).eventsS = []) ∧
      (s.curQ = .ns → (s.syncDone cs msh attr data addr).eventsS = s.eventsS) := by
  have hsent : SyncOnly [] (s.syncWindows s.curQ) { s with steLog := s.steLog ++ [.synced s.curQ] }
      (State.flushSyncs s.curQ s.irqs.length { s with steLog := s.steLog ++ [.synced s.curQ] }) := flushSyncs_syncOnly _ fun _ h => h
  obtain ⟨hns, hs, hother⟩ := syncEvents_events (State.flushSyncs s.curQ s.irqs.length { s with steLog := s.steLog ++ [.synced s.curQ] })
  rw [hsent.curQ] at hs hother
  have hsignal (u : State) : SyncOnly [] [] u (u.syncSignal cs msh attr data addr) := syncSignal_syncOnly cs msh attr data addr u
  exact ⟨((hsignal _).events .ns (by simp)).trans hns, fun hq => ((hsignal _).events .s (by simp)).trans (hs hq),
    fun hq => ((hsignal _).events .s (by simp)).trans ((hother hq).trans (hsent.events .s (by simp)))⟩

end

/-! ### The bytes of memory -/

theorem CommandError.stores {code : BitVec 7} {s t : State} {w : List (Bool × Nat × Nat)} (h : CommandError code s t) : StoresIn w s t := by
  obtain ⟨-, -, -, -, -, -, -, -, -, hframe⟩ := h
  exact StoresIn.of_same (congrArg State.impl hframe :) (congrArg State.mem hframe :) (congrArg State.internal hframe :)

theorem clearAtc_stores (s : State) {w : List (Bool × Nat × Nat)} : StoresIn w s s.clearAtc := by
  unfold State.clearAtc
  split <;> exact StoresIn.of_same rfl rfl rfl

theorem completeInvals_frame (s : State) (q : Sec) :
    ∃ p c l f d, s.completeInvals q = { s with pendingInval := p, cfgCache := c, tlb := l, inFlight := f, draw := d } := by
  obtain ⟨c, l, f, d, h⟩ := (applyInvals_invalidates (freshOf q s.pendingInval) s).frame
  exact ⟨_, c, l, f, d, by rw [completeInvals_eq, h]⟩

/-- The end of a CMD_SYNC writes no memory. -/
theorem doneSync_stores (s : State) {w : List (Bool × Nat × Nat)} : OutRel (StoresIn w) s (doneSync s) := by
  obtain ⟨-, -, -, hframe⟩ := consume_showCons s
  exact OutRel.next (StoresIn.of_same (congrArg State.impl hframe :) (congrArg State.mem hframe :) (congrArg State.internal hframe :))

theorem execSync_stores (cs msh : BitVec 2) (attr : BitVec 4) (data : W32) (addr : BitVec 50) (res : CmdWord) {s : State}
    {w : List (Bool × Nat × Nat)} (hmsi : ∀ x ∈ s.syncWindows s.curQ, x ∈ w) (hns : s.eventqWindow .ns ∈ w)
    (hs : s.curQ = .s → s.eventqWindow .s ∈ w) : OutRel (StoresIn w) s (execSync cs msh attr data addr res s) := by
  have hill : OutRel (StoresIn w) s (ill s) := OutRel.next (cmdError_effect s .ill).stores
  have hsame : OutRel (StoresIn w) s (waits s) := OutRel.next (StoresIn.of_same rfl rfl rfl)
  obtain ⟨p, c, l, f, d, hinvals⟩ := completeInvals_frame s s.curQ
  refine OutRel.ite hill (OutRel.ite hill (OutRel.ite (OutRel.ite ?late hsame) (OutRel.ite hsame ?complete)))
  case late => exact OutRel.next ((clearAtc_stores s).trans (cmdError_effect s.clearAtc .atcInvSync).stores)
  case complete =>
    rw [hinvals]
    have hcompleted : StoresIn w s { s with pendingInval := p, cfgCache := c, tlb := l, inFlight := f, draw := d } :=
      StoresIn.of_same rfl rfl rfl
    have hdone := syncDone_syncOnly cs msh attr data addr
      (s := { s with pendingInval := p, cfgCache := c, tlb := l, inFlight := f, draw := d }) hmsi hns hs
    refine OutRel.ite (OutRel.next hcompleted) fun t ht => ?_
    exact hcompleted.trans (StoresIn.trans (StoresIn.of_same rfl rfl rfl) (hdone.stores.trans (doneSync_stores _ t ht)))

/-- Settles O30. -/
theorem syncMemoryFrame : Obligations.SyncMemoryFrame := by
  unfold Obligations.SyncMemoryFrame
  intro s t cs msh attr data addr res hm hi hexec
  obtain ⟨-, -, hbytes⟩ := execSync_stores cs msh attr data addr res
    (w := s.eventqWindow .ns :: (if s.curQ = .s then [s.eventqWindow .s] else []) ++ s.syncWindows s.curQ)
    (fun x hx => List.mem_append_right _ hx) (by simp) (fun hq => by simp [hq]) t hexec hm hi
  exact hbytes

/-! ### A CMD_SYNC that completes -/

theorem cmdqs_congr {s t : State} {q : Sec} (hids : t.ids = s.ids) (hbase : (t.iface q).cmdqBase = (s.iface q).cmdqBase) :
    t.cmdqs q = s.cmdqs q := by
  have hidr : t.idr1 = s.idr1 := by simp only [State.idr1, hids]
  simp only [State.cmdqs, hidr, hbase]

/-- The command is Consumed and seen to be, no event stays pending, and the maintenance is on record; what is cached, in flight and
pending of invalidations stands. -/
theorem syncDone_completes (cs msh : BitVec 2) (attr : BitVec 4) (data : W32) (addr : BitVec 50) (s : State) :
    ∃ t, doneSync (s.syncDone cs msh attr data addr) = .next t ∧
      qPos (t.iface s.curQ).cmdqCons (s.cmdqs s.curQ) =
        (qPos (s.iface s.curQ).cmdqCons (s.cmdqs s.curQ) + 1) % 2 ^ (s.cmdqs s.curQ + 1) ∧
      (t.iface s.curQ).cmdqSeen = (t.iface s.curQ).cmdqCons ∧
      (t.pendingInval = s.pendingInval ∧ t.cfgCache = s.cfgCache ∧ t.tlb = s.tlb ∧ t.inFlight = s.inFlight) ∧
      t.steLog = s.steLog ++ [.synced s.curQ] ∧
      t.eventsNs = [] ∧ (s.curQ = .s → t.eventsS = []) ∧ (s.curQ = .ns → t.eventsS = s.eventsS) := by
  have honly := syncDone_syncOnly cs msh attr data addr (s := s)
    (w := s.eventqWindow .ns :: s.eventqWindow .s :: s.syncWindows s.curQ) (by simp +contextual) (by simp) (by simp)
  obtain ⟨hns, hs, hother⟩ := syncDone_events cs msh attr data addr s
  generalize s.syncDone cs msh attr data addr = r at honly hns hs hother
  have hq : r.curQ = s.curQ := honly.curQ
  have hregs := honly.iface_kept s.curQ
  have hiface : (({ s with steLog := s.steLog ++ [.synced s.curQ] } : State).iface s.curQ) = s.iface s.curQ := by cases s.curQ <;> rfl
  rw [hiface] at hregs
  have hcons : (r.iface s.curQ).cmdqCons = (s.iface s.curQ).cmdqCons := (congrArg Iface.cmdqCons hregs :)
  have hqs : r.cmdqs s.curQ = s.cmdqs s.curQ := cmdqs_congr honly.ids.1 (congrArg Iface.cmdqBase hregs :)
  obtain ⟨⟨hpos, -⟩, hseen, -, hframe⟩ := consume_showCons r
  have hkept := honly.kept
  simp only [State.keptBySync, Prod.mk.injEq] at hkept
  obtain ⟨-, ⟨hcfg, htlb, hflight, hinval, hlog⟩, -⟩ := hkept
  rw [hq, hcons, hqs] at hpos
  rw [hq] at hseen
  refine ⟨r.consume.showCons r.curQ, rfl, ?_, ?_, ⟨?_, ?_, ?_, ?_⟩, ?_, ?_, fun h => ?_, fun h => ?_⟩
  · rwa [hq]
  · rwa [hq]
  · exact (congrArg State.pendingInval hframe :).trans hinval
  · exact (congrArg State.cfgCache hframe :).trans hcfg
  · exact (congrArg State.tlb hframe :).trans htlb
  · exact (congrArg State.inFlight hframe :).trans hflight
  · exact (congrArg State.steLog hframe :).trans hlog
  · exact (congrArg State.eventsNs hframe :).trans hns
  · exact (congrArg State.eventsS hframe :).trans (hs h)
  · exact (congrArg State.eventsS hframe :).trans (hother h)

/-! ### The invalidations of its queue -/

/-- Where nothing makes them wait, all invalidations of the queue are done with. -/
theorem completeInvals_calm {s : State} {q : Sec} (h : s.calm q s.pendingInval) : s.completeInvals q =
    { s with pendingInval := s.pendingInval.filter fun i => i.origin != some q,
             cfgCache := (s.applyInvals (freshOf q s.pendingInval)).cfgCache, tlb := (s.applyInvals (freshOf q s.pendingInval)).tlb,
             inFlight := (s.applyInvals (freshOf q s.pendingInval)).inFlight, draw := (s.applyInvals (freshOf q s.pendingInval)).draw } := by
  obtain ⟨c, l, f, d, happlied⟩ := (applyInvals_invalidates (freshOf q s.pendingInval) s).frame
  rw [completeInvals_eq, beginAll_complete h, happlied]

section
variable {s : State} {cs msh : BitVec 2} {attr : BitVec 4} {data : W32} {addr : BitVec 50} {res : CmdWord}
  (hcs : cs ≠ 3) (hres : s.res0Ok res (v30Msi addr)) (hlate : s.atcTimedOut = false) (hatc : s.atc s.curQ = [])
include hcs hres hlate hatc

theorem execSync_completes (h : s.calm s.curQ s.pendingInval) :
    execSync cs msh attr data addr res s = doneSync ((s.completeInvals s.curQ).syncDone cs msh attr data addr) := by
  have hnone : ((s.completeInvals s.curQ).pendingInval.any fun i => i.origin == some s.curQ) = false := by
    rw [completeInvals_calm h]
    simp
  rw [execSync_legal hcs hres, hlate, hatc, hnone]
  rfl

theorem execSync_held {f : Flight} {i : Inval} (hf : f ∈ s.inFlight) (hi : i ∈ s.pendingInval) (ho : i.origin = some s.curQ)
    (h : s.holdsUp f i) : execSync cs msh attr data addr res s = .next (s.completeInvals s.curQ) := by
  obtain ⟨j, hj, hjo⟩ := beginAll_waits hi ho hf h
  have hsome : ((s.completeInvals s.curQ).pendingInval.any fun i => i.origin == some s.curQ) = true := by
    rw [completeInvals_eq]
    exact List.any_eq_true.2 ⟨j, hj, beq_iff_eq.2 hjo⟩
  rw [execSync_legal hcs hres, hlate, hatc, hsome]
  rfl

end

/-- Settles O28: with nothing that makes an invalidation wait all take effect and complete; else one stays pending. -/
theorem syncCompletesInvalidations : Obligations.SyncCompletesInvalidations := by
  unfold Obligations.SyncCompletesInvalidations
  intro s cs msh attr data addr res hcs hres hlate hatc
  refine ⟨fun _ hissued hwait => ?completes, fun ⟨f, hf, i, hi, ho, hheld⟩ => ?waits⟩
  case waits =>
    obtain ⟨p, c, l, k, d, heq⟩ := completeInvals_frame s s.curQ
    exact ⟨_, execSync_held hcs hres hlate hatc hf hi ho hheld, by rw [heq]⟩
  case completes =>
    have hcalm : s.calm s.curQ s.pendingInval := ⟨hissued, hwait⟩
    have hinv := applyInvals_invalidates (freshOf s.curQ s.pendingInval) s
    have hdone {i : Inval} (hi : i ∈ s.pendingInval) (ho : i.origin = some s.curQ) (hw : i.wait = none) :
        i.doneIn (s.applyInvals (freshOf s.curQ s.pendingInval)) := applyInvals_done (mem_freshOf.2 ⟨hi, ho, hw⟩) s
    obtain ⟨t, hrun, hpos, hseen, ⟨hpending, hcfg, htlb, hflight⟩, hlog, hevents⟩ :=
      syncDone_completes cs msh attr data addr (s.completeInvals s.curQ)
    have hexec := (execSync_completes (msh := msh) (attr := attr) (data := data) hcs hres hlate hatc hcalm).trans hrun
    rw [completeInvals_calm hcalm] at hpos hseen hpending hcfg htlb hflight hlog hevents
    refine ⟨t, hexec, hpos, hseen, fun i => ?pending, fun e he => ?cfgGone, fun e he hout => ?cfgStays, fun e he => ?tlbGone,
      fun e he hout => ?tlbStays, fun f hf i hi ho hw => ?restarted, hlog, hevents⟩
    case pending => simp [hpending]
    case cfgGone =>
      rw [hcfg] at he
      exact ⟨hinv.cfg e he, fun i hi ho hw => (hdone hi ho hw).1 e he⟩
    case cfgStays =>
      rw [hcfg]
      refine mem_applyInvals_of_not_cfgMatch he fun i hi => ?_
      obtain ⟨hmem, ho, hw⟩ := mem_freshOf.1 hi
      exact hout i hmem ho hw
    case tlbGone =>
      rw [htlb] at he
      refine ⟨hinv.tlb e he, fun i hi p ho hw hsub hp => ?_⟩
      obtain ⟨-, hgone, -⟩ := hdone hi ho hw
      rw [← hinv.tlbDue]
      exact hgone hsub p hp e he
    case tlbStays =>
      rw [htlb]
      refine mem_applyInvals_of_not_tlbMatch he fun i hi p hp => ?_
      obtain ⟨hmem, ho, hw⟩ := mem_freshOf.1 hi
      exact hout i hmem p ho hw hp
    case restarted =>
      rw [hflight] at hf
      obtain ⟨-, -, hstopped⟩ := hdone hi ho hw
      rw [← hinv.stopped]
      exact hstopped f hf

end Sys2Proof.Machine
end

section
/-! PROOF. Address translation operations: how one ends (50_atos.md R1305, R1343), and a request of the reserved TYPE (R1321). -/
namespace Sys2Proof.Machine

/-! ### The registers and the operation of a group -/

@[simp] theorem atosRegs_setAtosRegs (s : State) (g : AtosGroup) (r : AtosRegs) : (s.setAtosRegs g r).atosRegs g = r := by
  cases g <;> rfl
@[simp] theorem unknown_setAtosRegs (s : State) (g : AtosGroup) (r : AtosRegs) : (s.setAtosRegs g r).unknown = s.unknown := by
  cases g <;> rfl
@[simp] theorem atosOp_setAtosOp (s : State) (g : AtosGroup) (o : Option AtosOp) : (s.setAtosOp g o).atosOp g = o := by
  cases g <;> rfl
@[simp] theorem atosRegs_setAtosOp (s : State) (g k : AtosGroup) (o : Option AtosOp) :
    (s.setAtosOp g o).atosRegs k = s.atosRegs k := by
  cases g <;> cases k <;> rfl
@[simp] theorem unknown_setAtosOp (s : State) (g : AtosGroup) (o : Option AtosOp) : (s.setAtosOp g o).unknown = s.unknown := by
  cases g <;> rfl

@[simp] theorem atosRegs_setAgenda (s : State) (l : List Stimulus) (g : AtosGroup) :
    ({ s with agenda := l } : State).atosRegs g = s.atosRegs g := by
  cases g <;> rfl
@[simp] theorem atosOp_setAgenda (s : State) (l : List Stimulus) (g : AtosGroup) :
    ({ s with agenda := l } : State).atosOp g = s.atosOp g := by
  cases g <;> rfl
@[simp] theorem atosRegs_setKnown (s : State) (r : UnkReg) (g : AtosGroup) : (s.setKnown r).atosRegs g = s.atosRegs g := by
  cases g <;> rfl

/-! ### PAR of a fault -/

/-- FAULT of a failed operation is 1 (R1343). -/
theorem encodePar_fault_flag (s : State) (g : AtosGroup) (code : BitVec 8) (reason : BitVec 2) (faddr : W64) :
    bit (s.encodePar g (.fault code reason faddr)) 0 = true := by
  simp [State.encodePar, bit]

/-- FAULTCODE is the code of the fault: FADDR and REASON lie outside it (R1343). -/
theorem encodePar_fault_code (s : State) (g : AtosGroup) (code : BitVec 8) (reason : BitVec 2) (faddr : W64) :
    fld (s.encodePar g (.fault code reason faddr)) 4 8 = code := by
  have hfault : fld (1#64) 4 8 = 0 := by decide
  simp [State.encodePar, Laws.fld_or, fld_and, maskOf, fld_place_same, fld_place_disjoint, hfault]

/-! ### The end of an operation -/

/-- An operation whose registers were left alone ends with a known PAR, and changes nothing but its group (R1305). -/
theorem atosFinish_intact {o : AtosOp} (ho : o.spoiled = false) (s : State) (g : AtosGroup) (r : AtosRes) :
    s.atosFinish g o r =
      ((s.setKnown (.par g)).setAtosRegs g { s.atosRegs g with ctrl := 0, par := s.encodePar g r }).setAtosOp g none := by
  simp [State.atosFinish, ho]

/-- The reserved TYPE is an invalid request in every group (R1321). -/
theorem atosInvReq_of_reserved {o : AtosOp} (htype : o.type = 0) (s : State) (g : AtosGroup) : s.atosInvReq g o = true := by
  simp [State.atosInvReq, htype]

/-- An invalid request ends before anything of the configuration is read (R1321). -/
theorem atosRun_of_invReq {s : State} {g : AtosGroup} {o : AtosOp} (hop : s.atosOp g = some o) (hinv : s.atosInvReq g o = true) :
    s.atosRun g = s.atosFinish g o invReq := by
  simp [State.atosRun, hop, State.atosTranslate, hinv]

/-- Settles O51: the reserved TYPE is INV_REQ, and PAR of INV_REQ is that of a fault with code 0xFF. -/
theorem reservedAtosRequest : Obligations.ReservedAtosRequest := by
  unfold Obligations.ReservedAtosRequest
  intro s g o rest hagenda hoff hop hintact htype
  have hrun := (atosRun_of_invReq ((atosOp_setAgenda s rest g).trans hop) (atosInvReq_of_reserved htype _ g)).trans
    (atosFinish_intact hintact _ g invReq)
  refine ⟨_, (step_of_agenda hagenda hoff).trans (congrArg Host.Outcome.next hrun), ?op, ?ctrl, ?flag, ?code, ?known, ?frame⟩
  case op => simp
  case ctrl => simp
  case flag => simp [invReq, encodePar_fault_flag]
  case code => simp [invReq, encodePar_fault_code]
  case known => simp [State.setKnown]
  case frame => simp [State.setKnown]

end Sys2Proof.Machine
end

section
/-! PROOF. Global errors: activation, acknowledgement, and the interrupt; entry to Service Failure Mode (60_exceptions.md R1701, R1706,
R1715, R1722). -/
namespace Sys2Proof.Machine

/-! ### Activation -/

theorem gerrActive_iff (i : Iface) (g : Gerr) : i.gerrActive g = true ↔ bit i.gerror g.pos ≠ bit i.gerrorn g.pos := bne_iff_ne

/-- The flag of an inactive error is toggled, and no other. -/
theorem bit_gerrToggle {i : Iface} {g : Gerr} (h : i.gerrActive g = false) (n : Nat) :
    bit (i.gerrToggle g).gerror n = if n = g.pos then !bit i.gerror n else bit i.gerror n := by
  have htoggled : i.gerrToggle g = { i with gerror := setBit i.gerror g.pos (!bit i.gerror g.pos) } := if_neg (by simp [h])
  rw [htoggled, bit_setBit _ _ _ _ g.pos_lt]
  by_cases hn : n = g.pos
  · rw [if_pos hn, if_pos hn, hn]
  · rw [if_neg hn, if_neg hn]

theorem gerrorActivate_of_active {s : State} {q : Sec} {g : Gerr} (h : (s.iface q).gerrActive g = true) : s.gerrorActivate q g = s :=
  if_pos h

theorem gerrorActivate_of_inactive {s : State} {q : Sec} {g : Gerr} (h : (s.iface q).gerrActive g = false) :
    s.gerrorActivate q g = if g = .msiGerror then s.gerrToggle q g else (s.gerrToggle q g).gerrorIrq q := if_neg (by simp [h])

theorem gerrorActivate_active (s : State) (q : Sec) (g : Gerr) : ((s.gerrorActivate q g).iface q).gerrActive g = true := by
  obtain ⟨_, _, -, h, -⟩ := gerrorActivate_effect s q g
  exact h

/-! ### Acknowledgement -/

/-- A write of GERRORN that toggles flags of active errors only changes GERRORN and nothing else. -/
theorem ackGerror_proper {s : State} {q : Sec} {v : W32}
    (h : ((v &&& s.gerrorMask q) ^^^ (s.iface q).gerrorn) &&& ~~~((s.iface q).gerror ^^^ (s.iface q).gerrorn) = 0) :
    s.ackGerror q v = s.setIface q { s.iface q with gerrorn := v &&& s.gerrorMask q } := if_pos h

/-- With a GERRORN that differs from the old one at flags of active errors only, the errors that stay active are those whose flag it
does not toggle. -/
theorem gerrActive_of_proper {i : Iface} {new : W32} (h : (new ^^^ i.gerrorn) &&& ~~~(i.gerror ^^^ i.gerrorn) = 0) (g : Gerr) :
    ({ i with gerrorn := new } : Iface).gerrActive g = true ↔ i.gerrActive g = true ∧ bit new g.pos = bit i.gerrorn g.pos := by
  have hbit : ((bit new g.pos ^^ bit i.gerrorn g.pos) && !(bit i.gerror g.pos ^^ bit i.gerrorn g.pos)) = false := by
    simpa [bit, g.pos_lt] using congrArg (bit · g.pos) h
  rw [gerrActive_iff, gerrActive_iff]
  revert hbit
  dsimp only
  cases bit new g.pos <;> cases bit i.gerror g.pos <;> cases bit i.gerrorn g.pos <;> decide

/-- Settles O36: an activation by whether the error is active already, an acknowledgement flag by flag. -/
theorem globalErrorActivation : Obligations.GlobalErrorActivation := by
  intro s q
  refine ⟨fun g => ⟨gerrActive_iff _ g, gerrorActivate_active s q g, gerrorActivate_of_active, fun h => ⟨?_, gerrorActivate_of_inactive h⟩⟩,
    fun v h => ?_, fun h g => ?_⟩
  · intro n
    rw [State.gerrToggle, iface_setIface]
    exact bit_gerrToggle h n
  · rw [ackGerror_proper h, iface_setIface]
    refine ⟨rfl, fun g hg => ?_⟩
    rw [gerrActive_of_proper h, bit_and, hg, Bool.and_true]
  · rw [ackGerror_all h, iface_setIface]
    exact gerrActive_acked rfl g

/-! ### The interrupt of a source -/

theorem irqRaise_disabled {s : State} {q : Sec} {src : IrqSrc} {c : IrqCfg} : s.irqRaise q src false c = s := if_neg (by decide)

/-- Where the SMMU has wired interrupts, the interrupt of an enabled source waits as a pulse. -/
theorem wired_mem_irqRaise {s : State} (q : Sec) (src : IrqSrc) {en : Bool} (c : IrqCfg) (hen : en = true)
    (hw : s.impl.wiredIrq = true) : .wired src ∈ (s.irqRaise q src en c).irqs := by
  simp [State.irqRaise, hen, hw]

/-- Where its configuration register has an address, it waits as an MSI too. -/
theorem msi_mem_irqRaise {s : State} {q : Sec} (src : IrqSrc) {en : Bool} {c : IrqCfg} (hen : en = true) (hmsi : s.msi q = true)
    (haddr : fld c.cfg0 2 50 ≠ 0) :
    .msi src q.isNs (c.cfg0 &&& maskOf 64 2 50) c.cfg1 (msiAttrs (fld c.cfg2 0 4) (fld c.cfg2 4 2) q.isNs) ∈
      (s.irqRaise q src en c).irqs := by
  have hne : (c.addr != 0) = true := by
    rw [IrqCfg.addr, ← place_fld, bne_iff_ne]
    exact fun h => haddr ((place_two_eq_zero _).1 h)
  have hmem : (s.irqRaise q src en c).irqs = s.irqs ++ ((if s.impl.wiredIrq then [.wired src] else []) ++
      [.msi src q.isNs c.addr c.cfg1 (msiAttrs (fld c.cfg2 0 4) (fld c.cfg2 4 2) q.isNs)]) := by
    rw [State.irqRaise, if_pos hen, hmsi, hne]
    rfl
  rw [hmem]
  exact List.mem_append_right _ (List.mem_append_right _ List.mem_cons_self)

/-! ### Service Failure Mode -/

/-- What an activation leaves alone and entry to Service Failure Mode is to keep. -/
def State.keptBySignal (s : State) : IdRegs × Bool × List CfgEnt × List TlbEnt × List Stall × List Stimulus :=
  (s.ids, s.sfm, s.cfgCache, s.tlb, s.stalled, s.agenda)

theorem gerrorActivate_kept (s : State) (q : Sec) (g : Gerr) : (s.gerrorActivate q g).keptBySignal = s.keptBySignal := by
  obtain ⟨v, l, h, -⟩ := gerrorActivate_effect s q g
  rw [h]
  cases q <;> rfl

theorem RasOnly.kept {s t : State} (h : RasOnly s t) : t.keptBySignal = s.keptBySignal := by
  obtain ⟨out, irqs, ras, draw, rfl⟩ := h
  rfl

theorem secureImpl_of_kept {s t : State} (h : t.keptBySignal = s.keptBySignal) : t.secureImpl = s.secureImpl := by
  have hids : t.ids = s.ids := congrArg Prod.fst h
  rw [State.secureImpl, State.secureImpl, State.sidr1, State.sidr1, hids]

/-- An activation in the Secure interface leaves the registers of the Non-secure one. -/
theorem gerrorActivate_s_ns (s : State) (g : Gerr) : (s.gerrorActivate .s g).ns = s.ns := by
  obtain ⟨v, l, h, -⟩ := gerrorActivate_effect s .s g
  rw [h]
  rfl

/-- Entry to Service Failure Mode, after its RAS error: SFM_ERR is activated in every interface. -/
theorem enterSfm_eq (s : State) : ∃ u : State, u.keptBySignal = ({ s with sfm := true } : State).keptBySignal ∧ s.enterSfm =
    if s.secureImpl then (u.gerrorActivate .ns .sfm).gerrorActivate .s .sfm else u.gerrorActivate .ns .sfm := by
  have hras := (rasDetect_only { s with sfm := true } s.impl.rasSfm.group s.impl.rasSfm.record
    { s.impl.rasSfm.err with typ := if s.impl.rasSfm.err.typ = .ueu then .ueu else .uc }).kept
  refine ⟨_, hras, ?_⟩
  have hsec := secureImpl_of_kept ((gerrorActivate_kept _ .ns .sfm).trans hras)
  unfold State.enterSfm
  dsimp only
  rw [hsec]
  rfl

theorem enterSfm_kept (s : State) : s.enterSfm.keptBySignal = ({ s with sfm := true } : State).keptBySignal := by
  obtain ⟨u, hu, h⟩ := enterSfm_eq s
  rw [h]
  split <;> simp only [gerrorActivate_kept, hu]

theorem enterSfm_active_ns (s : State) : s.enterSfm.ns.gerrActive .sfm = true := by
  obtain ⟨u, -, h⟩ := enterSfm_eq s
  rw [h]
  split
  · rw [gerrorActivate_s_ns]
    exact gerrorActivate_active u .ns .sfm
  · exact gerrorActivate_active u .ns .sfm

theorem enterSfm_active_s {s : State} (hsec : s.secureImpl = true) : s.enterSfm.s.gerrActive .sfm = true := by
  obtain ⟨u, -, h⟩ := enterSfm_eq s
  rw [h, if_pos hsec]
  exact gerrorActivate_active _ .s .sfm

/-- Settles O38. -/
theorem serviceFailureIsSignalled : Obligations.ServiceFailureIsSignalled := by
  refine ⟨fun s rest h hoff => ?entry, fun s q => ⟨fun hon => ⟨?wired, ?msi⟩, fun hoff => ?disabled⟩⟩
  case entry =>
    have hkept := enterSfm_kept { s with agenda := rest }
    simp only [State.keptBySignal, Prod.mk.injEq] at hkept
    obtain ⟨-, hsfm, hcfg, htlb, hstalled, hagenda⟩ := hkept
    exact ⟨_, step_of_agenda h hoff, hsfm, enterSfm_active_ns _, fun hsec => enterSfm_active_s hsec, hcfg, htlb, hstalled, hagenda⟩
  case wired => exact wired_mem_irqRaise q _ _ hon
  case msi => exact msi_mem_irqRaise _ hon
  case disabled =>
    rw [State.gerrorIrq, hoff]
    exact irqRaise_disabled

end Sys2Proof.Machine
end

section
/-! PROOF. Delivery to an Event queue: when it is writable, what a delivery writes, and what it discards (60_exceptions.md R1652 to R1663,
R1724). -/
namespace Sys2Proof.Machine

/-! ### What delivery does with a record -/

/-- The queue is writable when it is enabled, not full, and without an unacknowledged EVENTQ_ABT_ERR (R1652). -/
theorem eventqWritable_iff {s : State} (q : Sec) (hsfm : s.sfm = false) : s.eventqWritable q = true ↔
    s.eventqen q = true ∧ s.eventqFull q = false ∧ (s.iface q).gerrActive .eventqAbt = false := by
  simp [State.eventqWritable, hsfm, and_assoc]

theorem eventqHolds_cases (s : State) (q : Sec) : ∃ b t, s.eventqHolds q = (b, t) ∧ (t = s ∨ t = s.drawn) := by
  unfold State.eventqHolds
  split
  · exact ⟨_, _, rfl, .inr rfl⟩
  · exact ⟨_, _, rfl, .inl rfl⟩

theorem eventqHolds_consistent {s : State} {q : Sec}
    (h : qInconsistent (s.iface q).eventqProd (s.iface q).eventqCons (s.eventqs q) = false) : s.eventqHolds q = (false, s) :=
  if_neg (by simp [h])

/-- The n-th pending record of an interface is pending no more. -/
def State.eventTaken (s : State) (q : Sec) (n : Nat) : State := s.setEvents q ((s.events q).eraseIdx n)

@[simp] theorem eventTaken_iface (s : State) (q p : Sec) (n : Nat) : (s.eventTaken q n).iface p = s.iface p := setEvents_iface s q p _
@[simp] theorem eventTaken_events (s : State) (q : Sec) (n : Nat) : (s.eventTaken q n).events q = (s.events q).eraseIdx n :=
  events_setEvents s q _

@[simp] theorem eventTaken_eventqen (s : State) (q : Sec) (n : Nat) : (s.eventTaken q n).eventqen q = s.eventqen q := by cases q <;> rfl
@[simp] theorem eventTaken_eventqFull (s : State) (q : Sec) (n : Nat) : (s.eventTaken q n).eventqFull q = s.eventqFull q := by
  cases q <;> rfl

section
variable {s : State} {q : Sec} {n : Nat} {e : PendEv}

/-- Nothing is written to a queue that is not writable: the records stay, or one is discarded, with an overflow or without. -/
theorem deliverEvent_unwritable (n : Nat) (h : s.eventqWritable q = false) :
    ∃ t, (t = s ∨ t = s.drawn) ∧ (s.deliverEvent q n = t ∨ s.deliverEvent q n = t.eventTaken q n ∨
      s.deliverEvent q n = (t.eventTaken q n).eventqOverflow q) := by
  obtain ⟨b, t, hholds, ht⟩ := eventqHolds_cases s q
  have hsame : t.eventqWritable q = false := by
    obtain rfl | rfl := ht
    · exact h
    · exact h
  unfold State.deliverEvent
  split
  · exact ⟨s, .inl rfl, .inl rfl⟩
  · refine ⟨t, ht, ?_⟩
    rw [hholds]
    dsimp only
    rw [hsame]
    split
    · exact .inl rfl
    · rw [if_neg Bool.false_ne_true]
      split
      · exact .inl rfl
      · split
        · exact .inr (.inr rfl)
        · exact .inr (.inl rfl)

variable (he : (s.events q)[n]? = some e)
  (hidx : qInconsistent (s.iface q).eventqProd (s.iface q).eventqCons (s.eventqs q) = false)
include he hidx

theorem deliverEvent_writes (hw : s.eventqWritable q = true) : s.deliverEvent q n = (s.eventTaken q n).commitEvent q e := by
  simp only [State.deliverEvent, he, eventqHolds_consistent hidx, hw]
  rfl

theorem deliverEvent_waits (hw : s.eventqWritable q = false) (hstag : e.stag ≠ none) : s.deliverEvent q n = s := by
  simp [State.deliverEvent, he, eventqHolds_consistent hidx, hw, Option.isSome_iff_ne_none.2 hstag]

theorem deliverEvent_discards (hw : s.eventqWritable q = false) (hsfm : s.sfm = false) (hstag : e.stag = none) :
    s.deliverEvent q n =
      if s.eventqen q && s.eventqFull q then (s.eventTaken q n).eventqOverflow q else s.eventTaken q n := by
  rw [← eventTaken_eventqen s q n, ← eventTaken_eventqFull s q n]
  simp only [State.deliverEvent, he, eventqHolds_consistent hidx, hw, hsfm, hstag]
  rfl

end

/-! ### The overflow flag -/

theorem bit_overflowToggle {prod cons : W32} {k : Nat} (hk : k < 31) : bit (overflowToggle prod cons) k = bit prod k := by
  unfold overflowToggle
  split
  · rw [bit_setBit _ _ _ _ (by decide), if_neg (by omega)]
  · rfl

/-- After a toggle the overflow is not acknowledged (R1663). -/
theorem overflowToggle_present (prod cons : W32) : bit (overflowToggle prod cons) 31 ≠ bit cons 31 := by
  unfold overflowToggle
  split
  · next h =>
    rw [bit_setBit _ _ _ _ (by decide), if_pos rfl, beq_iff_eq.1 h]
    exact Bool.not_ne_self _
  · next h => exact fun he => h (beq_iff_eq.2 he)

theorem qPos_overflowToggle (prod cons : W32) {qs : Nat} (hqs : qs ≤ 19) : qPos (overflowToggle prod cons) qs = qPos prod qs := by
  have hlow : fld (overflowToggle prod cons) 0 (qs + 1) = fld prod 0 (qs + 1) := by
    refine BitVec.eq_of_getLsbD_eq fun i hi => ?_
    have hi' := bit_overflowToggle (prod := prod) (cons := cons) (k := i) (by omega)
    simpa [fld, hi, bit] using hi'
  simpa [fld, qPos] using congrArg BitVec.toNat hlow

/-! ### Bytes -/

theorem SameBytes.of_memory {s t : State} (himpl : t.impl = s.impl) (hmem : t.mem = s.mem) (hint : t.internal = s.internal) :
    SameBytes s t := fun ns a => by rw [State.byte, State.byte, himpl, hmem, hint]

theorem sameBytes_eventTaken (s : State) (q : Sec) (n : Nat) : SameBytes s (s.eventTaken q n) :=
  .of_memory (setEvents_impl s q _) (setEvents_mem s q _) (setEvents_internal s q _)

theorem sameBytes_eventqOverflow (s : State) (q : Sec) : SameBytes s (s.eventqOverflow q) :=
  .of_memory (setIface_impl s q _) (setIface_mem s q _) (setIface_internal s q _)

theorem SameBytes.trans {s t u : State} (h : SameBytes s t) (h' : SameBytes t u) : SameBytes s u :=
  fun ns a => (h' ns a).trans (h ns a)

theorem eventqOverflow_iface (s : State) (q : Sec) : (s.eventqOverflow q).iface q =
    { s.iface q with eventqProd := overflowToggle (s.iface q).eventqProd (s.iface q).eventqCons } := iface_setIface s q _

theorem eventqOverflow_events (s : State) (q : Sec) : (s.eventqOverflow q).events q = s.events q := by cases q <;> rfl

/-! ### A queue that is not writable -/

/-- Whatever is pending, nothing is written to a queue that is not writable. -/
theorem deliverEvent_unwritable_effect {s : State} {q : Sec} (n : Nat) (h : s.eventqWritable q = false) :
    SameBytes s (s.deliverEvent q n) ∧
      qPos ((s.deliverEvent q n).iface q).eventqProd (s.eventqs q) = qPos (s.iface q).eventqProd (s.eventqs q) := by
  obtain ⟨t, ht, hcases⟩ := deliverEvent_unwritable n h
  have hdrawn : SameBytes s t ∧ t.iface q = s.iface q := by
    obtain rfl | rfl := ht
    · exact ⟨fun _ _ => rfl, rfl⟩
    · exact ⟨.of_memory rfl rfl rfl, drawn_iface s q⟩
  obtain ⟨hbytes, hregs⟩ := hdrawn
  obtain hd | hd | hd := hcases
  · rw [hd, hregs]
    exact ⟨hbytes, rfl⟩
  · rw [hd, eventTaken_iface, hregs]
    exact ⟨hbytes.trans (sameBytes_eventTaken t q n), rfl⟩
  · rw [hd, eventqOverflow_iface, eventTaken_iface, hregs]
    exact ⟨(hbytes.trans (sameBytes_eventTaken t q n)).trans (sameBytes_eventqOverflow _ q),
      qPos_overflowToggle _ _ (eventqs_le s q)⟩

/-- Settles O39. -/
theorem eventQueueWritable : Obligations.EventQueueWritable := by
  intro s q
  refine ⟨fun hack hsfm => ?writable, fun n rest h hoff hw => ?delivery⟩
  case writable =>
    have hfull : s.eventqFull q = false ↔ ¬ (qIndex (s.iface q).eventqProd (s.eventqs q) = qIndex (s.iface q).eventqCons (s.eventqs q) ∧
        qWrap (s.iface q).eventqProd (s.eventqs q) ≠ qWrap (s.iface q).eventqCons (s.eventqs q)) := by
      rw [← qFull_iff, Bool.not_eq_true]
      rfl
    have herr : (s.iface q).gerrActive .eventqAbt = false ↔ bit (s.iface q).gerror 2 = bit (s.iface q).gerrorn 2 := bne_eq_false_iff_eq
    rw [eventqWritable_iff q hsfm, State.eventqen, hack, hfull, herr]
  case delivery =>
    obtain ⟨hbytes, hpos⟩ := deliverEvent_unwritable_effect (s := { s with agenda := rest }) n hw
    exact ⟨_, step_of_agenda h hoff, hbytes, hpos⟩

/-- Settles O41: by whether the record is of a stall, and then by whether the enabled queue is full. -/
theorem unwritableQueueDiscards : Obligations.UnwritableQueueDiscards := by
  intro s q n e rest h hoff he hw hsfm hidx
  rw [step_of_agenda h hoff]
  refine ⟨fun hstag => congrArg Host.Outcome.next (deliverEvent_waits (s := { s with agenda := rest }) he hidx hw hstag),
    fun hstag => ⟨_, congrArg Host.Outcome.next (deliverEvent_discards (s := { s with agenda := rest }) he hidx hw hsfm hstag), ?_⟩⟩
  have hfull : (({ s with agenda := rest } : State).eventqen q && ({ s with agenda := rest } : State).eventqFull q) =
      (s.eventqen q && s.eventqFull q) := rfl
  rw [hfull, ← Bool.and_eq_true]
  generalize hu : ({ s with agenda := rest } : State).eventTaken q n = u
  have hregs : u.iface q = s.iface q := by rw [← hu, eventTaken_iface]; rfl
  have hevents : u.events q = (s.events q).eraseIdx n := by rw [← hu, eventTaken_events]; rfl
  have hbytes : SameBytes s u := hu ▸ sameBytes_eventTaken { s with agenda := rest } q n
  have hout : u.out = s.out := by simp [← hu, State.eventTaken]
  have hirqs : u.irqs = s.irqs := by simp [← hu, State.eventTaken]
  cases s.eventqen q && s.eventqFull q with
  | false =>
    exact ⟨hevents, hbytes, hout, hirqs, fun k _ => by rw [if_neg Bool.false_ne_true, hregs], fun h => absurd h (by decide),
      fun _ => hregs⟩
  | true =>
    rw [if_pos rfl, eventqOverflow_iface, eventqOverflow_events, hregs]
    exact ⟨hevents, hbytes.trans (sameBytes_eventqOverflow u q), (setIface_out u q _).trans hout, (setIface_irqs u q _).trans hirqs,
      fun k hk => bit_overflowToggle hk, fun _ => overflowToggle_present _ _, fun h => absurd rfl h⟩

/-! ### A queue that is writable -/

/-- The address of the record at PROD.WR (20_memory.md R456). -/
def State.eventSlot (s : State) (q : Sec) : Nat :=
  s.queueBase (s.iface q).eventqBase (s.eventqs q + 5) + 32 * qIndex (s.iface q).eventqProd (s.eventqs q)

/-- The bus has shown the write of a record at PROD.WR. -/
def State.eventShown (s : State) (q : Sec) (e : PendEv) : State :=
  s.drawn.bus .eventq .write q.isNs (s.eventSlot q) (leBytes 32 e.ev.toNat).length ((s.iface q).queueAttrs (s.iface q).eventqBase)

/-- Its bytes are stored there, and the transaction of a stall record counts as recorded. -/
def State.eventStored (s : State) (q : Sec) (e : PendEv) : State :=
  ((s.eventShown q e).store false q.isNs (s.eventSlot q) (leBytes 32 e.ev.toNat)).markRecorded q e

/-- PROD.WR has moved on past the record. -/
def State.eventAdvanced (s : State) (q : Sec) (e : PendEv) : State :=
  (s.eventStored q e).setIface q { s.iface q with eventqProd := qInc (s.iface q).eventqProd (s.eventqs q) }

@[simp] theorem markRecorded_iface (s : State) (q p : Sec) (e : PendEv) : (s.markRecorded q e).iface p = s.iface p := by cases p <;> rfl
@[simp] theorem markRecorded_events (s : State) (q p : Sec) (e : PendEv) : (s.markRecorded q e).events p = s.events p := by cases p <;> rfl

theorem eventStored_iface (s : State) (q p : Sec) (e : PendEv) : (s.eventStored q e).iface p = s.iface p := by
  simp [State.eventStored, State.eventShown, State.bus]

theorem eventAdvanced_iface (s : State) (q : Sec) (e : PendEv) : (s.eventAdvanced q e).iface q =
    { s.iface q with eventqProd := qInc (s.iface q).eventqProd (s.eventqs q) } := iface_setIface _ q _

theorem eventAdvanced_events (s : State) (q : Sec) (e : PendEv) : (s.eventAdvanced q e).events q = s.events q := by
  generalize hu : s.eventShown q e = u
  have hevents : u.events q = s.events q := by rw [← hu]; cases q <;> rfl
  rw [← hevents, State.eventAdvanced, State.eventStored, hu]
  generalize leBytes 32 e.ev.toNat = bs
  cases q <;> rfl

theorem sameBytes_eventAdvanced (s : State) (q : Sec) (e : PendEv) :
    SameBytes ((s.eventShown q e).store false q.isNs (s.eventSlot q) (leBytes 32 e.ev.toNat)) (s.eventAdvanced q e) :=
  .of_memory (setIface_impl _ q _) (setIface_mem _ q _) (setIface_internal _ q _)

section
variable {s : State} {q : Sec} (e : PendEv)
  (hidx : qInconsistent (s.iface q).eventqProd (s.iface q).eventqCons (s.eventqs q) = false)
  (ha : s.aborts .eventq q.isNs (s.eventSlot q) 32 = false)
include hidx ha

/-- A write that does not abort: the record is stored, WR moves on, and the interrupt of a queue that was empty is raised (R1656). -/
theorem commitEvent_eq : s.commitEvent q e =
    if qEmpty (s.iface q).eventqProd (s.iface q).eventqCons (s.eventqs q) then (s.eventAdvanced q e).eventqIrq q
    else s.eventAdvanced q e := by
  have hindex : s.eventIndex q = qIndex (s.iface q).eventqProd (s.eventqs q) := if_neg (by simp [hidx])
  have hwrite : s.drawn.busWrite q .eventq q.isNs (s.eventSlot q) (leBytes 32 e.ev.toNat)
      ((s.iface q).queueAttrs (s.iface q).eventqBase) =
      (true, (s.eventShown q e).store false q.isNs (s.eventSlot q) (leBytes 32 e.ev.toNat)) :=
    busWrite_ok _ _ _ _ _ _ _ (by rw [leBytes_length]; exact ha)
  have hregs := eventStored_iface s q q e
  unfold State.eventStored at hregs
  unfold State.eventSlot at hwrite ha
  simp only [State.commitEvent, hindex, hwrite, ha]
  simp only [State.eventSlot] at hregs
  simp only [Bool.not_true, Bool.false_and, Bool.false_eq_true, if_false, if_true, hregs]
  rfl

/-- A record is delivered to a writable queue (R1656, R1724). -/
theorem commitEvent_effect (hr : ∀ j, j < 32 → intRange s.impl q.isNs (s.eventSlot q + j) = none) (hm : Memory.wf s.mem = true)
    (hi : Memory.wf s.internal = true) :
    (s.commitEvent q e).load q.isNs (s.eventSlot q) 32 = leBytes 32 e.ev.toNat ∧
      SameBytesBut [(q.isNs, s.eventSlot q, 32)] s (s.commitEvent q e) ∧
      (s.commitEvent q e).iface q = { s.iface q with eventqProd := qInc (s.iface q).eventqProd (s.eventqs q) } ∧
      (s.commitEvent q e).events q = s.events q ∧
      (qEmpty (s.iface q).eventqProd (s.iface q).eventqCons (s.eventqs q) = true → s.irqOn q 2 = true → s.impl.wiredIrq = true →
        .wired (.eventq q) ∈ (s.commitEvent q e).irqs) := by
  obtain ⟨l, hl⟩ : ∃ l, s.commitEvent q e = (s.eventAdvanced q e).pushIrqs l := by
    rw [commitEvent_eq e hidx ha]
    split
    · obtain ⟨l, hl, -⟩ := irqRaise_eq (s.eventAdvanced q e) q (.eventq q) ((s.eventAdvanced q e).irqOn q 2)
        ((s.eventAdvanced q e).iface q).eventqCfg
      exact ⟨l, hl⟩
    · exact ⟨[], (pushIrqs_nil _).symm⟩
  have hbyte : SameBytes ((s.eventShown q e).store false q.isNs (s.eventSlot q) (leBytes 32 e.ev.toNat)) (s.commitEvent q e) := by
    rw [hl]
    exact (sameBytes_eventAdvanced s q e).trans (.of_memory rfl rfl rfl)
  have hlen : (leBytes 32 e.ev.toNat).length = 32 := leBytes_length _ _
  refine ⟨?bytes, fun ns a hout => ?others, ?regs, ?events, fun hempty hon hwired => ?irq⟩
  case bytes =>
    rw [load_of_byte hbyte]
    have hload := load_store (s.eventShown q e) false q.isNs (s.eventSlot q) (leBytes 32 e.ev.toNat) hm (by rw [hlen]; decide)
      (by rw [hlen]; exact hr)
    rwa [hlen] at hload
  case others =>
    rw [hbyte]
    refine byte_store_ne _ false q.isNs (s.eventSlot q) (leBytes 32 e.ev.toNat) hm hi ns a ?_
    rw [hlen]
    exact hout _ (List.mem_singleton.2 rfl)
  case regs => rw [hl, pushIrqs_iface, eventAdvanced_iface]
  case events =>
    rw [hl, ← eventAdvanced_events s q e]
    cases q <;> rfl
  case irq =>
    rw [commitEvent_eq e hidx ha, if_pos hempty]
    refine wired_mem_irqRaise q _ _ ?_ ?_
    · rw [State.irqOn, eventAdvanced_iface]
      exact hon
    · exact (congrArg Impl.wiredIrq (setIface_impl _ q _)).trans hwired

end

/-- What the place of a record in its queue depends on stands while the record is taken. -/
theorem eventTaken_eventqs (s : State) (q : Sec) (n : Nat) : (s.eventTaken q n).eventqs q = s.eventqs q := by cases q <;> rfl
theorem eventTaken_eventSlot (s : State) (q : Sec) (n : Nat) : (s.eventTaken q n).eventSlot q = s.eventSlot q := by cases q <;> rfl
theorem eventTaken_aborts (s : State) (q : Sec) (n : Nat) (kind : AccKind) (ns : Bool) (pa k : Nat) :
    (s.eventTaken q n).aborts kind ns pa k = s.aborts kind ns pa k := by cases q <;> rfl

/-- The n-th pending record is written to a writable queue. -/
theorem deliverEvent_effect {s : State} {q : Sec} {n : Nat} {e : PendEv} (he : (s.events q)[n]? = some e)
    (hidx : qInconsistent (s.iface q).eventqProd (s.iface q).eventqCons (s.eventqs q) = false) (hw : s.eventqWritable q = true)
    (ha : s.aborts .eventq q.isNs (s.eventSlot q) 32 = false)
    (hr : ∀ j, j < 32 → intRange s.impl q.isNs (s.eventSlot q + j) = none) (hm : Memory.wf s.mem = true)
    (hi : Memory.wf s.internal = true) :
    (s.deliverEvent q n).load q.isNs (s.eventSlot q) 32 = leBytes 32 e.ev.toNat ∧
      SameBytesBut [(q.isNs, s.eventSlot q, 32)] s (s.deliverEvent q n) ∧
      (s.deliverEvent q n).iface q = { s.iface q with eventqProd := qInc (s.iface q).eventqProd (s.eventqs q) } ∧
      (s.deliverEvent q n).events q = (s.events q).eraseIdx n ∧
      (qEmpty (s.iface q).eventqProd (s.iface q).eventqCons (s.eventqs q) = true → s.irqOn q 2 = true → s.impl.wiredIrq = true →
        .wired (.eventq q) ∈ (s.deliverEvent q n).irqs) := by
  have himpl : (s.eventTaken q n).impl = s.impl := setEvents_impl s q _
  have hslot := eventTaken_eventSlot s q n
  obtain ⟨hload, hbytes, hregs, hevents, hirq⟩ := commitEvent_effect (s := s.eventTaken q n) e
    (by rw [eventTaken_iface, eventTaken_eventqs]; exact hidx) (by rw [hslot, eventTaken_aborts]; exact ha)
    (by rw [hslot, himpl]; exact hr) ((congrArg Memory.wf (setEvents_mem s q _)).trans hm)
    ((congrArg Memory.wf (setEvents_internal s q _)).trans hi)
  rw [hslot] at hload hbytes
  rw [State.irqOn] at hirq
  rw [eventTaken_iface, eventTaken_eventqs] at hregs hirq
  rw [himpl] at hirq
  rw [deliverEvent_writes he hidx hw]
  exact ⟨hload, fun ns a hout => (hbytes ns a hout).trans (sameBytes_eventTaken s q n ns a), hregs,
    hevents.trans (eventTaken_events s q n), hirq⟩

/-- Settles O40. -/
theorem eventIsWritten : Obligations.EventIsWritten := by
  intro s q n e rest h hoff he hw hidx pa ha hr hm hi
  obtain ⟨hload, hbytes, hregs, hevents, hirq⟩ := deliverEvent_effect (s := { s with agenda := rest }) he hidx hw ha hr hm hi
  have hprod := congrArg Iface.eventqProd hregs
  refine ⟨_, step_of_agenda h hoff, hload, hbytes, ?_, ?_, ?_, hevents, hirq⟩
  · exact (congrArg (qPos · (s.eventqs q)) hprod).trans (qPos_qInc _ _ (eventqs_le s q))
  · exact (congrArg (fld · 20 12) hprod).trans (fld_qInc _ _)
  · rw [hprod]
    exact hregs

end Sys2Proof.Machine
end

section
/-! PROOF. Counters, and the RAS error records (51_pmcg.md R1430, R1431, 52_ras.md R1525 to R1532). -/
namespace Sys2Proof.Machine

/-! ### Counters -/

theorem Pmcg.width_le (g : Pmcg) : g.width ≤ 64 := (fld g.cfg 8 6).isLt

section
variable {g : Pmcg} {n : Nat} {v : W64}

/-- Below its greatest value a counter goes up by one (51_pmcg.md R1430). -/
theorem increment_below (hv : g.evcntr[n]? = some v) (h : v.toNat + 1 < 2 ^ g.width) :
    g.increment n = ({ g with evcntr := g.evcntr.set n (BitVec.ofNat 64 (v.toNat + 1)) }, false) := by
  simp [Pmcg.increment, hv, Nat.mod_eq_of_lt h, h.ne]

/-- At its greatest value it becomes 0, and the effects of an overflow follow (R1431). -/
theorem increment_at_top (hv : g.evcntr[n]? = some v) (h : v.toNat + 1 = 2 ^ g.width) :
    g.increment n = ({ g with evcntr := g.evcntr.set n 0 } : Pmcg).overflow n := by
  simp [Pmcg.increment, hv, h]

end

theorem overflow_evcntr (g : Pmcg) (n : Nat) : (g.overflow n).1.evcntr = g.evcntr := by
  unfold Pmcg.overflow
  dsimp only
  split <;> rfl

theorem overflow_ovs (g : Pmcg) (n : Nat) : (g.overflow n).1.ovs = setBit g.ovs n true := by
  unfold Pmcg.overflow
  dsimp only
  split <;> rfl

/-- Capture, which an overflow may make, changes no enable of an interrupt. -/
theorem overflow_irq (g : Pmcg) (n : Nat) : (g.overflow n).2 = (bit g.inten n && g.irqOn) := by
  unfold Pmcg.overflow
  dsimp only
  split <;> rfl

/-! ### Table 2 and the recorded error -/

theorem RasType.isUe_iff {t : RasType} : t.isUe = true ↔ 3 ≤ t.rank := decide_eq_true_iff

theorem RasType.isUe_ne {t : RasType} (h : t.isUe = true) : t ≠ .ce ∧ t ≠ .de := by
  constructor <;> rintro rfl <;> exact absurd h (by decide)

/-- An uncorrected error of a higher priority than the recorded one is written; over an uncorrected one with OF (R1527). -/
theorem rasAction_higher {prev new : RasType} (hue : new.isUe = true) (h : prev.rank < new.rank) :
    rasAction prev new = if prev.isUe then .wo else .w := by
  obtain ⟨hce, hde⟩ := RasType.isUe_ne hue
  rw [rasAction, if_neg hce, if_neg hde]
  cases hprev : prev.isUe with
  | true => rw [if_neg (by have := RasType.isUe_iff.1 hprev; omega), if_pos h, if_pos rfl]
  | false => rw [if_pos (by have := mt RasType.isUe_iff.2 (Bool.not_eq_true _ ▸ hprev); omega), if_neg Bool.false_ne_true]

/-- One of no higher priority only sets OF. -/
theorem rasAction_notHigher {prev new : RasType} (hue : new.isUe = true) (h : new.rank ≤ prev.rank) : rasAction prev new = .o := by
  obtain ⟨hce, hde⟩ := RasType.isUe_ne hue
  have hrank := RasType.isUe_iff.1 hue
  rw [rasAction, if_neg hce, if_neg hde, if_neg (by omega), if_neg (by omega)]

theorem rasAction_deferred {prev : RasType} (h : prev.isUe = true) : rasAction prev .de = .k := by
  have hrank := RasType.isUe_iff.1 h
  rw [rasAction, if_neg (by decide), if_pos rfl, if_neg (by omega), if_neg (RasType.isUe_ne h).2]

theorem rasAction_corrected {prev : RasType} (h : 2 ≤ prev.rank) : rasAction prev .ce = .ck := by
  rw [rasAction, if_pos rfl, if_neg (by rintro rfl; exact absurd h (by decide)), if_neg (by rintro rfl; exact absurd h (by decide))]

/-- Where an uncorrected error is recorded UE is set (R1525). -/
theorem bit_of_rasPrev_isUe {st : W64} (h : (rasPrev st).isUe = true) : bit st 29 = true := by
  by_contra hue
  refine absurd h ?_
  rw [rasPrev, if_neg hue]
  split_ifs <;> decide

/-! ### Fields of a word that a field or a bit was set in -/

theorem bit_eq_of_fld_eq {w n lo : Nat} {x y : BitVec w} (h : ∀ i < n, bit x (lo + i) = bit y (lo + i)) : fld x lo n = fld y lo n :=
  BitVec.eq_of_getLsbD_eq fun i hi => by simpa [fld, bit, hi] using h i hi

theorem fld_setFld_disjoint {w n k lo : Nat} (x : BitVec w) (p : Nat) (v : BitVec n) (h : lo + k ≤ p ∨ p + n ≤ lo) :
    fld (setFld x p v) lo k = fld x lo k :=
  bit_eq_of_fld_eq fun i hi => bit_setFld x p v (lo + i) (by omega)

theorem fld_setBit_disjoint {w k lo : Nat} (x : BitVec w) (p : Nat) (b : Bool) (h : lo + k ≤ p ∨ p + 1 ≤ lo) :
    fld (setBit x p b) lo k = fld x lo k := fld_setFld_disjoint x p _ h

theorem bit_setBit_same {w : Nat} (x : BitVec w) {p : Nat} (b : Bool) (h : p < w) : bit (setBit x p b) p = b := by
  rw [bit_setBit _ _ _ _ h, if_pos rfl]

theorem bit_setBit_ne {w : Nat} (x : BitVec w) {p k : Nat} (b : Bool) (h : k ≠ p) : bit (setBit x p b) k = bit x k :=
  bit_setFld x p _ k (by omega)

/-- Setting a bit that is set changes nothing. -/
theorem bit_setBit_of_set {w : Nat} {x : BitVec w} {p : Nat} (h : bit x p = true) (k : Nat) : bit (setBit x p true) k = bit x k := by
  by_cases hk : k = p
  · have hp : p < w := BitVec.lt_of_getLsbD h
    rw [hk, bit_setBit_same _ _ hp, h]
  · exact bit_setBit_ne x true hk

/-! ### What a detected error does to its record -/

/-- A bit of a word is set, cleared or left alone. -/
def putBit {w : Nat} (x : BitVec w) (p : Nat) : Option Bool → BitVec w
  | none => x
  | some b => setBit x p b

@[simp] theorem putBit_none {w : Nat} (x : BitVec w) (p : Nat) : putBit x p none = x := rfl
@[simp] theorem putBit_some {w : Nat} (x : BitVec w) (p : Nat) (b : Bool) : putBit x p (some b) = setBit x p b := rfl
theorem putBit_ite {w : Nat} (x : BitVec w) (p : Nat) (c : Prop) [Decidable c] (a b : Option Bool) :
    putBit x p (if c then a else b) = if c then putBit x p a else putBit x p b := apply_ite (putBit x p) c a b

theorem bit_putBit_ne {w : Nat} (x : BitVec w) {p k : Nat} (b : Option Bool) (h : k ≠ p) : bit (putBit x p b) k = bit x k := by
  cases b with
  | none => rfl
  | some b => exact bit_setBit_ne x b h

theorem fld_putBit_disjoint {w k lo : Nat} (x : BitVec w) (p : Nat) (b : Option Bool) (h : lo + k ≤ p ∨ p + 1 ≤ lo) :
    fld (putBit x p b) lo k = fld x lo k :=
  bit_eq_of_fld_eq fun i hi => bit_putBit_ne x b (by omega)

/-- ERRSTATUS with an uncorrected error: its type, its syndrome, the validity of its address and of the MISC registers, and V; `mv` and
`ovf` say what becomes of MV and OF (R1525, R1532, R1564). -/
def rasUeStatus (st : W64) (e : RasErr) (er : Bool) (mv ovf : Option Bool) : W64 :=
  putBit (setBit (putBit (setBit (setFld (setFld (setBit (setBit (setFld (setBit st 29 true) 20 e.typ.uet) 28 er) 22 e.pn) 8 e.ierr)
    0 e.serr) 31 e.addr.isSome) 26 mv) 30 true) 27 ovf

theorem rasUeStatus_fields (st : W64) (e : RasErr) (er : Bool) (mv ovf : Option Bool) :
    bit (rasUeStatus st e er mv ovf) 30 = true ∧ bit (rasUeStatus st e er mv ovf) 29 = true ∧
      fld (rasUeStatus st e er mv ovf) 20 2 = e.typ.uet ∧ fld (rasUeStatus st e er mv ovf) 0 8 = e.serr ∧
      fld (rasUeStatus st e er mv ovf) 8 8 = e.ierr ∧ bit (rasUeStatus st e er mv ovf) 31 = e.addr.isSome := by
  simp [rasUeStatus, bit_putBit_ne, bit_setBit_same, bit_setBit_ne, bit_setFld, fld_putBit_disjoint, fld_setFld_same,
    fld_setFld_disjoint, fld_setBit_disjoint]

theorem rasUeStatus_overflow (st : W64) (e : RasErr) (er : Bool) (mv : Option Bool) :
    bit (rasUeStatus st e er mv (some true)) 27 = true := bit_setBit_same _ _ (by decide)

section
variable (p : Impl) (fr ctl : W64) (anyOf : Bool) {e : RasErr} {r : RasRec}

/-- An uncorrected error of a higher priority is recorded, over an uncorrected one with OF (R1527, R1532). -/
theorem rasDetectRec_higher (hue : e.typ.isUe = true) (h : (rasPrev r.status).rank < e.typ.rank) :
    ∃ er mv ovf misc0 misc1, (rasDetectRec p fr ctl anyOf e r).1 =
      { r with status := rasUeStatus r.status e er mv ovf, addr := e.addr.getD r.addr, misc0 := misc0, misc1 := misc1 } ∧
      ((rasPrev r.status).isUe = true → ovf = some true) := by
  have hact := rasAction_higher hue h
  obtain ⟨hce, hde⟩ := RasType.isUe_ne hue
  refine ⟨ueEnabled fr ctl e.rw, if e.misc.isSome then some true else if p.rasMvClearOnW then some false else none,
    if (rasPrev r.status).isUe then some true else if p.rasOfClearOnW then some false else none,
    (e.misc.elim r.misc0 fun m => mergeMask (ceMask fr) m.1 r.misc0), (e.misc.elim r.misc1 fun m => m.2), ?_, fun h => if_pos h⟩
  cases hmisc : e.misc <;> cases hprev : (rasPrev r.status).isUe <;>
    simp [rasDetectRec, rasUeStatus, hact, hce, hde, hue, hmisc, hprev, putBit_ite]

/-- One of no higher priority leaves what is recorded but OF and ER. -/
theorem rasDetectRec_notHigher (hue : e.typ.isUe = true) (h : e.typ.rank ≤ (rasPrev r.status).rank) :
    ∃ er : Bool, (rasDetectRec p fr ctl anyOf e r).1 = 
      { r with status := setBit (if er then setBit (setBit r.status 29 true) 28 true else setBit r.status 29 true) 27 true } := by
  have hact := rasAction_notHigher hue h
  obtain ⟨hce, hde⟩ := RasType.isUe_ne hue
  refine ⟨ueEnabled fr ctl e.rw, ?_⟩
  simp [rasDetectRec, hact, hce, hde, hue]

/-- A Deferred error leaves an uncorrected one. -/
theorem rasDetectRec_deferred (hde : e.typ = .de) (h : (rasPrev r.status).isUe = true) :
    ∃ f : Bool, (rasDetectRec p fr ctl anyOf e r).1 = 
      { r with status := if f then setBit (setBit r.status 23 true) 27 true else setBit r.status 23 true } := by
  have hact := rasAction_deferred h
  refine ⟨p.rasOfOnK, ?_⟩
  simp [rasDetectRec, hact, hde, RasType.isUe, RasType.rank]

/-- A Corrected error leaves a Deferred or an uncorrected one: it is counted, and its kind is kept in CE. -/
theorem rasDetectRec_corrected (hce : e.typ = .ce) (h : 2 ≤ (rasPrev r.status).rank) :
    ∃ (f : Bool) (c : BitVec 2) (misc0 : W64), (rasDetectRec p fr ctl anyOf e r).1 = 
      { r with status := if f then setBit (setFld r.status 24 c) 27 true else setFld r.status 24 c, misc0 := misc0 } := by
  have hact := rasAction_corrected h
  refine ⟨((countCe fr r.misc0 e.sameLoc false).2 || decide (frCEC fr = 0)) && p.rasOfOnCk,
    ceValue p.rasPersistDetect e.sameLoc (fld r.status 24 2), (countCe fr r.misc0 e.sameLoc false).1, ?_⟩
  simp [rasDetectRec, hact, hce, RasType.isUe, RasType.rank]

/-! What is recorded afterwards, of an error of each kind. -/

theorem recorded_of_higher (hue : e.typ.isUe = true) (h : (rasPrev r.status).rank < e.typ.rank) :
    let r' := (rasDetectRec p fr ctl anyOf e r).1
    bit r'.status 30 = true ∧ bit r'.status 29 = true ∧ fld r'.status 20 2 = e.typ.uet ∧ fld r'.status 0 8 = e.serr ∧
      fld r'.status 8 8 = e.ierr ∧ bit r'.status 31 = e.addr.isSome ∧ r'.addr = e.addr.getD r.addr ∧
      ((rasPrev r.status).isUe = true → bit r'.status 27 = true) := by
  obtain ⟨er, mv, ovf, misc0, misc1, hrec, hover⟩ := rasDetectRec_higher p fr ctl anyOf hue h
  obtain ⟨hv, hueBit, huet, hserr, hierr, hav⟩ := rasUeStatus_fields r.status e er mv ovf
  intro r'
  rw [show r' = _ from hrec]
  refine ⟨hv, hueBit, huet, hserr, hierr, hav, rfl, fun hprev => ?_⟩
  rw [hover hprev]
  exact rasUeStatus_overflow r.status e er mv

theorem recorded_of_notHigher (hue : e.typ.isUe = true) (h : e.typ.rank ≤ (rasPrev r.status).rank) :
    let r' := (rasDetectRec p fr ctl anyOf e r).1
    bit r'.status 27 = true ∧ (∀ k, k ≠ 27 → k ≠ 28 → bit r'.status k = bit r.status k) ∧
      r'.addr = r.addr ∧ r'.misc0 = r.misc0 ∧ r'.misc1 = r.misc1 := by
  obtain ⟨er, hrec⟩ := rasDetectRec_notHigher p fr ctl anyOf hue h
  have hprev : bit r.status 29 = true := bit_of_rasPrev_isUe (RasType.isUe_iff.2 ((RasType.isUe_iff.1 hue).trans h))
  intro r'
  rw [show r' = _ from hrec]
  refine ⟨bit_setBit_same _ _ (by decide), fun k hof her => ?_, rfl, rfl, rfl⟩
  rw [bit_setBit_ne _ _ hof]
  split
  · rw [bit_setBit_ne _ _ her, bit_setBit_of_set hprev]
  · exact bit_setBit_of_set hprev k

theorem recorded_of_deferred (hde : e.typ = .de) (h : (rasPrev r.status).isUe = true) :
    let r' := (rasDetectRec p fr ctl anyOf e r).1
    bit r'.status 23 = true ∧ (∀ k, k ≠ 23 → k ≠ 27 → bit r'.status k = bit r.status k) ∧
      r'.addr = r.addr ∧ r'.misc0 = r.misc0 ∧ r'.misc1 = r.misc1 := by
  obtain ⟨f, hrec⟩ := rasDetectRec_deferred p fr ctl anyOf hde h
  intro r'
  rw [show r' = _ from hrec]
  cases f with
  | false => exact ⟨bit_setBit_same _ _ (by decide), fun k hkind _ => bit_setBit_ne _ _ hkind, rfl, rfl, rfl⟩
  | true =>
    exact ⟨(bit_setBit_ne _ _ (by decide)).trans (bit_setBit_same _ _ (by decide)),
      fun k hkind hof => (bit_setBit_ne _ _ hof).trans (bit_setBit_ne _ _ hkind), rfl, rfl, rfl⟩

theorem recorded_of_corrected (hce : e.typ = .ce) (h : 2 ≤ (rasPrev r.status).rank) :
    let r' := (rasDetectRec p fr ctl anyOf e r).1
    (∀ k, k ≠ 24 → k ≠ 25 → k ≠ 27 → bit r'.status k = bit r.status k) ∧ r'.addr = r.addr ∧ r'.misc1 = r.misc1 := by
  obtain ⟨f, c, misc0, hrec⟩ := rasDetectRec_corrected p fr ctl anyOf hce h
  intro r'
  rw [show r' = _ from hrec]
  refine ⟨fun k hlo hhi hof => ?_, rfl, rfl⟩
  have hcounted : bit (setFld r.status 24 c) k = bit r.status k := bit_setFld _ _ _ _ (by omega)
  cases f with
  | false => exact hcounted
  | true => exact (bit_setBit_ne _ _ hof).trans hcounted

end

/-- Of a record, a detected error changes ERRSTATUS, ERRADDR and the MISC registers only. -/
theorem rasDetectRec_frame (p : Impl) (fr ctl : W64) (anyOf : Bool) (e : RasErr) (r : RasRec) :
    (rasDetectRec p fr ctl anyOf e r).1 =
      { r with status := (rasDetectRec p fr ctl anyOf e r).1.status, addr := (rasDetectRec p fr ctl anyOf e r).1.addr,
               misc0 := (rasDetectRec p fr ctl anyOf e r).1.misc0, misc1 := (rasDetectRec p fr ctl anyOf e r).1.misc1 } := rfl

/-! ### What a detected error does to the SMMU -/

theorem rasIrqs_eq (s : State) (g f : Nat) (q : RasIrq) : ∃ l, s.rasIrqs g f q = s.pushIrqs l := by
  unfold State.rasIrqs
  split
  · exact ⟨[], (pushIrqs_nil s).symm⟩
  · exact ⟨_, rfl⟩

/-- The error with the bits of its address that ERRADDR has (52_ras.md R1565). -/
def State.maskedErr (s : State) (e : RasErr) : RasErr := { e with addr := e.addr.map fun a => a &&& rasAddrMask s.oas }

/-- What record `r` of node `n` of a group becomes when an error is detected in it. -/
def State.rasRecorded (s : State) (grp : RasGroup) (n : Nat) (e : RasErr) (r : RasRec) : RasRec :=
  (rasDetectRec s.impl (rasNode grp n).1 (rasNode grp n).2 (bit s.free 0) (s.maskedErr e) r).1

/-- Where detection is on, an error changes its record only; interrupts may wait to be delivered, and a free value is taken. -/
theorem rasDetect_eq {s : State} {g n : Nat} {e : RasErr} {grp : RasGroup} {r : RasRec} (hg : s.ras[g]? = some grp)
    (hr : grp.recs[n]? = some r) (hon : frED (rasNode grp n).1 = 1 ∨ bit (rasNode grp n).2 0 = true) (htyp : e.typ ≠ .none) :
    ∃ l, s.rasDetect g n e =
      { s with ras := s.ras.set g { grp with recs := grp.recs.set n (s.rasRecorded grp n e r) }, irqs := l, draw := s.draw + 1 } := by
  have hdetect : Machine.rasDetect s.impl (bit s.free 0) n (s.maskedErr e) grp =
      ({ grp with recs := grp.recs.set n (s.rasRecorded grp n e r) },
        (rasDetectRec s.impl (rasNode grp n).1 (rasNode grp n).2 (bit s.free 0) (s.maskedErr e) r).2) := by
    have hcond : ((decide (frED (rasNode grp n).1 = 1) || bit (rasNode grp n).2 0) && (s.maskedErr e).typ != .none) = true := by
      simpa [State.maskedErr, htyp] using hon
    simp only [Machine.rasDetect, hr, hcond]
    rfl
  obtain ⟨l, hl⟩ := rasIrqs_eq { s.drawn with ras := s.ras.set g { grp with recs := grp.recs.set n (s.rasRecorded grp n e r) } } g
    ((grp.recs[n]?.map RasRec.first).getD n)
    (rasDetectRec s.impl (rasNode grp n).1 (rasNode grp n).2 (bit s.free 0) (s.maskedErr e) r).2
  refine ⟨s.irqs ++ l, ?_⟩
  unfold State.maskedErr at hdetect
  simp only [State.rasDetect, hg, hdetect]
  exact hl

/-- Settles O52. -/
theorem countersAndErrorRecords : Obligations.CountersAndErrorRecords := by
  refine ⟨fun g n v hv hn hlt => ⟨fun h => ?below, fun h => ?top⟩, fun s g n e grp r rest hagenda hoff hg hr hon htyp => ?ras⟩
  case below =>
    refine ⟨_, ?_, increment_below hv h⟩
    have hwidth : 2 ^ g.width ≤ 2 ^ 64 := Nat.pow_le_pow_right (by decide) g.width_le
    rw [BitVec.toNat_ofNat, Nat.mod_eq_of_lt (h.trans_le hwidth)]
  case top =>
    rw [increment_at_top hv h]
    refine ⟨overflow_evcntr _ n, ?_, fun m hm => ?_, overflow_irq _ n⟩
    · rw [overflow_ovs, bit_setBit_same _ _ hn]
    · rw [overflow_ovs, bit_setBit_ne _ _ hm]
  case ras =>
    obtain ⟨l, hl⟩ := rasDetect_eq (s := { s with agenda := rest }) hg hr hon htyp
    refine ⟨_, ({ s with agenda := rest } : State).rasRecorded grp n e r, step_of_agenda hagenda hoff, rasDetectRec_frame _ _ _ _ _ r,
      ?_, fun hue h => ?higher, fun hue h => ?notHigher, fun hde h => ?deferred, fun hce h => ?corrected⟩
    · rw [hl]
    case higher =>
      obtain ⟨hv, hueBit, huet, hserr, hierr, hav, haddr, hover⟩ := recorded_of_higher s.impl (rasNode grp n).1 (rasNode grp n).2
        (bit s.free 0) (e := s.maskedErr e) hue h
      exact ⟨hv, hueBit, huet, hserr, hierr, hav.trans Option.isSome_map, fun a ha => haddr.trans (by simp [State.maskedErr, ha]),
        fun ha => haddr.trans (by simp [State.maskedErr, ha]), hover⟩
    case notHigher => exact recorded_of_notHigher _ _ _ _ hue h
    case deferred => exact recorded_of_deferred _ _ _ _ hde h
    case corrected => exact recorded_of_corrected _ _ _ _ hce h

end Sys2Proof.Machine
end

section
/-! PROOF. Reset: the state right after it, a reset from any state, and a reset for error recovery (70_reset_and_hazards.md R1900 to R1902,
52_ras.md R1550, R1575). -/
namespace Sys2Proof.Machine

/-! ### The state right after reset -/

/-- The identification registers that the model presents meet the constraints on them (10_state.md R170). -/
theorem reset_idsConsistent : State.reset.idsConsistent = true := by decide

/-- There are no RAS records in it (52_ras.md R1510). -/
theorem reset_rasConsistent : State.reset.rasConsistent = true := rfl

/-- No enable of an interface is set, in effect or acknowledged, and no global error has been raised. -/
def Iface.Quiet (i : Iface) : Prop :=
  i.cr0 = 0 ∧ i.cr0Ack = 0 ∧ i.cr0Eff = 0 ∧ i.gerror = 0 ∧ i.gerrorn = 0 ∧ i.irqCtrl = 0 ∧ i.irqCtrlAck = 0

theorem quiet_reset (gbpa : W32) (ptm : Bool) : (Iface.reset gbpa ptm).Quiet := ⟨rfl, rfl, rfl, rfl, rfl, rfl, rfl⟩

theorem reset_iface (q : Sec) : ∃ gbpa ptm, State.reset.iface q = Iface.reset gbpa ptm := by
  cases q
  · exact ⟨_, _, rfl⟩
  · exact ⟨_, _, rfl⟩

/-- Settles O53. -/
theorem resetValues : Obligations.ResetValues := by
  refine ⟨fun q => ?_, rfl, rfl, rfl, rfl, rfl, rfl, rfl, rfl, rfl, rfl, rfl, reset_idsConsistent, reset_rasConsistent⟩
  obtain ⟨gbpa, ptm, hq⟩ := reset_iface q
  obtain ⟨hcr0, hack, heff, hgerror, hgerrorn, hirq, hirqAck⟩ := quiet_reset gbpa ptm
  rw [State.smmuen, State.cmdqen, State.eventqen, hq, heff]
  exact ⟨hcr0, hack, hirq, hirqAck, hgerror, hgerrorn, rfl, rfl, rfl⟩

/-! ### A reset from any state -/

/-- The registers that an implementation presets are those of the Stream table, the queues and the attributes of their accesses. -/
theorem presetIface_eq (s : State) (q : Sec) (i : Iface) : ∃ base cfg cr1 cr1Read cmdq eventq, s.presetIface q i =
    { i with strtabBase := base, strtabCfg := cfg, cr1 := cr1, cr1Read := cr1Read, cmdqBase := cmdq, eventqBase := eventq } := by
  unfold State.presetIface
  dsimp only
  split <;> split <;> exact ⟨_, _, _, _, _, _, rfl⟩

theorem resetTo_iface (s : State) (cold : Bool) (q : Sec) : ∃ gbpa ptm, (s.resetTo cold).iface q = s.presetIface q (Iface.reset gbpa ptm) := by
  cases q <;> cases cold <;> exact ⟨_, _, rfl⟩

theorem resetTo_quiet (s : State) (cold : Bool) (q : Sec) : ((s.resetTo cold).iface q).Quiet := by
  obtain ⟨gbpa, ptm, hq⟩ := resetTo_iface s cold q
  obtain ⟨_, _, _, _, _, _, hpreset⟩ := presetIface_eq s q (Iface.reset gbpa ptm)
  rw [hq, hpreset]
  exact quiet_reset gbpa ptm

/-- Of the RAS records, a reset for error recovery changes ERRCTLR only (52_ras.md R1575). -/
theorem rasErReset_records (d : Nat) (l : List RasGroup) :
    (rasErReset d l).map (fun g => g.recs.map fun r => (r.status, r.addr, r.misc0, r.misc1)) =
      l.map fun g => g.recs.map fun r => (r.status, r.addr, r.misc0, r.misc1) := by
  have hrecs (v : Nat → BitVec 512) (recs : List RasRec) :
      (recs.mapIdx fun k r => r.erReset (v k)).map (fun r => (r.status, r.addr, r.misc0, r.misc1)) =
        recs.map fun r => (r.status, r.addr, r.misc0, r.misc1) := by
    refine List.ext_getElem (by simp) fun k _ _ => ?_
    simp [RasRec.erReset]
  refine List.ext_getElem (by simp [rasErReset]) fun i _ _ => ?_
  simp only [rasErReset, List.getElem_map, List.getElem_mapIdx]
  exact hrecs _ _

/-- A Cold reset clears every record. -/
theorem cold_records {s : State} {g : RasGroup} (hg : g ∈ (s.resetTo true).ras) {r : RasRec} (hr : r ∈ g.recs) :
    r.ctlr = 0 ∧ bit r.status 30 = false := by
  obtain ⟨g', -, rfl⟩ := List.mem_map.1 hg
  obtain ⟨r', -, rfl⟩ := List.mem_map.1 hr
  exact ⟨rfl, BitVec.getLsbD_zero⟩

/-- A reset is acted on whether the SMMU is powered or not. -/
theorem step_reset {s : State} {rest : List Stimulus} (h : s.agenda = .reset :: rest) :
    step s = .next (({ s with agenda := rest } : State).resetTo true) := by
  simp only [step, h, State.take]
  split <;> rfl

/-- A reset for error recovery needs power (log entry 25). -/
theorem step_errorRecoveryReset {s : State} {rest : List Stimulus} (h : s.agenda = .errorRecoveryReset :: rest) :
    step s = if s.off then .refused .poweredOff else .next (({ s with agenda := rest } : State).resetTo false) := by
  simp only [step, h, State.take]
  rfl

/-- Settles O54. -/
theorem resetFromAnyState : Obligations.ResetFromAnyState := by
  intro s rest cold h
  refine ⟨fun hwarm hoff => ?refused, fun hpower => ⟨({ s with agenda := rest } : State).resetTo cold, ?next, ?state⟩⟩
  case refused =>
    rw [hwarm] at h
    rw [step_errorRecoveryReset h, if_pos hoff]
  case next =>
    cases cold with
    | true => exact step_reset h
    | false =>
      have hon : s.off = false := hpower.resolve_left Bool.false_ne_true
      rw [step_errorRecoveryReset h, hon]
      rfl
  case state =>
    have hcleared : cold = true → ∀ g ∈ (({ s with agenda := rest } : State).resetTo cold).ras, ∀ r ∈ g.recs,
        r.ctlr = 0 ∧ bit r.status 30 = false := by
      rintro rfl g hg r hr
      exact cold_records hg hr
    have hkept : cold = false → (({ s with agenda := rest } : State).resetTo cold).ras.map
        (fun g => g.recs.map fun r => (r.status, r.addr, r.misc0, r.misc1)) =
        s.ras.map fun g => g.recs.map fun r => (r.status, r.addr, r.misc0, r.misc1) := by
      rintro rfl
      exact rasErReset_records _ _
    have hquiet := resetTo_quiet { s with agenda := rest } cold
    cases cold <;> exact ⟨rfl, rfl, rfl, rfl, rfl, rfl, rfl, rfl, rfl, rfl, rfl, rfl, rfl, rfl, rfl, rfl, rfl, rfl, rfl, rfl,
      hquiet, hcleared, hkept⟩

end Sys2Proof.Machine
end
